-- ==== Sys2Proof/Syntax.lean ====
section
/-! DEFINITION. The commands of the block: one constructor per row of the opcode table, and the types of their operands.

A mailbox command carries the tag and the argument words the host wrote (R356); a command with a host buffer address also
carries what the DMA of that buffer brought or how it ended. A register-write row carries the value written. An event row
carries what the event brings from outside: a level, a word received, the instant of an edge. -/

namespace Sys2Proof
/-- The data set an Announce message carries (R307). -/
structure AnnounceMsg where
  prio1 : Nat := 0
  clockClass : Nat := 0
  accuracy : Nat := 0
  variance : Nat := 0
  prio2 : Nat := 0
  grandmaster : Nat := 0
  steps : Nat := 0
  source : Nat := 0
  /-- logAnnounceInterval of the message, log2 seconds -/
  logInterval : Int := 1
deriving DecidableEq, Repr

/-- What the DMA of a host buffer brings: its bytes, or an error completion (R347). -/
inductive HostDma where
  | ok (bytes : List Byte)
  | fault
deriving DecidableEq, Repr

/-- What the code of a 64-byte block finds when it is read (R375): no error, one symbol in error, or more than it corrects. -/
inductive DramFault where
  | clean
  | one (symbol syndrome : Nat)
  | lost (syndrome : Nat)
deriving DecidableEq, Repr

/-- What a camera port receives for a packet row (R43, R45, R68): the 10-bit groups of each logical lane, whole columns of the stream
in which the packet ends or goes on, the ordered sets among them; those that SP receives meanwhile; the symbol time of the port at
which the first column reached its earliest lane; and how many entries the receive crossing lost. -/
structure VlpSyms where
  lost : Nat := 0
  lanes : List (List Nat)
  spare : List Nat := []
  at_ : Nat := 0
deriving DecidableEq, Repr

/-- A physical lane of a camera port: D0 to D3, and SP as lane 4. -/
structure LaneAt where
  port : Nat
  lane : Nat
deriving DecidableEq, Repr

/-- How a frame comes in (R30, R322): the network port that it reaches; the VID of its 802.1Q tag, if any; its length in bytes
with the tag; whether it came by UDP over IPv4, and then whether that packet has options or is a fragment; and whether the port's
receive crossing was full as it came. -/
structure NetWire where
  port : Nat := 0
  vid : Option Nat := none
  len : Nat := 64
  udp : Bool := false
  odd : Bool := false
  lost : Bool := false
deriving DecidableEq, Repr

/-- What a self-test cycle of a network port measured (Tables 15-4 and 15-5): codewords corrected and uncorrectable,
errored blocks, block and FEC lock held throughout, and the module's readings. -/
structure NetCycle where
  corr : Nat := 0
  uncorr : Nat := 0
  pcs : Nat := 0
  blockHeld : Bool := true
  fecHeld : Bool := true
  modPresent : Bool := true
  los : Bool := false
  noDdm : Bool := false
  temp : Nat := 0
  txPwr : Nat := 0
  rxPwr : Nat := 0
  bias : Nat := 0
deriving DecidableEq, Repr

/-- A beat of a tap (Table 19-1): tap, index, address of the block of the DRAM write path, up to 64 bytes, whether it begins
and ends an item, the check field of an item that ends (where the item's own bytes do not hold it), and whether the beat came
faster than a unit's pace (R403). -/
structure TapBeat where
  sel : Nat
  idx : Nat := 0
  addr : Nat := 0
  bytes : List Byte
  first : Bool := true
  last : Bool := true
  check : Nat := 0
  late : Bool := false
deriving DecidableEq, Repr

/-- What P0 meets while it reads the configuration flash at a boot: whether the flash answers, the parts (slot, part index)
that misread in octal DDR and reread right in quad SDR, and the slots whose read times out (R410, R414). -/
structure BootFlash where
  answers : Bool := true
  misread : List (Nat × Nat) := []
  timeouts : List Nat := []
deriving DecidableEq, Repr

/-- What the training of a DRAM channel ended with (R381, R382): stack and channel, FAILED, lanes repaired, read and write
margin in 2 ps, and the lane repair map with the per-lane error counts of the last helper run. -/
structure TrainCh where
  stack : Nat
  ch : Nat
  failed : Bool := false
  repaired : Nat := 0
  rdMargin : Nat := 0
  wrMargin : Nat := 0
  helper : List Nat := []
deriving DecidableEq, Repr

/-- A dwell of a lane calibration (R481): lane (4 = SP), CTLE setting, vertical margin in 2 mV, and whether it saw no mismatch and
no code violation. -/
structure Dwell where
  lane : Nat
  ctle : Nat
  margin : Nat
  clean : Bool := true
deriving DecidableEq, Repr


/-- The commands of the block: one constructor per row of the opcode table. -/
inductive Instr where
  /-- Mailbox 0x0201: port (R67). -/
  | camRetrain (tag : Word) (args : List Word)
  /-- Mailbox 0x0202: port, state 0 to 2 (R67). -/
  | camLp (tag : Word) (args : List Word)
  /-- Mailbox 0x0203: port, lane mask, pattern, enable (R67). -/
  | camPrbs (tag : Word) (args : List Word)
  /-- Mailbox 0x0204: port (R67). -/
  | camLaneInfo (tag : Word) (args : List Word)
  /-- Mailbox 0x0205: port, address, word count (R100). -/
  | camRegRead (tag : Word) (args : List Word)
  /-- Mailbox 0x0206: port, address, then 1 to 64 words (R100). -/
  | camRegWrite (tag : Word) (args : List Word)
  /-- Mailbox 0x0207: port (R100). -/
  | camIdent (tag : Word) (args : List Word)
  /-- Mailbox 0x0208: port (R100). -/
  | camVendorRead (tag : Word) (args : List Word)
  /-- Mailbox 0x0209: port, byte count, then the bytes four to a word (R100). -/
  | camVendorCmd (tag : Word) (args : List Word)
  /-- Mailbox 0x020A: port (R100). -/
  | camReset (tag : Word) (args : List Word)
  /-- Mailbox 0x0301: context, table identifier, host buffer address low and high, length; what the DMA of the buffer brings (R121, R123). -/
  | strTableLoad (tag : Word) (args : List Word) (dma : HostDma)
  /-- Mailbox 0x0302: context mask, TABLE_SWAP mask (R123). -/
  | strCommit (tag : Word) (args : List Word)
  /-- Mailbox 0x0303: context (R123). -/
  | strCtxInfo (tag : Word) (args : List Word)
  /-- Mailbox 0x0304: context, first output column, count (R144). -/
  | strBlRead (tag : Word) (args : List Word)
  /-- Mailbox 0x0305: set (R159). -/
  | rsFsRead (tag : Word) (args : List Word)
  /-- Mailbox 0x0306: mosaic (R181). -/
  | seamInfo (tag : Word) (args : List Word)
  /-- Mailbox 0x0307: mosaic, MD position low and high (R179, R181). -/
  | histLocate (tag : Word) (args : List Word)
  /-- Mailbox 0x0308: mosaic, k low and high (R179, R181). -/
  | histDirRead (tag : Word) (args : List Word)
  /-- Mailbox 0x0309: mosaic (R200). -/
  | lodeInfo (tag : Word) (args : List Word)
  /-- Mailbox 0x030A: mosaic mask (R200). -/
  | lodeCommit (tag : Word) (args : List Word)
  /-- Mailbox 0x030B: mosaic (R193, R200). -/
  | lodeCloseAll (tag : Word) (args : List Word)
  /-- Mailbox 0x0501: slot, host buffer address low and high, length; what the DMA of the buffer brings (R207, R221). -/
  | asyNetLoad (tag : Word) (args : List Word) (dma : HostDma)
  /-- Mailbox 0x0502: slot (R221). -/
  | asyNetInfo (tag : Word) (args : List Word)
  /-- Mailbox 0x0503: mosaic mask (R219, R221). -/
  | asyCommit (tag : Word) (args : List Word)
  /-- Mailbox 0x0504: patch reference (R218, R221). -/
  | asyPatchRead (tag : Word) (args : List Word)
  /-- Mailbox 0x0505, no argument (R221). -/
  | asyInfo (tag : Word) (args : List Word)
  /-- Mailbox 0x0601, no argument (R243). -/
  | shfInfo (tag : Word) (args : List Word)
  /-- Mailbox 0x0602: queue, count (R243). -/
  | shfQueueRead (tag : Word) (args : List Word)
  /-- Mailbox 0x0603: ring, DEST, ENGINE, LIMIT (R243). -/
  | drConfig (tag : Word) (args : List Word)
  /-- Mailbox 0x0701: counter (R277). -/
  | tdlInfo (tag : Word) (args : List Word)
  /-- Mailbox 0x0702: counter, value low, value high (R277). -/
  | tdlPosLoad (tag : Word) (args : List Word)
  /-- Mailbox 0x0703: channel, CFG, target or ORG low and high (TIME_START in timed mode), PITCH, PITCH_REM (R277). -/
  | tdlCmpSet (tag : Word) (args : List Word)
  /-- Mailbox 0x0704: output, first count, number (R277). -/
  | tdlHistRead (tag : Word) (args : List Word)
  /-- Mailbox 0x0801: channel, CFG, 4 producers, 8 consumers, one word each (R292). -/
  | rnlChSet (tag : Word) (args : List Word)
  /-- Mailbox 0x0802: channel (R292). -/
  | rnlChInfo (tag : Word) (args : List Word)
  /-- Mailbox 0x0803: mask, values (R292). -/
  | rnlGrpSet (tag : Word) (args : List Word)
  /-- Mailbox 0x0804: mask (R292). -/
  | rnlSwev (tag : Word) (args : List Word)
  /-- Mailbox 0x0805, no argument (R292). -/
  | rnlCycleList (tag : Word) (args : List Word)
  /-- Mailbox 0x0901, no argument (R319). -/
  | timInfo (tag : Word) (args : List Word)
  /-- Mailbox 0x0902: mode, then the value in three words: a stamp of R296 for set, a signed 64-bit count of ns for step and slew, a signed 32-bit word for FREQ (R299). -/
  | timTb3Adj (tag : Word) (args : List Word)
  /-- Mailbox 0x0903: slot, BASE, PERIODIC, IRQ, target seconds low and high, target ns, PERIOD low and high (R303). -/
  | timTcSet (tag : Word) (args : List Word)
  /-- Mailbox 0x0904: port, domain (R319). -/
  | timPtpInfo (tag : Word) (args : List Word)
  /-- Mailbox 0x0905: seconds low and high (R313). -/
  | timTb0SecSet (tag : Word) (args : List Word)
  /-- Mailbox 0x0A01, no argument (R341). -/
  | netInfo (tag : Word) (args : List Word)
  /-- Mailbox 0x0A02: port (R341). -/
  | netPortInfo (tag : Word) (args : List Word)
  /-- Mailbox 0x0A03: port, device address, offset, length; the bytes the module's management memory answers, if any does (R341). -/
  | netModRead (tag : Word) (args : List Word) (answer : Option (List Byte))
  /-- Mailbox 0x0101, no argument (R360). -/
  | glbInfo (tag : Word) (args : List Word)
  /-- Mailbox 0x0102: first sequence number, count (R360). -/
  | logRead (tag : Word) (args : List Word)
  /-- Mailbox 0x0103, no argument (R360). -/
  | glbReset (tag : Word) (args : List Word)
  /-- Mailbox 0x0C01, no argument (R384). -/
  | memInfo (tag : Word) (args : List Word)
  /-- Mailbox 0x0C02: first entry, count (R384). -/
  | memErrRead (tag : Word) (args : List Word)
  /-- Mailbox 0x0C03: direction 0 with address low and high, or direction 1 with stack, PC, SID, bank group, bank, row, column (R384). -/
  | memDecode (tag : Word) (args : List Word)
  /-- Mailbox 0x0C04: stack, channel (R384). -/
  | memTrainInfo (tag : Word) (args : List Word)
  /-- Mailbox 0x0C05, no argument (R384). -/
  | memLogClear (tag : Word) (args : List Word)
  /-- Mailbox 0x0D01, no argument (R398). -/
  | sluInfo (tag : Word) (args : List Word)
  /-- Mailbox 0x0D02: bytes 0 to 39 of a descriptor in ten words (R398). -/
  | sluRun (tag : Word) (args : List Word)
  /-- Mailbox 0x0E01: unit (R407). -/
  | cvInfo (tag : Word) (args : List Word)
  /-- Mailbox 0x0E02: unit, CFG, INIT, window base low and high, window size (R407). -/
  | cvSet (tag : Word) (args : List Word)
  /-- Mailbox 0x0E03: unit (R404). -/
  | cvSave (tag : Word) (args : List Word)
  /-- Mailbox 0x0E04: unit, value, byte count low and high (R404). -/
  | cvRestore (tag : Word) (args : List Word)
  /-- Mailbox 0x0F01, no argument (R427). -/
  | cfgInfo (tag : Word) (args : List Word)
  /-- Mailbox 0x0F02: class, first, count, use (R424). -/
  | cfgClaim (tag : Word) (args : List Word)
  /-- Mailbox 0x0F03: class, first, count (R424). -/
  | cfgRelease (tag : Word) (args : List Word)
  /-- Mailbox 0x0F04, no argument (R427). -/
  | cfgClaimList (tag : Word) (args : List Word)
  /-- Mailbox 0x0F05: offset, length (R427). -/
  | cfgRecordsRead (tag : Word) (args : List Word)
  /-- Mailbox 0x1001, no argument (R460). -/
  | secInfo (tag : Word) (args : List Word)
  /-- Mailbox 0x1002, no argument (R435). -/
  | secSessionOpen (tag : Word) (args : List Word)
  /-- Mailbox 0x1003: the signature in 24 words, or none (R435). -/
  | secSessionAuth (tag : Word) (args : List Word)
  /-- Mailbox 0x1004, no argument (R435). -/
  | secSessionClose (tag : Word) (args : List Word)
  /-- Mailbox 0x1005: the nonce in eight words (R433). -/
  | secQuote (tag : Word) (args : List Word)
  /-- Mailbox 0x1006: index (R432). -/
  | secCertRead (tag : Word) (args : List Word)
  /-- Mailbox 0x1007: key in bytes 0 to 96, signature in bytes 97 to 192 (R436). -/
  | secOwnerProvision (tag : Word) (args : List Word)
  /-- Mailbox 0x1008, no argument (R437). -/
  | secOwnerRetire (tag : Word) (args : List Word)
  /-- Mailbox 0x1009: 0 clears, 1 sets (R438). -/
  | secLock (tag : Word) (args : List Word)
  /-- Mailbox 0x100A, no argument (R439). -/
  | secDebugLock (tag : Word) (args : List Word)
  /-- Mailbox 0x100B, no argument (R441). -/
  | updOpen (tag : Word) (args : List Word)
  /-- Mailbox 0x100C: slot offset, host buffer address low and high, length; what the DMA of the buffer brings (R445). -/
  | updWrite (tag : Word) (args : List Word) (dma : HostDma)
  /-- Mailbox 0x100D, no argument (R446). -/
  | updVerify (tag : Word) (args : List Word)
  /-- Mailbox 0x100E: mode (R447). -/
  | updActivate (tag : Word) (args : List Word)
  /-- Mailbox 0x100F, no argument (R443). -/
  | updClose (tag : Word) (args : List Word)
  /-- Mailbox 0x1010, no argument (R460). -/
  | updStatus (tag : Word) (args : List Word)
  /-- Mailbox 0x1101, no argument (R477). -/
  | pwrInfo (tag : Word) (args : List Word)
  /-- Mailbox 0x1102: slot (R477). -/
  | pwrSagRead (tag : Word) (args : List Word)
  /-- Mailbox 0x1103, no argument (R477). -/
  | pwrJnlClear (tag : Word) (args : List Word)
  /-- Mailbox command 0x1201: no argument (R495). -/
  | calInfo (tag : Word) (args : List Word)
  /-- Mailbox command 0x1202: a 19-bit item mask (R478, R495). -/
  | calRun (tag : Word) (args : List Word)
  /-- Mailbox command 0x1203: a 14-bit partition mask; OWN session only (R487). -/
  | bistRun (tag : Word) (args : List Word)
  /-- Mailbox command 0x1204: no argument (R495). -/
  | bistResult (tag : Word) (args : List Word)
  /-- Mailbox command 0x1205: copy, offset, length (R495). -/
  | calStoreRead (tag : Word) (args : List Word)
  /-- A doorbell write with a code that Table 16-5 lacks (R358). -/
  | badCode (code : Nat) (tag : Word) (args : List Word)
  /-- A doorbell write of `v` while BUSY is 1 (R357). -/
  | dbOverrun (v : Word)
  /-- The host writes a BAR0 register; bits whose write has behaviour of its own belong to the rows that name them (R7 to R10). -/
  | registerWrite (addr : Nat) (v : Word)
  /-- A BAR0 access that is not an aligned 32-bit one (R344). -/
  | bar0Size (read : Bool)
  /-- A BAR2 write of bytes; `meets` is what a partial block's read finds (R345). -/
  | bar2Write (offset : Nat) (bytes : List Byte) (meets : DramFault)
  /-- A BAR2 read of n bytes; what the read of the block, and of its mirror, finds (R345, R346). -/
  | bar2Read (offset n : Nat) (meets mirror : DramFault)
  /-- Host write of `v` to CAM_CTRL (R51, Table 3-10); TRAIN is its bit 0. -/
  | train (port : Nat) (v : Word)
  /-- Host write of `v` to CAM_CTRL (R62, R65); LP_REQ is its bits 2 to 1. -/
  | lpReq (port : Nat) (v : Word)
  /-- Host write of `v` to CAM_PRBS_CTRL, and the raw bits that lanes then receive until the next write (R61). -/
  | prbsEn (port : Nat) (v : Word) (stream : List (Nat × List Bool))
  /-- Host write of `v` to CTX_BANK_CTRL (R118). -/
  | commit (ctx : Nat) (v : Word)
  /-- Host write of `v` to STR_GROUP_COMMIT (R120). -/
  | strGroupCommit (v : Word)
  /-- Host write of `v` to BL_CTRL (R136). -/
  | freezeAll (ctx : Nat) (v : Word)
  /-- Host write of `v`, with its ACQUIRE bit, to BL_CTRL (R138). -/
  | acquire (ctx : Nat) (v : Word)
  /-- Host write of `v` to LODE_CTRL of mosaic m (R198). -/
  | lodeCtrlCommit (m : Nat) (v : Word)
  /-- Host write of `v` to ASY_CTRL (R219). -/
  | asyCtrlCommit (v : Word)
  /-- Host write of 1 to LOAD of TDL_POSn_CTRL (R257). -/
  | load (n : Nat)
  /-- Host write of `v` to TDL_CMPn_TGT_LO (R265). -/
  | tgtLo (n : Nat) (v : Word)
  /-- Host write of `v` to TDL_CMPn_START_LO (R268). -/
  | startLo (n : Nat) (v : Word)
  /-- Host write of `v` to TDL_CMPn_CFG with its ARM bit (R265, R281). -/
  | arm (n : Nat) (v : Word)
  /-- Host write of `mask` to TIM_SNAP (R297). -/
  | timSnap (mask : Word)
  /-- Host write of `v` to TIM_TCn_TGT_NS (R303). -/
  | tgtNs (n : Nat) (v : Word)
  /-- Host write of `v`, with bit 0 set, to TIM_TCn_CFG (R306); with bit 0 clear only the plain fields are written. -/
  | disarm (n : Nat) (v : Word)
  /-- Host write of `v` to RNL_CHc_CFG (R290). -/
  | rnlChcCfg (c : Nat) (v : Word)
  /-- Host write of `v` to RNL_GRP_EN (R285). -/
  | rnlGrpEn (v : Word)
  /-- Host write of `v` to RNL_SWEV (R288). -/
  | swev (v : Word)
  /-- Host write of `v` to GLB_GPIO_OUT (R500). -/
  | glbGpioOut (v : Word)
  /-- Host write of `v`, with its RUN bit, to HIF_DMAe_CFG (R348, R350, R355). -/
  | dmaRun (e : Nat) (v : Word)
  /-- Host write of `v`, with RUN = 0, to HIF_DMAe_CFG (R352). -/
  | dmaStop (e : Nat) (v : Word)
  /-- Host write of `v` to HIF_DMAe_WR (R350). -/
  | dmaWr (e : Nat) (v : Word)
  /-- Host write of `v` to HIF_DMAe_RD (R348). -/
  | dmaRd (e : Nat) (v : Word)
  /-- Host write of `v` to SLU_CTRL (R396). -/
  | sluEn (v : Word)
  /-- Host write of `v` to SLU_JOB_WR (R389). -/
  | sluJobWr (v : Word)
  /-- Host write of `v` to CV_CFG (R402). -/
  | cvEn (u : Nat) (v : Word)
  /-- Host write of `v` to CV_VALUE (R404). -/
  | cvValue (u : Nat) (v : Word)
  /-- Host write of `v` to CV_SAVE (R404). -/
  | save (u : Nat) (v : Word)
  /-- The host writes CAL_REQ (R478). -/
  | calReq (v : Word)
  /-- JTAG EXTEST, with the value shifted into the boundary register (R490, R491). -/
  | extest (bsr : Nat)
  /-- JTAG SAMPLE/PRELOAD, with the value shifted into the boundary register (R490). -/
  | samplePreload (bsr : Nat)
  /-- JTAG IDCODE (R490). -/
  | idcode
  /-- JTAG CLAMP (R491). -/
  | clamp
  /-- JTAG HIGHZ (R491). -/
  | highz
  /-- JTAG EXTEST_PULSE of IEEE 1149.6, with the value shifted into the boundary register (R491). -/
  | extestPulse (bsr : Nat)
  /-- JTAG EXTEST_TRAIN of IEEE 1149.6, with the value shifted into the boundary register (R491). -/
  | extestTrain (bsr : Nat)
  /-- JTAG WRAP_ACCESS (R490). -/
  | wrapAccess
  /-- JTAG REG_READ: the BAR0 offset; the data register answers with it and the value (R492). -/
  | regRead (addr : Nat)
  /-- JTAG PITMAN_DEBUG (R490). -/
  | pitmanDebug
  /-- JTAG UNLOCK_CHAL: the nonce is read (R493). -/
  | unlockChal
  /-- JTAG UNLOCK_RESP: the signature, r then s (R493). -/
  | unlockResp (sig : List Byte)
  /-- JTAG LOCK_STATUS (R490). -/
  | lockStatus
  /-- JTAG BYPASS, or any code that Table 23-6 does not list (R490). -/
  | bypass
  /-- The TAP leaves an EXTEST-class instruction for Test-Logic-Reset (R491). -/
  | tapExitReset
  /-- RESET_N goes low (R501). -/
  | resetNLow
  /-- RESET_N goes high: the boot starts, meeting a flash as described (R412). -/
  | resetNRelease (flash : BootFlash)
  /-- The write of the epoch record ends, with or without success (R411). -/
  | epochWrite (ok : Bool)
  /-- DRAM training ends: what its channels measured; an unlisted channel passed (R382). -/
  | dramReady (train : List TrainCh)
  /-- The last condition of R413 comes to hold; the stage the self-check of a starting trial failed, 0 for none (R450). -/
  | inspReady (selfFail : Nat)
  /-- A HELLO arrives on a lane: the eight 10-bit groups of its ordered set, as in every link management row (R43, R49, R51). -/
  | hello (port lane : Nat) (groups : List Nat)
  /-- 100 ms in DETECT without a valid HELLO (R51). -/
  | detectTimeout (port : Nat)
  /-- The camera's ACK to RATE arrives on D0 (R51). -/
  | rateAck (port lane : Nat) (groups : List Nat)
  /-- The LOCK period ends: the physical lanes with symbol lock (R51). -/
  | lockEnd (port : Nat) (locked : List Nat)
  /-- An ACK or NAK of a coefficient REQ arrives on a lane (R52). -/
  | ack (port lane : Nat) (groups : List Nat)
  /-- 4 µs without an answer to the lane's REQ (R52). -/
  | reqTimeout (port lane : Nat)
  /-- The lane's dwell ends: its eye margin, its CTLE setting, and the code violations among the groups of the dwell that no row
  brought (R53). -/
  | dwellEnd (port lane margin ctle violations : Nat)
  /-- TX_EQ ends (R54). -/
  | sweepEnd (port : Nat)
  /-- A DONE_ACK arrives on a lane (R51). -/
  | doneAck (port lane : Nat) (groups : List Nat)
  /-- 10 µs pass in CONFIG since the last DONE (R51). -/
  | doneRetry (port : Nat)
  /-- An alignment marker arrives on a physical lane: its four 10-bit groups, and its symbol time of the port (R43, R46, R47). -/
  | alignmentMarker (l : LaneAt) (g0 g1 g2 g3 : Nat) (at_ : Nat)
  /-- The port's alignment is decided (R51). -/
  | deskewDone (port : Nat)
  /-- An idle ordered set arrives on a lane: its four 10-bit groups (R43, R44). -/
  | idleOrderedSet (l : LaneAt) (g0 g1 g2 g3 : Nat)
  /-- 256 consecutive idle ordered sets on a lane (R57). -/
  | ctleFreeze (port lane : Nat)
  /-- 64 further symbols outside ordered sets on a lane (R57). -/
  | ctleResume (port lane : Nat)
  /-- A lane receives these 10-bit groups, with 8 or more code violations in 1,024 of them, or has missed two markers in a row (R43, R48). -/
  | lossOfLock (port lane : Nat) (groups : List Nat) (missed : Bool)
  /-- A lane's margin has been below EYE_MIN for 1 ms (R58). -/
  | retrainReq (port lane margin : Nat)
  /-- One second in FAULT (R56). -/
  | faultRetry (port : Nat)
  /-- A waiting request for SP is served (R59). -/
  | spGrant (port : Nat)
  /-- SP has symbol lock and four markers that agree with the mirrored lane (R60). -/
  | spareMirror (port : Nat)
  /-- The mirrored logical lane returns to its lane at a marker; `spLost` when SP lost lock during the mirror (R60). -/
  | spareReturn (port : Nat) (spLost : Bool)
  /-- LP_IDLE_T without a line (R62). -/
  | lpIdleT (port : Nat)
  /-- An EBB_ENTER or SLACK_ENTER arrives on a lane (R62). -/
  | ebbEnter (port lane : Nat) (groups : List Nat)
  /-- A waking camera's idle ordered sets and marker arrive on every lane (R63). -/
  | lpExit (port : Nat)
  /-- A packet sent as line start reaches its EOP (R76, R108). -/
  | lineStart (port : Nat) (p : VlpSyms)
  /-- A packet sent as pixels reaches its EOP (R78). -/
  | pixelPacket (port : Nat) (p : VlpSyms)
  /-- A packet sent as line end reaches its EOP (R77, R78). -/
  | lineEnd (port : Nat) (p : VlpSyms)
  /-- 1 ms without a VC-scope packet on a virtual channel (R80). -/
  | lineTimeout (port vc : Nat)
  /-- A packet sent as status reaches its EOP (R84). -/
  | statusPacket (port : Nat) (p : VlpSyms)
  /-- A packet sent as vendor packet reaches its EOP (R85). -/
  | vendorPkt (port : Nat) (p : VlpSyms)
  /-- A packet sent as back-channel reply reaches its EOP (R87). -/
  | backChannelReply (port : Nat) (p : VlpSyms)
  /-- 10 µs without a reply to the outstanding command (R89). -/
  | bcReplyTimeout (port : Nat)
  /-- LINE_WAIT has passed since the issue of stamp E without its line start (R109). -/
  | lineWait (ctx : Nat)
  /-- RESYNC_N ORPHAN line starts in a row (R110). -/
  | resync (ctx : Nat)
  /-- The strand, idle, samples its complete stripes and takes one (R113). -/
  | stripeStart (strand : Nat)
  /-- A column frozen for FREEZE_MAX lines meets sample x (R135). -/
  | freezeTimeout (ctx col x : Nat)
  /-- The strand finishes its stripe; the entries of BLACK and DEFCOL, the tracker columns and the resampler state that it found unreadable (R107, R142, R157). -/
  | stripeEnd (strand : Nat) (badBlack badDef badTrk : List Nat) (rs : Bool)
  /-- FLUSH_T has passed without a new entry on the context's incomplete stripe (R114). -/
  | flush (ctx : Nat)
  /-- The BL_FREEZE task input is activated (R137). -/
  | blFreeze (ctx : Nat)
  /-- The BL_THAW task input is activated (R137). -/
  | blThaw (ctx : Nat)
  /-- The BL_ACQUIRE task input is activated (R138). -/
  | blAcquire (ctx : Nat)
  /-- The COMMIT task input of a context is activated (R118). -/
  | commitTask (ctx : Nat)
  /-- The Seam unit accepts the next n output lines of a context; line 64k + 63 delivers stripe k (R165). -/
  | delivery (ctx n : Nat)
  /-- The wait timer of stripe k of mosaic m expires (R166). -/
  | memberTimeout (m : Nat) (k : Int)
  /-- A member masked in BLIND_N consecutive stripes, or dark, is blind (R168, R169). -/
  | memberBlind (ctx : Nat)
  /-- Lode has released the history slot that mosaic m waits for (R178). -/
  | histStallEnd (m : Nat)
  /-- Engine e finishes labelling its oldest unit (R186). -/
  | unitLabelled (e : Nat)
  /-- The first engine of mosaic m settles its oldest labelled unit; `stalled` when that takes long enough to stall the Seam unit (R188, R195). -/
  | settlement (m : Nat) (stalled : Bool)
  /-- The cut step of mosaic m's settlement (R191). -/
  | cut (m : Nat)
  /-- STILL_CLOSE_T has passed since mosaic m's last hand-over (R192). -/
  | stillClose (m : Nat)
  /-- The LODE_CLOSE_ALL task input of mosaic m is activated (R193). -/
  | closeAllTask (m : Nat)
  /-- The LODE_COMMIT task input of mosaic m is activated (R198). -/
  | lodeCommitTask (m : Nat)
  /-- PAD_WAIT has passed since the queue time of job i, oldest 0, of mosaic m (R203). -/
  | padWait (m i : Nat)
  /-- Assay takes the ready job with the earliest queue time and runs its network. (R213) -/
  | assayTake
  /-- The write of CLASS completes a job and hands class and confidence to the record builder. (R214) -/
  | result
  /-- ASSAY_DEADLINE expiring before the result issues the record UNASSAYED with cause DEADLINE. (R214) -/
  | assayDeadline
  /-- Weight SRAM of a slot's network reads in error (R217). -/
  | sramErr (slot : Nat) (corrected : Bool)
  /-- The reload of a slot from its DRAM copy ends (R217). -/
  | slotReload (slot : Nat)
  /-- An edge of A (or B) of ENCn to a level, stable for FILT_T: its threshold crossing and its acceptance on TB2 in units of 125 ps; `pair` is the crossing of an edge of the other line accepted with it (R244 to R247). -/
  | encoderEdge (n : Nat) (lineB level : Bool) (t acc : Nat) (pair : Option Nat)
  /-- A pair of ENCn (0 A, 1 B, 2 Z) stays below 50 mV for 1 µs (R248). -/
  | wireFault (n line : Nat)
  /-- The Z input of ENCn changes; a rising edge acts (R249). -/
  | zEdge (n : Nat) (level : Bool) (t : Nat)
  /-- The Hall levels change (R250). -/
  | hallTransition (u v w : Bool) (t acc : Nat)
  /-- SSI_PERIOD passes on SSIn: whether SSIn_DAT was high, and the first falling clock edge (R251). -/
  | ssiPeriod (n : Nat) (idle : Bool) (t : Nat)
  /-- The last bit of SSIn's frame is sampled: data bits, error bit and check bits (R252). -/
  | ssiWord (n word errBit check acc : Nat)
  /-- SSI_TO expires on SSIn (R253). -/
  | ssiTo (n : Nat)
  /-- The POSn_LOAD task input is activated (R257). -/
  | posnLoad (n : Nat)
  /-- STANDSTILL_T passes on POSn without an edge (R260). -/
  | standstill (n : Nat)
  /-- The scheduled firing of CMPn comes due (R262). -/
  | interpolatedFire (n : Nat)
  /-- The next timed firing of CMPn comes due (R268). -/
  | timedFire (n : Nat)
  /-- The set-ARM task input of CMPn is activated (R281). -/
  | setArm (n : Nat)
  /-- The clear-ARM task input of CMPn is activated (R281). -/
  | clearArm (n : Nat)
  /-- A SYNC_IN pulse of `width` × 125 ps with its leading edge at t (R275). -/
  | syncInPulse (width t acc : Nat)
  /-- The enable task input of GRPg is activated (R285). -/
  | enableGrp (g : Nat)
  /-- The disable task input of GRPg is activated (R285). -/
  | disableGrp (g : Nat)
  /-- The drive-high task input of GPIOn is activated (R500). -/
  | driveHigh (n : Nat)
  /-- The drive-low task input of GPIOn is activated (R500). -/
  | driveLow (n : Nat)
  /-- Host task input n is activated (R280). -/
  | hostEvt (n : Nat)
  /-- The LOG_MARK task input is activated (R280). -/
  | logMark
  /-- A GPIO input level stable for 20 ns (R500). -/
  | gpioEdge (n : Nat) (level : Bool)
  /-- Time-compare slot n reaches its target (R303). -/
  | tcFire (n : Nat)
  /-- A Sync arrives at the port's PCS now: origin stamp and correctionField in 2^-16 ns; `lost` when its stamp was dropped at the crossing (R308, R310). -/
  | sync (w : NetWire) (domain seq source : Nat) (twoStep : Bool) (origin correction logInterval : Int) (lost : Bool)
  /-- A Follow_Up arrives with the precise origin stamp (R307). -/
  | followUp (w : NetWire) (domain seq source : Nat) (origin correction : Int)
  /-- The device transmits a Delay_Req, its start of frame passing the PCS now (R311). -/
  | delayReq (port domain : Nat) (lost : Bool)
  /-- A Delay_Resp arrives with the master's receipt stamp (R313). -/
  | delayResp (w : NetWire) (domain seq source : Nat) (receipt correction : Int)
  /-- A Pdelay_Req arrives now with its correctionField; the Pdelay_Resp passes the PCS `turnaround8` × 125 ps later (R311). -/
  | pdelayReq (w : NetWire) (domain : Nat) (correction turnaround8 : Int) (lost : Bool)
  /-- The LOG_PDELAY interval passes and a Pdelay_Req leaves now (R307). -/
  | pdelayReqTimer (port domain : Nat) (lost : Bool)
  /-- A Pdelay_Resp arrives now with its requestReceiptTimestamp and correctionField (R307). -/
  | pdelayResp (w : NetWire) (domain seq : Nat) (twoStep : Bool) (receipt correction : Int) (lost : Bool)
  /-- A Pdelay_Resp_Follow_Up arrives (R307). -/
  | pdelayRespFollowUp (w : NetWire) (domain seq : Nat) (origin correction : Int)
  /-- An Announce arrives (R307). -/
  | announce (w : NetWire) (domain : Nat) (a : AnnounceMsg)
  /-- A management or signaling message arrives (R307). -/
  | management (w : NetWire) (domain : Nat) (signaling : Bool)
  /-- A measurement of base b is missed (R314). -/
  | holdover (b : Nat)
  /-- HOLDOVER_T has passed since base b's last measurement (R314). -/
  | holdoverT (b : Nat)
  /-- A rising PPS_IN edge now (R315). -/
  | ppsIn
  /-- No PPS_IN edge within 1.1 s of the previous one (R315). -/
  | ppsInMiss
  /-- PPS_OFS has passed since a second of base PPS_SRC (R316). -/
  | ppsOut
  /-- A frame of GRANT_ETYPE arrives on a port: destination and source MAC, payload (R327). -/
  | grant (w : NetWire) (dst src : Nat) (payload : List Byte)
  /-- An ARB_SEL level has been stable for 1 µs (R326). -/
  | arbSel (level : Bool)
  /-- The new port sends its first frame (R329). -/
  | switched
  /-- 8 µs since the arrival point of the switchover (R330). -/
  | dualWindowEnd
  /-- GRANT_TO without an accepted grant (R328). -/
  | grantLost
  /-- A port loses its link (R328). -/
  | linkDown (port : Nat)
  /-- A port regains link (R332). -/
  | linkUp (port : Nat)
  /-- A port ends a self-test cycle with what it measured (R333). -/
  | selfTestCycle (port : Nat) (c : NetCycle)
  /-- An ARP request arrives (R323). -/
  | arpRequest (w : NetWire) (senderMac senderIp targetIp : Nat)
  /-- A frame with a wrong FCS, or else of no kind that Table 15-1 takes, arrives (R323). -/
  | rxErr (w : NetWire) (fcs : Bool)
  /-- A UDP datagram arrives at STATUS_PORT (R338). -/
  | statusRequest (w : NetWire) (srcMac srcIp srcPort : Nat) (payload : List Byte)
  /-- BATCH_T has passed since the open datagram's first record was taken (R337). -/
  | batchT (port : Nat)
  /-- The port's oldest record stream frame has fully left (R330). -/
  | frameSent (port : Nat)
  /-- An update packet arrives at UPD_PORT with OP 1: its source and its UDP payload (R456). -/
  | openReq (w : NetWire) (srcMac srcIp srcPort : Nat) (payload : List Byte)
  /-- The same with OP 3 (R457). -/
  | openAuth (w : NetWire) (srcMac srcIp srcPort : Nat) (payload : List Byte)
  /-- 5 s have passed since the oldest challenge held was issued (R457). -/
  | challengeExpiry
  /-- An update packet with OP 5 (R445). -/
  | data (w : NetWire) (srcMac srcIp srcPort : Nat) (payload : List Byte)
  /-- An update packet with OP 7 (R446). -/
  | verify (w : NetWire) (srcMac srcIp srcPort : Nat) (payload : List Byte)
  /-- An update packet with OP 8 (R447). -/
  | activate (w : NetWire) (srcMac srcIp srcPort : Nat) (payload : List Byte)
  /-- An update packet with OP 9 (R443). -/
  | close (w : NetWire) (srcMac srcIp srcPort : Nat) (payload : List Byte)
  /-- Verification ends; unset when the flash did not answer or the manifest did not read back (R446). -/
  | verifyDone (flashOk : Bool)
  /-- UPD_IDLE_T has passed without a request of the holder (R443). -/
  | updIdleT
  /-- Tracks and jobs have ended; the stage that the self-check of a warm activation failed, 0 for none (R448, R450). -/
  | activationCommit (selfFail : Nat)
  /-- The CONFIRMED record can be written (R453). -/
  | confirm
  /-- TRIAL_WINDOW has passed since the start of the trial (R454). -/
  | trialWindow
  /-- The USB4 link is lost (R354). -/
  | usb4LinkLoss
  /-- The host issues a function level reset (R354). -/
  | functionLevelReset
  /-- The host issues a hot reset (R354). -/
  | hotReset
  /-- The link trains, at Gen2 ×2 when set, and the function enumerates (R355). -/
  | attach (gen2 : Bool)
  /-- The host puts the function into D3hot (R343). -/
  | d3hot
  /-- A ring-mode engine takes a burst of up to n records (R348, R349). -/
  | dmaBurst (e n : Nat)
  /-- A copy-mode engine serves its next descriptor, whose 32 bytes it reads from host memory; `fault` when a host write of it completes with an error (R350). -/
  | copyDescriptor (e : Nat) (desc : List Byte) (fault : Bool)
  /-- INT_T has passed since the first unsignalled entry of an engine (R353). -/
  | intT (e : Nat)
  /-- A copy descriptor of an engine has waited AGE_T without service (R351). -/
  | ageT (e : Nat)
  /-- A read of n bytes within a block by a requester of Table 17-4; what it finds there and in the mirror block (R375 to R379). -/
  | dramRead (requester addr n : Nat) (meets mirror : DramFault)
  /-- A write of bytes by a requester of Table 17-4; what a partial block's read finds (R369, R377). -/
  | dramWrite (requester addr : Nat) (bytes : List Byte) (meets : DramFault)
  /-- The waiting request of that index, oldest 0, has waited AGE_LIMIT (R371). -/
  | urgent (index : Nat)
  /-- tREFI passes on a pseudo-channel (R373). -/
  | refresh (stack pc : Nat)
  /-- The scrubber reads blocks (given by block address): the errors it meets, and whether the pass is complete (R376). -/
  | scrub (found : List (Nat × DramFault)) (passEnds : Bool)
  /-- A stack reports a command or address parity error on a channel (R381). -/
  | parity (stack channel requester addr : Nat)
  /-- Firmware has retrained the channel and a full round of refresh has completed (R381). -/
  | recoveryEnd (stack channel : Nat)
  /-- A free lane takes the next job (R389). -/
  | laneTake (lane : Nat)
  /-- The lane's job ends; `mismatch` when its verifier found a byte that differs (R393, R394). -/
  | jobDone (lane : Nat) (mismatch : Bool)
  /-- A tap delivers a beat (R402). -/
  | tapBeat (b : TapBeat)
  /-- The bus has stayed above 11.4 V for 100 ms: its voltage in 10 mV and the level of PFAIL_N (R467). -/
  | holdBack (bus : Nat) (pfailN : Bool)
  /-- The bus has been below 11.2 V for 2 µs (R467). -/
  | holdLost (bus : Nat) (pfailN : Bool)
  /-- The filter of VSENSE or PFAIL_N ends: bus voltage in 10 mV, the sources asserted, the flash operation aborted (0 none, 1 program, 2 erase) (R468, R470). -/
  | sagDetection (bus : Nat) (vsense pfail : Bool) (flashOp : Nat)
  /-- The save ends: bus voltage before the last page in 10 mV, and the time to its start in µs (R470). -/
  | sagHold (vEnd saveUs : Nat)
  /-- The bus has stayed above 11.4 V with PFAIL_N high for 100 ms (R474). -/
  | sagHoldEnd
  /-- Firmware refreshes the staging area (R469). -/
  | stagingRefresh
  /-- The erase of a journal half ends, with or without success (R472). -/
  | journalErase (ok : Bool)
  /-- VCORE has stayed below 720 mV for 1 ms: its value in mV (R476). -/
  | vcoreLow (mv : Nat)
  /-- A pace window ends: the count of each region's ring over it, and the nanoseconds of it in which the region held data, in order
(R23, R24). -/
  | paceWindow (rgn : List (Nat × Nat))
  /-- The 100 ms average of sensor `t`, s16 in 1/16 °C as its 16 bits (R478). -/
  | tsenAverage (t avg : Nat)
  /-- A pending item starts, or is dropped where it cannot run (R479, R480). -/
  | calItemStart (item : Nat)
  /-- A running item completes: the dwells of a lane item, the margins of a DRAM item's channels, and whether any other setting changed (R482). -/
  | calItemDone (item : Nat) (dwells : List Dwell) (train : List TrainCh) (changed : Bool)
  /-- The write of the calibration store ends; the sections LANE, DRAM, TDC and TEMP are Birrix firmware's own bytes (R484, R485). -/
  | storeWrite (ok : Bool) (sections : List (List Byte))
  /-- The last partition is done: the signatures by partition, and the run time in ms (R488, R489). -/
  | bistDone (sigs : List Nat) (ms : Nat)
  /-- The running mailbox command completes (R356). -/
  | mailboxCompletion
  /-- The watchdog resets the device (R454). -/
  | watchdogReset
  /-- VCOVE is lost (R474). -/
  | vcoveLoss
  /-- The pair's differential input returns above 50 mV (R248). -/
  | wireFaultClear (n line : Nat)
  /-- A TB3 slew finishes absorbing its offset (R299). -/
  | slewAbsorbed
  /-- With the open tracks closed and the patch jobs ended, the selected partitions start to run (R488). -/
  | bistPartitionsRun
deriving DecidableEq, Repr

end Sys2Proof
end

