-- ==== Sys2Proof/Decode.lean ====
section
/-! DEFINITION. The command that a word spells by the bits of the opcode table. -/

namespace Sys2Proof

/-- spec/opcode_table.json gives bits to none of its rows (spec/98_reader.md counts no row with fixed bits or fields), so no word spells a
command. -/
def decodeTableWord (_nbits _w : Nat) : Option Instr := none

end Sys2Proof
end

