-- ==== Sys2Proof/Machine/Flags.lean ====
section
/-! DEFINITION. The check computations and grid arithmetic that several units share: CRCs (R70, R252, R401), Gray code,
and the grid of a mosaic (R145, R265). -/

namespace Sys2Proof.Machine

/-! ### CRCs -/

/-- One bit of a CRC with the top bit first: width `w`, polynomial `poly` without its top term. -/
def crcStepMsb (w poly r : Nat) (b : Bool) : Nat :=
  let top := r / 2 ^ (w - 1) % 2 = 1
  let r' := r * 2 % 2 ^ w
  if top != b then r' ^^^ poly else r'

/-- The bits of a byte, top bit first. -/
def msbBits (v : Nat) : List Bool := [7, 6, 5, 4, 3, 2, 1, 0].map (fun i => v / 2 ^ i % 2 == 1)

/-- A CRC over bits, top bit first. -/
def crcBitsMsb (w poly : Nat) (r : Nat) (bs : List Bool) : Nat := bs.foldl (crcStepMsb w poly) r

/-- HCRC of the Vilek header: polynomial 0x1021, initial 0xFFFF, no reflection, no final XOR (R70). -/
def crc16 (r : Nat) (bs : List Byte) : Nat := bs.foldl (fun r b => crcBitsMsb 16 0x1021 r (msbBits b.toNat)) r

/-- One bit of a reflected CRC-32 with reversed polynomial `poly`. -/
def crcBitRef (poly r : Nat) : Nat := if r % 2 = 1 then r / 2 ^^^ poly else r / 2

/-- One byte of a reflected CRC-32. -/
def crcByteRef (poly r : Nat) (b : Byte) : Nat :=
  (crcBitRef poly ∘ crcBitRef poly ∘ crcBitRef poly ∘ crcBitRef poly ∘ crcBitRef poly ∘ crcBitRef poly ∘ crcBitRef poly ∘
    crcBitRef poly) (r ^^^ b.toNat)

/-- The running register of CRC-32C: polynomial 0x1EDC_6F41 reflected (R70). -/
def crc32cFold (r : Nat) (bs : List Byte) : Nat := bs.foldl (crcByteRef 0x82F63B78) r

/-- CRC-32C: initial value and final XOR 0xFFFF_FFFF (R70). -/
def crc32c (bs : List Byte) : Nat := crc32cFold 0xFFFFFFFF bs ^^^ 0xFFFFFFFF

/-- The running register of the Ethernet CRC-32: polynomial 0x04C1_1DB7 reflected. -/
def crc32Fold (r : Nat) (bs : List Byte) : Nat := bs.foldl (crcByteRef 0xEDB88320) r

/-- The Ethernet CRC-32. -/
def crc32 (bs : List Byte) : Nat := crc32Fold 0xFFFFFFFF bs ^^^ 0xFFFFFFFF

/-- The `w` low bits of a number, top bit first. -/
def bitsMsb (w v : Nat) : List Bool := (List.range w).reverse.map (fun i => v / 2 ^ i % 2 == 1)

/-- CRC-6 of an SSI frame: polynomial 0x43, initial value 0 (R252). -/
def crc6 (bs : List Bool) : Nat := crcBitsMsb 6 0x03 0 bs

/-- Gray code to binary, over `w` bits. -/
def grayDecode (w v : Nat) : Nat := (List.range w).foldl (fun acc i => acc ^^^ (v / 2 ^ i)) 0 % 2 ^ w

/-! ### The grid of a mosaic (R145) and of a trigger generator (R265) -/

/-- The grid: origin, pitch, remainder numerator and denominator. -/
structure Grid where
  org : Int
  pitch : Nat
  num : Nat
  den : Nat
deriving DecidableEq, Repr

/-- A grid with the treatments of its registers: a remainder not below a non-zero denominator is 0 (R145, Table 12-5). -/
def Grid.norm (g : Grid) : Grid := if g.den ≠ 0 ∧ g.den ≤ g.num then { g with num := 0 } else g

/-- g(k) = ORG + k × PITCH_CU + ⌊k × REM_NUM / REM_DEN⌋, the last term 0 when REM_DEN is 0 (R145). -/
def Grid.at (g : Grid) (k : Int) : Int :=
  g.org + k * (g.pitch : Int) + (if g.den = 0 then 0 else (k * (g.num : Int)) / (g.den : Int))

/-- The least k whose g(k) lies strictly above a position: k × (pitch × den + num) < (q + 1) × den fails first there. -/
def Grid.next (g : Grid) (p : Int) : Int :=
  let q := p - g.org
  if g.den = 0 then q / (g.pitch : Int) + 1
  else ((q + 1) * (g.den : Int) - 1) / ((g.pitch * g.den + g.num : Nat) : Int) + 1

/-- Rounding halves up: ⌊(a + b/2) / b⌋ for a positive b. -/
def roundDiv (a b : Int) : Int := (2 * a + b) / (2 * b)

/-- An integer held to unsigned 16 bits. -/
def satU16 (v : Int) : Nat := (clampInt 0 65535 v).toNat

end Sys2Proof.Machine
end

