-- ==== Sys2Proof/Machine/AsyNet.lean ====
section
/-! DEFINITION. Assay networks: the blob and its checks (R206), layer shapes (R209, R211), BILL (R216), and the integer
arithmetic of the layers and of the class (R208 to R212). Tensors are lists, channel fastest, then width, then height. -/

namespace Sys2Proof.Machine

/-! ### The blob (Tables 10-1, 10-2) -/

/-- Bytes of DRAM for the copy of one blob (R206, R207). -/
def netArea : Nat := 0x801000

def blobByte (b : List Byte) (i : Nat) : Nat := (b.getD i 0).toNat
def blobFld (b : List Byte) (i n : Nat) : Nat := leNat ((b.drop i).take n)

def netLayers (b : List Byte) : Nat := blobByte b 6
/-- Patch size N. -/
def netN (b : List Byte) : Nat := 32 * 2 ^ blobByte b 7
def netFields (b : List Byte) : Nat := blobByte b 8
def netClasses (b : List Byte) : Nat := blobByte b 9
def netParams (b : List Byte) : Nat := blobFld b 12 4
def netInZero (b : List Byte) (f : Nat) : Nat := blobFld b (16 + 2 * f) 2
def netInShift (b : List Byte) (f : Nat) : Nat := blobByte b (24 + f)

/-- A layer descriptor. -/
structure Layer where
  ty : Nat
  stride2 : Bool
  padSame : Bool
  relu : Bool
  raw : Bool
  pool : Nat
  top : Nat
  ci : Nat
  co : Nat
  hi : Nat
  wi : Nat
  zpIn : Int
  zpOut : Int
  wOfs : Nat
  bOfs : Nat
  rest : Nat

/-- Descriptor `i` of a blob. -/
def netLayer (b : List Byte) (i : Nat) : Layer :=
  let a := 64 + 32 * i
  let f := blobByte b (a + 1)
  { ty := blobByte b a, stride2 := f % 2 == 1, padSame := f / 2 % 2 == 1, relu := f / 4 % 2 == 1, raw := f / 8 % 2 == 1,
    pool := f / 16 % 4, top := f / 64, ci := blobFld b (a + 2) 2, co := blobFld b (a + 4) 2, hi := blobFld b (a + 6) 2,
    wi := blobFld b (a + 8) 2, zpIn := toSigned 8 (blobByte b (a + 10)), zpOut := toSigned 8 (blobByte b (a + 11)),
    wOfs := blobFld b (a + 12) 4, bOfs := blobFld b (a + 16) 4, rest := blobFld b (a + 20) 12 }

def Layer.isPool (l : Layer) : Bool := l.ty == 4 || l.ty == 5
def Layer.stride (l : Layer) : Nat := if l.stride2 then 2 else 1

/-- The window of a layer: its side, and how far it begins above and left of its output's place. With PAD_SAME a 3 × 3 window
is centred; a 2 × 2 window begins at its place (DEDUCED, assumption 20). -/
def Layer.side (l : Layer) : Nat := if l.isPool then l.pool + 2 else 3
def Layer.lead (l : Layer) : Nat := if l.padSame ∧ l.side = 3 then 1 else 0

/-- Output length along one direction (R209, R211). -/
def Layer.outLen (l : Layer) (n : Nat) : Nat :=
  if l.ty = 1 ∨ l.ty = 3 ∨ l.isPool then
    if l.isPool ∧ l.pool = 2 then 1
    else if l.padSame then (n + l.stride - 1) / l.stride
    else if n < l.side then 0 else (n - l.side) / l.stride + 1
  else if l.ty = 2 then (n + l.stride - 1) / l.stride
  else if l.ty = 6 then 1
  else n

def Layer.ho (l : Layer) : Nat := l.outLen l.hi
def Layer.wo (l : Layer) : Nat := l.outLen l.wi

/-- Bytes of the weights and of the channel block (R208). -/
def Layer.weightBytes (l : Layer) : Nat :=
  match l.ty with
  | 1 => l.co * 9 * l.ci
  | 2 => l.co * l.ci
  | 3 => l.ci * 9
  | 6 => l.co * l.hi * l.wi * l.ci
  | _ => 0
def Layer.blockBytes (l : Layer) : Nat := if l.isPool then 0 else 8 * l.co

/-- Does a descriptor lie in its ranges by itself? -/
def Layer.fieldsOk (l : Layer) (params : Nat) : Bool :=
  decide (1 ≤ l.ty) && decide (l.ty ≤ 7) && l.top == 0 && l.pool != 3 && decide (1 ≤ l.ci) && decide (l.ci ≤ 1024) &&
  decide (1 ≤ l.co) && decide (l.co ≤ 1024) && decide (1 ≤ l.hi) && decide (l.hi ≤ 128) && decide (1 ≤ l.wi) &&
  decide (l.wi ≤ 128) && (!(l.ty == 3 || l.isPool || l.ty == 7) || l.co == l.ci) && (!l.isPool || l.zpIn == l.zpOut) &&
  l.wOfs % 64 == 0 && l.bOfs % 64 == 0 && (!(l.isPool || l.ty == 7) || l.wOfs == 0) && (!l.isPool || l.bOfs == 0) && l.rest == 0 &&
  !(l.ty == 7 && l.raw) && (l.ty != 6 || decide (l.hi * l.wi * l.ci ≤ 65536)) && decide (l.wOfs + l.weightBytes ≤ params) &&
  decide (l.bOfs + l.blockBytes ≤ params) && decide (1 ≤ l.ho) && decide (1 ≤ l.wo)

/-- Bytes of a layer's input and output tensors, int32 elements counting four. -/
def Layer.outBytes (l : Layer) : Nat := l.ho * l.wo * l.co * (if l.raw then 4 else 1)
def Layer.inBytes (l : Layer) (raw : Bool) : Nat := l.hi * l.wi * l.ci * (if raw then 4 else 1)

/-- The channel block's reserved bits are 0. -/
def Layer.blockOk (b : List Byte) (l : Layer) : Bool :=
  l.isPool || (List.range l.co).all (fun c => blobFld b (2048 + l.bOfs + 8 * c) 8 / 2 ^ 53 == 0)

/-- Check the layers from `i` on, `n` of them; `prev` is the layer before. Answers the failing index (R206). -/
def layersBad (b : List Byte) (total : Nat) : Nat → Nat → Option Layer → Option Nat
  | _, 0, _ => none
  | i, n + 1, prev =>
    let l := netLayer b i
    let fits := match prev with
      | none => l.hi == netN b && l.wi == netN b && l.ci == netFields b
      | some p => l.hi == p.ho && l.wi == p.wo && l.ci == p.co
    let rawIn := match prev with
      | none => false
      | some p => p.raw
    let last := i + 1 == total
    if l.fieldsOk (netParams b) && fits && l.blockOk b && decide (l.outBytes ≤ 1048576) && decide (l.inBytes rawIn ≤ 1048576) &&
        (!rawIn || l.ty == 7) && (!last || (l.ty == 6 && l.raw && l.co == netClasses b)) then
      layersBad b total (i + 1) n (some l)
    else some i

/-- The header and everything outside the layers. -/
def headerOk (b : List Byte) : Bool :=
  decide (2048 ≤ b.length) && blobFld b 0 4 == 0x4E595341 && blobFld b 4 2 == 1 && decide (1 ≤ netLayers b) &&
  decide (netLayers b ≤ 24) && decide (blobByte b 7 ≤ 2) && decide (1 ≤ netFields b) && decide (netFields b ≤ 4) &&
  decide (1 ≤ netClasses b) && decide (netClasses b ≤ 64) && decide (blobByte b 10 ≤ 31) && decide (netParams b ≤ 8388608) &&
  b.length == 2048 + netParams b && ((b.drop 24).take 4).all (fun x => decide (x.toNat ≤ 15)) &&
  ((b.drop 28).take 32).all (· == 0) && ((b.drop (64 + 32 * netLayers b)).take (32 * (24 - netLayers b))).all (· == 0) &&
  ((b.drop 1856).take 192).all (· == 0) && crc32c (b.take 60 ++ [0, 0, 0, 0] ++ b.drop 64) == blobFld b 60 4

/-- Why a blob is refused: the failing layer, or 0xFF for the header; none when it passes (R206). -/
def blobBad (b : List Byte) : Option Nat :=
  if headerOk b then layersBad b (netLayers b) 0 (netLayers b) none else some 0xFF

/-- A number rounded up to a multiple of 32. -/
def up32 (n : Nat) : Nat := (n + 31) / 32 * 32

/-- The billed multiply-accumulates of a layer (R216). -/
def Layer.bill (l : Layer) : Nat :=
  match l.ty with
  | 1 => l.ho * l.wo * up32 l.co * 9 * up32 l.ci
  | 2 => l.ho * l.wo * up32 l.co * up32 l.ci
  | 3 => l.ho * l.wo * up32 l.ci * 36
  | 6 => up32 l.co * l.hi * l.wi * up32 l.ci
  | _ => l.hi * l.wi * up32 l.ci

def netBill (b : List Byte) : Nat := (List.range (netLayers b)).foldl (fun n i => n + (netLayer b i).bill) 0

/-! ### Arithmetic (R205, R208 to R211) -/

def satS8 (v : Int) : Int := clampInt (-128) 127 v
def satS32 (v : Int) : Int := clampInt (-(2 ^ 31)) (2 ^ 31 - 1) v

/-- A sample as network input (R205). -/
def inputSample (z shift v : Nat) : Int :=
  satS8 (((v : Int) - z + (if shift = 0 then 0 else 2 ^ (shift - 1))) / 2 ^ shift)

/-- A tensor: height is implied by its use; width, channels, elements. -/
structure Tensor where
  h : Nat
  w : Nat
  c : Nat
  xs : List Int

/-- An element, when its place lies inside. -/
def Tensor.get (t : Tensor) (y x : Int) (c : Nat) : Option Int :=
  if 0 ≤ y ∧ y < t.h ∧ 0 ≤ x ∧ x < t.w then t.xs[(y.toNat * t.w + x.toNat) * t.c + c]? else none

/-- Saturations of accumulators and of int8 outputs. -/
structure Sats where
  acc : Nat := 0
  out : Nat := 0

/-- BIAS, M and S of an output channel (R208). -/
def chanBlock (b : List Byte) (l : Layer) (co : Nat) : Int × Nat × Nat :=
  let v := blobFld b (2048 + l.bOfs + 8 * co) 8
  (toSigned 32 (v % 2 ^ 32), v / 2 ^ 32 % 2 ^ 16, v / 2 ^ 48 % 32)

def weight (b : List Byte) (l : Layer) (i : Nat) : Int := toSigned 8 (blobByte b (2048 + l.wOfs + i))

/-- The output of an accumulator (R210). -/
def finish (b : List Byte) (l : Layer) (co : Nat) (sum : Int) (s : Sats) : Int × Sats :=
  let acc := satS32 sum
  let s := if acc = sum then s else { s with acc := s.acc + 1 }
  if l.raw then (acc, s)
  else
    let (_, m, sh) := chanBlock b l co
    let p := acc * (m : Int)
    let r := if sh = 0 then p else (p + 2 ^ (sh - 1)) / 2 ^ sh
    let y := satS8 (r + l.zpOut)
    let s := if y = r + l.zpOut then s else { s with out := s.out + 1 }
    (if l.relu then max y l.zpOut else y, s)

/-- The window places of a 3 × 3 or pooling layer at an output place. -/
def Layer.window (l : Layer) (oy ox : Nat) : List (Nat × Nat × Int × Int) :=
  (List.range l.side).flatMap (fun ky => (List.range l.side).map (fun kx =>
    (ky, kx, ((oy * l.stride + ky : Nat) : Int) - l.lead, ((ox * l.stride + kx : Nat) : Int) - l.lead)))

/-- Σ w × (x − ZP_IN) of an output element: a border sample reads ZP_IN and adds nothing (R209, R210). -/
def layerSum (b : List Byte) (l : Layer) (t : Tensor) (oy ox co : Nat) : Int :=
  match l.ty with
  | 1 => (l.window oy ox).foldl (fun a p => (List.range l.ci).foldl (fun a ci =>
      match t.get p.2.2.1 p.2.2.2 ci with
      | some x => a + weight b l (((co * 3 + p.1) * 3 + p.2.1) * l.ci + ci) * (x - l.zpIn)
      | none => a) a) 0
  | 2 => (List.range l.ci).foldl (fun a ci =>
      match t.get ((oy * l.stride : Nat) : Int) ((ox * l.stride : Nat) : Int) ci with
      | some x => a + weight b l (co * l.ci + ci) * (x - l.zpIn)
      | none => a) 0
  | 3 => (l.window oy ox).foldl (fun a p =>
      match t.get p.2.2.1 p.2.2.2 co with
      | some x => a + weight b l ((co * 3 + p.1) * 3 + p.2.1) * (x - l.zpIn)
      | none => a) 0
  | 6 => ((List.range t.xs.length).zip t.xs).foldl (fun a e => a + weight b l (co * t.xs.length + e.1) * (e.2 - l.zpIn)) 0
  | _ => 0

/-- The samples of a pooling window that lie inside (R211). -/
def poolSamples (l : Layer) (t : Tensor) (oy ox c : Nat) : List Int :=
  if l.pool = 2 then (List.range t.h).flatMap (fun (y : Nat) => (List.range t.w).filterMap (fun (x : Nat) => t.get (y : Int) (x : Int) c))
  else (l.window oy ox).filterMap (fun p => t.get p.2.2.1 p.2.2.2 c)

def poolOut (l : Layer) (vs : List Int) : Int :=
  if l.ty = 4 then vs.foldl max (-128)
  else (2 * vs.foldl (· + ·) 0 + vs.length) / (2 * (vs.length : Int))

/-- One output element of a layer. `rawIn` when its input is int32. -/
def layerElem (b : List Byte) (l : Layer) (rawIn : Bool) (t : Tensor) (oy ox co : Nat) (s : Sats) : Int × Sats :=
  if l.isPool then (poolOut l (poolSamples l t oy ox co), s)
  else
    let (bias, _, _) := chanBlock b l co
    if l.ty = 7 then finish b l co (bias + (t.get oy ox co).getD 0 - (if rawIn then 0 else l.zpIn)) s
    else finish b l co (bias + layerSum b l t oy ox co) s

/-- One layer. -/
def layerRun (b : List Byte) (l : Layer) (rawIn : Bool) (t : Tensor) (s : Sats) : Tensor × Sats :=
  let places := (List.range l.ho).flatMap (fun y => (List.range l.wo).flatMap (fun x => (List.range l.co).map (fun c => (y, x, c))))
  let (xs, s) := places.foldl (fun (r : List Int × Sats) p =>
    let (v, s) := layerElem b l rawIn t p.1 p.2.1 p.2.2 r.2
    (v :: r.1, s)) ([], s)
  ({ h := l.ho, w := l.wo, c := l.co, xs := xs.reverse }, s)

/-- The layers of a network from `i` on. -/
def netRun (b : List Byte) : Nat → Nat → Bool → Tensor → Sats → Tensor × Sats
  | _, 0, _, t, s => (t, s)
  | i, n + 1, rawIn, t, s =>
    let l := netLayer b i
    let (t, s) := layerRun b l rawIn t s
    netRun b (i + 1) n l.raw t s

/-! ### Class and confidence (R212) -/

/-- The greatest logit with the lowest index. -/
def bestLogit : List Int → Nat × Int
  | [] => (0, 0)
  | x :: xs => (List.zip (List.range xs.length) xs).foldl (fun b e => if b.2 < e.2 then (e.1 + 1, e.2) else b) (0, x)

/-- Class code, confidence, and the index of the greatest logit. -/
def classify (b : List Byte) (ls : List Int) : Nat × Nat × Nat :=
  let (i, m) := bestLogit ls
  let rest := (List.zip (List.range ls.length) ls).filter (fun e => e.1 != i)
  let conf := match rest with
    | [] => 255
    | e :: es =>
      let second := es.foldl (fun a x => max a x.2) e.2
      min 255 ((m - second) / 2 ^ blobByte b 10).toNat
  (if conf < blobByte b 11 then 0xFE else i, conf, i)

/-- Run a network on the patch of each field, in line order: class code, confidence, greatest-logit class, saturations. -/
def netAnswer (b : List Byte) (patch : List (List Nat)) : (Nat × Nat × Nat) × Sats :=
  let n := netN b
  let xs := (List.range (n * n)).flatMap (fun i => (List.range (netFields b)).map (fun f =>
    inputSample (netInZero b f) (netInShift b f) ((patch.getD f []).getD i 0)))
  let (t, s) := netRun b 0 (netLayers b) false { h := n, w := n, c := netFields b, xs := xs } {}
  (classify b t.xs, s)

end Sys2Proof.Machine
end

