-- ==== Sys2Proof/Config.lean ====
section
/-! DEFINITION. What the spec leaves open: every constant here is opaque, so that nothing can be proved of its value, and a
claim about the model holds whatever the hardware does there. Each has an entry in the assumption log. -/

namespace Sys2Proof.Config

/-- A fresh free value: the counter says which draw it is (assumption 2). -/
opaque freeValue : Nat → Nat

/-- The numeric CODE field of a log entry, by the entry's place in the model's list of events (R360, assumption 6). -/
opaque logCode : Nat → BitVec 16

/-- Which way the increment of a time base rounds in a tick whose FREQ makes it no whole number (R294, assumption 12). -/
opaque incrRound : Int → Nat → Bool

/-- How many of so many ticks in a row round the increment up, at most all of them (R294, assumption 12). -/
opaque advRound : Int → Nat → Nat → Nat

/-- The frequency word the servo writes on a measurement: old word and offset in 2^-16 ns (R313, assumption 13). -/
opaque servoFreq : Int → Int → Int

/-- The bytes of a Shaft element whose layout the spec leaves open: its kind of Table 11-3 (0 summary of an open track,
1 fragment, 2 patch job), what it holds, and the byte (R225, assumption 15). -/
opaque elementByte : Nat → List Int → Nat → BitVec 8

/-- The ROM weights of response sets FS2 to FS14 at taps other than tap 3, by set, phase and tap (R156, assumption 21). -/
opaque fsWeight : Nat → Nat → Nat → BitVec 16

/-- The public keys VK0 to VK3 of the boot ROM, 97 bytes each (R429, assumption 36). -/
opaque vendorKey : Nat → List (BitVec 8)

end Sys2Proof.Config
end

