-- ==== Sys2Proof/Machine/RegMap.lean ====
section
/-! DEFINITION. The register map: every register the spec's tables list, with its address, reset value, access code,
write-time code and the bits that are fields (Tables 0-4, 0-5, 20-9; R6 to R10, R420, R425). The register tables of the chapters
are read row by row; a row over ports, contexts, mosaics or the like is one row here with its counts and strides. -/

namespace Sys2Proof.Machine

/-- Access codes of Table 0-4 (R9). -/
inductive Access where
  | ro | rw | w1c | rc | wo
deriving DecidableEq, Repr

/-- Write-time codes of Table 0-5 (R9); `none` where the table gives a dash. No register table uses OWN: the owner-session
checks belong to commands. -/
inductive WriteTime where
  | boot | run | fw | none
deriving DecidableEq, Repr

/-- One row of a register table. -/
structure RegRow where
  /-- address of the first register of the row -/
  base : Nat
  /-- (count, stride) of each index of the row, the largest stride first -/
  dims : List (Nat × Nat)
  reset : Nat
  access : Access
  when_ : WriteTime
  /-- the bits of the register that are writable fields; the others are reserved or read-only (R8) -/
  fields : Nat
  /-- the bits whose write has behaviour of its own, given by a row of the opcode table -/
  own : Nat
  /-- 0: no pair; 1: the _LO word of a pair; 2: the _HI word of a pair (R7) -/
  pair : Nat
deriving DecidableEq, Repr

/-- Does an offset fall on a register of the row with these counts and strides? -/
def dimsHit : List (Nat × Nat) → Nat → Bool
  | [], off => off == 0
  | (n, st) :: rest, off => decide (off / st < n) && dimsHit rest (off % st)

/-- Is the address a register of the row? -/
def RegRow.hit (r : RegRow) (a : Nat) : Bool := decide (r.base ≤ a) && dimsHit r.dims (a - r.base)

/-- Registers of the GLB block. -/
def glbRows : List RegRow := [
  ⟨0x400, [], 0x10526401, .rw, .run, 0xffffff01, 0, 0⟩,  -- GLB_PACE_CTRL (R37)
  ⟨0x404, [], 0, .w1c, .run, 0xfff0fff, 0, 0⟩,  -- GLB_PACE_STATUS (R37)
  ⟨0x408, [], 0xff00, .ro, .boot, 0xff03, 0, 0⟩,  -- GLB_LOAD_STATUS (R37)
  ⟨0x410, [(12, 4)], 0, .ro, .none, 0xffffff, 0, 0⟩,  -- GLB_PACE_RGNn (R37)
  ⟨0x440, [(12, 4)], 0, .ro, .boot, 0xffff, 0, 0⟩,  -- GLB_LOAD_RGNn (R37)
  ⟨0x470, [], 0, .w1c, .run, 0x7ffff, 0, 0⟩,  -- GLB_XING_STATUS (R37)
  ⟨0x474, [], 0, .rc, .run, 0xffffffff, 0, 0⟩,  -- GLB_XING_DROP (R37)
  ⟨0, [], 0xb07240, .ro, .none, 0xffffff, 0, 0⟩,  -- GLB_ID (R426)
  ⟨4, [], 0, .ro, .none, 0xff, 0, 0⟩,  -- GLB_STATUS (R426)
  ⟨8, [], 0, .w1c, .run, 1, 0, 0⟩,  -- GLB_ERR (R426)
  ⟨0x500, [], 0, .ro, .none, 0xffff, 0, 0⟩,  -- GLB_GPIO_IN (R500)
  ⟨0x504, [], 0, .rw, .run, 0xffff, 0xffff, 0⟩,  -- GLB_GPIO_OUT (R500)
  ⟨0x508, [], 0, .ro, .boot, 0xffffffff, 0, 0⟩,  -- GLB_PIN_MODE (R500)
  ⟨0x50c, [], 0x55555555, .ro, .boot, 0xffffffff, 0, 0⟩,  -- GLB_PIN_PULL (R500)
  ⟨0x510, [], 0x3f, .ro, .boot, 0x3f, 0, 0⟩]  -- GLB_PIN_TERM (R500)

/-- Registers of the CAM block. -/
def camRows : List RegRow := [
  ⟨0x100000, [(16, 0x10000)], 0x3e8000e, .rw, .boot, 0xffff003f, 0, 0⟩,  -- CAM_CFG (R66)
  ⟨0x100004, [(16, 0x10000)], 0x1400, .rw, .run, 0xff07, 7, 0⟩,  -- CAM_CTRL (R66)
  ⟨0x100008, [(16, 0x10000)], 0, .ro, .none, 0, 0, 0⟩,  -- CAM_STATUS (R66)
  ⟨0x10000c, [(16, 0x10000)], 0, .w1c, .run, 0x1ff, 0, 0⟩,  -- CAM_EVENT (R66)
  ⟨0x100010, [(16, 0x10000)], 0x3210, .ro, .none, 0xf, 0, 0⟩,  -- CAM_LANE_MAP (R66)
  ⟨0x100014, [(16, 0x10000)], 0, .rc, .run, 0xffffffff, 0, 0⟩,  -- CAM_RETRAIN_CNT (R66)
  ⟨0x100018, [(16, 0x10000)], 0, .ro, .none, 0x3f, 0, 0⟩,  -- CAM_DESKEW (R66)
  ⟨0x100020, [(16, 0x10000), (5, 4)], 0, .ro, .none, 0, 0, 0⟩,  -- CAM_LANEk_EQ (R66)
  ⟨0x100040, [(16, 0x10000), (5, 4)], 0, .rc, .run, 0xffffffff, 0, 0⟩,  -- CAM_LANEk_ERR (R66)
  ⟨0x100060, [(16, 0x10000), (5, 4)], 0, .rc, .run, 0xffffffff, 0, 0⟩,  -- CAM_LANEk_ERR2 (R66)
  ⟨0x100080, [(16, 0x10000)], 0, .rw, .run, 0x1f1f, 0x1f1f, 0⟩,  -- CAM_PRBS_CTRL (R66)
  ⟨0x100090, [(16, 0x10000), (5, 4)], 0, .rc, .run, 0xffffffff, 0, 0⟩,  -- CAM_PRBS_CNTk (R66)
  ⟨0x100100, [(16, 0x10000)], 0, .ro, .boot, 0x80, 0, 0⟩,  -- CAM_VC_MAP (R99)
  ⟨0x100104, [(16, 0x10000)], 0, .ro, .none, 0xff7, 0, 0⟩,  -- CAM_VLP_STATUS (R99)
  ⟨0x100108, [(16, 0x10000)], 0, .w1c, .run, 0x3f, 0, 0⟩,  -- CAM_VLP_EVENT (R99)
  ⟨0x100110, [(16, 0x10000), (4, 4)], 0, .rc, .run, 0xffffffff, 0, 0⟩,  -- CAM_VCv_LINES (R99)
  ⟨0x100120, [(16, 0x10000), (4, 4)], 0, .rc, .run, 0xffffffff, 0, 0⟩,  -- CAM_VCv_CHK (R99)
  ⟨0x100130, [(16, 0x10000), (4, 4)], 0, .rc, .run, 0xffffffff, 0, 0⟩,  -- CAM_VCv_ERR (R99)
  ⟨0x100140, [(16, 0x10000)], 0, .rc, .run, 0xffffffff, 0, 0⟩,  -- CAM_PKT_ERR (R99)
  ⟨0x100144, [(16, 0x10000)], 0, .rc, .run, 0xffffffff, 0, 0⟩,  -- CAM_PKT_ERR2 (R99)
  ⟨0x100148, [(16, 0x10000)], 0, .rc, .run, 0xffffffff, 0, 0⟩,  -- CAM_GATE_SKIP (R99)
  ⟨0x10014c, [(16, 0x10000)], 0, .rc, .run, 0xffffffff, 0, 0⟩,  -- CAM_BC_ERR (R99)
  ⟨0x100150, [(16, 0x10000), (4, 4)], 0, .ro, .none, 0xffffffff, 0, 0⟩,  -- CAM_CAMSTATi (R99)
  ⟨0x100160, [(16, 0x10000), (12, 4)], 0, .ro, .none, 0xffffffff, 0, 0⟩]  -- CAM_IDENTi (R99)

/-- Registers of the STR block, part 0. -/
def strRows0 : List RegRow := [
  ⟨0x200000, [(4, 0x1000)], 0, .ro, .none, 0xff0fff, 0, 0⟩,  -- STR_STATUS (R122)
  ⟨0x200004, [(4, 0x1000)], 0, .rc, .run, 0xffffffff, 0, 0⟩,  -- STR_STRIPE_CNT (R122)
  ⟨0x200008, [(4, 0x1000)], 0, .rc, .run, 0xffffff, 0, 0⟩,  -- STR_LATE_MAX (R122)
  ⟨0x20000c, [(4, 0x1000)], 0, .rc, .run, 0xffffffff, 0, 0⟩,  -- STR_LATE_CNT (R122)
  ⟨0x200010, [(4, 0x1000)], 0, .ro, .boot, 0xffffff, 0, 0⟩,  -- STR_TS (R122)
  ⟨0x210000, [(32, 0x1000)], 4, .rw, .boot, 0xfff1f, 0, 0⟩,  -- CTX_CFG (R122)
  ⟨0x210004, [(32, 0x1000)], 0, .rw, .boot, 0xffffffff, 0, 0⟩,  -- CTX_WIDTH (R122)
  ⟨0x210008, [(32, 0x1000)], 0, .rw, .boot, 0xfffff, 0, 0⟩,  -- CTX_RATE (R122)
  ⟨0x210010, [(32, 0x1000)], 0, .rw, .boot, 0xffffff00, 0, 1⟩,  -- CTX_RING_BASE_LO (R122)
  ⟨0x210014, [(32, 0x1000)], 0, .rw, .boot, 0x1f, 0, 2⟩,  -- CTX_RING_BASE_HI (R122)
  ⟨0x210018, [(32, 0x1000)], 0, .rw, .boot, 0xffffff, 0, 0⟩,  -- CTX_RING_LINES (R122)
  ⟨0x21001c, [(32, 0x1000)], 0, .ro, .boot, 0xffffffff, 0, 0⟩,  -- CTX_RING_STRIDE (R122)
  ⟨0x210020, [(32, 0x1000)], 0, .ro, .none, 0xffffff, 0, 0⟩,  -- CTX_RING_FILL (R122)
  ⟨0x210024, [(32, 0x1000)], 0, .rc, .run, 0xffffff, 0, 0⟩,  -- CTX_RING_PEAK (R122)
  ⟨0x210028, [(32, 0x1000)], 0xa1007d0, .rw, .run, 0xffffffff, 0, 0⟩,  -- CTX_MATCH_CFG (R122)
  ⟨0x21002c, [(32, 0x1000)], 0, .ro, .none, 0xffffffff, 0, 0⟩,  -- CTX_LAST_MATCH (R122)
  ⟨0x210030, [(32, 0x1000)], 0, .rw, .run, 3, 1, 0⟩,  -- CTX_BANK_CTRL (R122)
  ⟨0x210034, [(32, 0x1000)], 0, .ro, .none, 0xff01, 0, 0⟩,  -- CTX_BANK_STATUS (R122)
  ⟨0x210038, [(32, 0x1000)], 0, .w1c, .run, 0x1ff, 0, 0⟩,  -- CTX_EVENT (R122)
  ⟨0x210040, [(32, 0x1000)], 0, .rc, .run, 0xffffffff, 0, 0⟩,  -- CTX_LINE_CNT (R122)
  ⟨0x210044, [(32, 0x1000)], 0, .rc, .run, 0xffffffff, 0, 0⟩,  -- CTX_OVERRUN_CNT (R122)
  ⟨0x210048, [(32, 0x1000)], 0, .rc, .run, 0xffffffff, 0, 0⟩,  -- CTX_ORPHAN_CNT (R122)
  ⟨0x21004c, [(32, 0x1000)], 0, .rc, .run, 0xffffffff, 0, 0⟩,  -- CTX_MISSED_CNT (R122)
  ⟨0x210050, [(32, 0x1000)], 0, .rc, .run, 0xffffffff, 0, 0⟩,  -- CTX_LEN_CNT (R122)
  ⟨0x210054, [(32, 0x1000)], 0, .rc, .run, 0xffffffff, 0, 0⟩,  -- CTX_RESYNC_CNT (R122)
  ⟨0x204000, [], 0, .wo, .run, 0xffffffff, 0xffffffff, 0⟩,  -- STR_GROUP_COMMIT (R122)
  ⟨0x210060, [(32, 0x1000)], 0, .rw, .run, 3, 3, 0⟩,  -- BL_CTRL (R143)
  ⟨0x210064, [(32, 0x1000)], 0, .ro, .none, 0xffff000f, 0, 0⟩,  -- BL_STATUS (R143)
  ⟨0x210068, [(32, 0x1000)], 0, .rc, .run, 0xffffffff, 0, 0⟩,  -- CORR_SAT_CNT (R143)
  ⟨0x21006c, [(32, 0x1000)], 0, .rc, .run, 0xffffffff, 0, 0⟩,  -- CORR_SAT_CNT2 (R143)
  ⟨0x210070, [(32, 0x1000)], 0, .rc, .run, 0xffffffff, 0, 0⟩,  -- BL_FRZ_TO_CNT (R143)
  ⟨0x210074, [(32, 0x1000)], 0, .rc, .run, 0xffffffff, 0, 0⟩,  -- CORR_MEMERR_CNT (R143)
  ⟨0x210078, [(32, 0x1000)], 0, .w1c, .run, 0xf, 0, 0⟩,  -- CORR_EVENT (R143)
  ⟨0x210100, [(32, 0x1000)], 0x800, .rw, .run, 0x1f7f, 0, 0⟩,  -- CORR_CFG (R143)
  ⟨0x210104, [(32, 0x1000)], 0, .rw, .run, 0xfffff, 0, 0⟩,  -- CORR_OUT_COL0 (R143)
  ⟨0x210108, [(32, 0x1000)], 0, .rw, .run, 0x1ffff, 0, 0⟩,  -- CORR_OUT_W (R143)
  ⟨0x21010c, [(32, 0x1000)], 0x8008000, .rw, .run, 0xffffffff, 0, 0⟩,  -- BL_CFG (R143)
  ⟨0x210110, [(32, 0x1000)], 0x40, .rw, .run, 0xfff, 0, 0⟩,  -- BL_HOLD (R143)
  ⟨0x210114, [(32, 0x1000)], 0x40000, .rw, .run, 0xfffff, 0, 0⟩,  -- BL_FREEZE_MAX (R143)
  ⟨0x210118, [(32, 0x1000)], 0, .rw, .run, 0xffffffff, 0, 1⟩]  -- BL_WIN_START_LO (R143)
/-- Registers of the STR block, part 1. -/
def strRows1 : List RegRow := [
  ⟨0x21011c, [(32, 0x1000)], 0, .rw, .run, 0xffffffff, 0, 2⟩,  -- BL_WIN_START_HI (R143)
  ⟨0x210120, [(32, 0x1000)], 0, .rw, .run, 0xffffffff, 0, 1⟩,  -- BL_WIN_END_LO (R143)
  ⟨0x210124, [(32, 0x1000)], 0, .rw, .run, 0xffffffff, 0, 2⟩,  -- BL_WIN_END_HI (R143)
  ⟨0x210080, [(32, 0x1000)], 0, .ro, .none, 0xffffffff, 0, 0⟩,  -- RS_RATIO (R158)
  ⟨0x210084, [(32, 0x1000)], 0, .ro, .none, 0xffffffff, 0, 1⟩,  -- RS_LAST_K_LO (R158)
  ⟨0x210088, [(32, 0x1000)], 0, .ro, .none, 0xffffffff, 0, 2⟩,  -- RS_LAST_K_HI (R158)
  ⟨0x21008c, [(32, 0x1000)], 0, .rc, .run, 0xffffffff, 0, 0⟩,  -- RS_HOLD_CNT (R158)
  ⟨0x210090, [(32, 0x1000)], 0, .rc, .run, 0xffffffff, 0, 0⟩,  -- RS_DROP_CNT (R158)
  ⟨0x210094, [(32, 0x1000)], 0, .rc, .run, 0xffffffff, 0, 0⟩,  -- RS_RATIO_HI_CNT (R158)
  ⟨0x210098, [(32, 0x1000)], 0, .rc, .run, 0xffffffff, 0, 0⟩,  -- RS_SAT_CNT (R158)
  ⟨0x21009c, [(32, 0x1000)], 0, .w1c, .run, 0xf, 0, 0⟩,  -- RS_EVENT (R158)
  ⟨0x210140, [(32, 0x1000)], 0x41, .rw, .run, 0xf7, 0, 0⟩,  -- RS_CFG (R158)
  ⟨0x210144, [(32, 0x1000)], 0, .rw, .run, 0xffffffff, 0, 1⟩,  -- RS_GRID_ORG_LO (R158)
  ⟨0x210148, [(32, 0x1000)], 0, .rw, .run, 0xffffffff, 0, 2⟩,  -- RS_GRID_ORG_HI (R158)
  ⟨0x21014c, [(32, 0x1000)], 0x300, .rw, .run, 0xffffff, 0, 0⟩,  -- RS_PITCH (R158)
  ⟨0x210150, [(32, 0x1000)], 0, .rw, .run, 0xffffffff, 0, 0⟩]  -- RS_PITCH_REM (R158)
/-- Registers of the STR block. -/
def strRows : List RegRow := strRows0 ++ strRows1

/-- Registers of the SEAM block. -/
def seamRows : List RegRow := [
  ⟨0x300000, [(4, 0x1000)], 0, .rw, .boot, 0x1, 0, 0⟩,  -- SEAM_CFG (R180)
  ⟨0x300004, [(4, 0x1000)], 0, .rw, .boot, 0xfffff, 0, 0⟩,  -- SEAM_WIDTH (R180)
  ⟨0x300008, [(4, 0x1000)], 0, .rw, .boot, 0xffffffff, 0, 0⟩,  -- SEAM_PITCH (R180)
  ⟨0x30000c, [(4, 0x1000)], 0, .rw, .boot, 0xffffffff, 0, 0⟩,  -- SEAM_MEMBERS (R180)
  ⟨0x300010, [(4, 0x1000)], 0x4002710, .rw, .run, 0xf0fffff, 0, 0⟩,  -- SEAM_WAIT (R180)
  ⟨0x300014, [(4, 0x1000)], 0x8000, .rw, .run, 0xffff, 0, 0⟩,  -- SEAM_MASK (R180)
  ⟨0x300018, [(4, 0x1000)], 0, .rw, .boot, 0xffff8000, 0, 1⟩,  -- HIST_BASE_LO (R180)
  ⟨0x30001c, [(4, 0x1000)], 0, .rw, .boot, 0x1f, 0, 2⟩,  -- HIST_BASE_HI (R180)
  ⟨0x300020, [(4, 0x1000)], 0, .rw, .boot, 0xffffff, 0, 0⟩,  -- HIST_STRIPES (R180)
  ⟨0x300024, [(4, 0x1000)], 0, .rw, .boot, 0xffffff00, 0, 1⟩,  -- HIST_DIR_BASE_LO (R180)
  ⟨0x300028, [(4, 0x1000)], 0, .rw, .boot, 0x1f, 0, 2⟩,  -- HIST_DIR_BASE_HI (R180)
  ⟨0x30002c, [(4, 0x1000)], 0, .rw, .boot, 0x7fffff, 0, 0⟩,  -- SEAM_MD_RATE (R180)
  ⟨0x300030, [(4, 0x1000)], 0, .ro, .none, 0xffffffff, 0, 1⟩,  -- SEAM_LAST_K_LO (R180)
  ⟨0x300034, [(4, 0x1000)], 0, .ro, .none, 0xffffffff, 0, 2⟩,  -- SEAM_LAST_K_HI (R180)
  ⟨0x300038, [(4, 0x1000)], 0, .ro, .none, 0xffffffff, 0, 1⟩,  -- SEAM_OLDEST_K_LO (R180)
  ⟨0x30003c, [(4, 0x1000)], 0, .ro, .none, 0xffffffff, 0, 2⟩,  -- SEAM_OLDEST_K_HI (R180)
  ⟨0x300040, [(4, 0x1000)], 0, .ro, .none, 0xffffffff, 0, 0⟩,  -- SEAM_BLIND (R180)
  ⟨0x300044, [(4, 0x1000)], 0, .rc, .run, 0xffffffff, 0, 0⟩,  -- SEAM_TIMEOUT_CNT (R180)
  ⟨0x300048, [(4, 0x1000)], 0, .rc, .run, 0xffffffff, 0, 0⟩,  -- SEAM_LATE_CNT (R180)
  ⟨0x30004c, [(4, 0x1000)], 0, .rc, .run, 0xffffffff, 0, 0⟩,  -- SEAM_PARTIAL_CNT (R180)
  ⟨0x300050, [(4, 0x1000)], 0, .rc, .run, 0xffffffff, 0, 0⟩,  -- SEAM_EXT_MERGE_CNT (R180)
  ⟨0x300054, [(4, 0x1000)], 0, .rc, .run, 0xffffffff, 0, 0⟩,  -- SEAM_HIST_STALL_CNT (R180)
  ⟨0x300058, [(4, 0x1000)], 0, .w1c, .run, 0x1f, 0, 0⟩,  -- SEAM_EVENT (R180)
  ⟨0x300100, [(4, 0x1000), (31, 4)], 0, .rw, .boot, 0x3fffffff, 0, 0⟩]  -- SEAM_Si (R180)

/-- Registers of the LODE block. -/
def lodeRows : List RegRow := [
  ⟨0x400000, [(4, 0x1000)], 0, .ro, .none, 0x3f, 0, 0⟩,  -- LODE_ESTAT (R199)
  ⟨0x400004, [(4, 0x1000)], 0, .ro, .boot, 0xfffff, 0, 0⟩,  -- LODE_EBAND (R199)
  ⟨0x400008, [(4, 0x1000)], 0, .rc, .run, 0xffffffff, 0, 0⟩,  -- LODE_UNIT_CNT (R199)
  ⟨0x40000c, [(4, 0x1000)], 0, .rc, .run, 0xffffffff, 0, 0⟩,  -- LODE_FRAG_CNT (R199)
  ⟨0x400010, [(4, 0x1000)], 0, .rc, .run, 0x1ffff, 0, 0⟩,  -- LODE_FRAG_PEAK (R199)
  ⟨0x400014, [(4, 0x1000)], 0, .rc, .run, 0xffffffff, 0, 0⟩,  -- LODE_FRAG_DROP (R199)
  ⟨0x400018, [(4, 0x1000)], 0, .rc, .run, 0xffffff, 0, 0⟩,  -- LODE_LAG_MAX (R199)
  ⟨0x408000, [(4, 0x1000)], 0, .rw, .boot, 0x1f, 0, 0⟩,  -- LODE_MCFG (R199)
  ⟨0x408004, [(4, 0x1000), (3, 4)], 0, .rw, .boot, 0x7ff, 0, 0⟩,  -- LODE_BANDi_START (R199)
  ⟨0x408010, [(4, 0x1000)], 0, .rw, .run, 1, 1, 0⟩,  -- LODE_CTRL (R199)
  ⟨0x408014, [(4, 0x1000)], 0, .ro, .none, 0xffffffff, 0, 0⟩,  -- LODE_STATUS (R199)
  ⟨0x408018, [(4, 0x1000)], 0, .w1c, .run, 0x3f, 0, 0⟩,  -- LODE_EVENT (R199)
  ⟨0x40801c, [(4, 0x1000)], 0, .rc, .run, 0xffffffff, 0, 0⟩,  -- LODE_CLOSE_CNT (R199)
  ⟨0x408020, [(4, 0x1000)], 0, .rc, .run, 0xffffffff, 0, 0⟩,  -- LODE_DISCARD_CNT (R199)
  ⟨0x408024, [(4, 0x1000)], 0, .rc, .run, 0xffffffff, 0, 0⟩,  -- LODE_MERGE_CNT (R199)
  ⟨0x408028, [(4, 0x1000)], 0, .rc, .run, 0xffffffff, 0, 0⟩,  -- LODE_CUT_CNT (R199)
  ⟨0x40802c, [(4, 0x1000)], 0, .rc, .run, 0xffffffff, 0, 0⟩,  -- LODE_MEMERR_CNT (R199)
  ⟨0x408030, [(4, 0x1000)], 0, .rc, .run, 0xffffffff, 0, 0⟩,  -- LODE_SETTLE_STALL (R199)
  ⟨0x408034, [(4, 0x1000)], 1, .ro, .none, 0xffffffff, 0, 1⟩,  -- LODE_NEXT_ID_LO (R199)
  ⟨0x408038, [(4, 0x1000)], 0, .ro, .none, 0xffff, 0, 2⟩,  -- LODE_NEXT_ID_HI (R199)
  ⟨0x408100, [(4, 0x1000)], 0x78007000, .rw, .run, 0xffffffff, 0, 0⟩,  -- LODE_THR_DARK (R199)
  ⟨0x408104, [(4, 0x1000)], 0x90008800, .rw, .run, 0xffffffff, 0, 0⟩,  -- LODE_THR_BRIGHT (R199)
  ⟨0x408108, [(4, 0x1000)], 0x8000, .rw, .run, 0xffff, 0, 0⟩,  -- LODE_LEVEL (R199)
  ⟨0x40810c, [(4, 0x1000)], 3, .rw, .run, 0x77, 0, 0⟩,  -- LODE_SEG_CFG (R199)
  ⟨0x408110, [(4, 0x1000)], 0, .rw, .run, 0xfffff, 0, 0⟩,  -- LODE_ROI_START (R199)
  ⟨0x408114, [(4, 0x1000)], 0x7ffff, .rw, .run, 0xfffff, 0, 0⟩,  -- LODE_ROI_END (R199)
  ⟨0x408118, [(4, 0x1000)], 4, .rw, .run, 0xffffff, 0, 0⟩,  -- LODE_MIN_AREA (R199)
  ⟨0x40811c, [(4, 0x1000)], 0x20002, .rw, .run, 0xffffffff, 0, 0⟩,  -- LODE_MIN_DIM (R199)
  ⟨0x408120, [(4, 0x1000)], 0x100000, .rw, .run, 0xffffff, 0, 0⟩,  -- LODE_MAX_MD (R199)
  ⟨0x408124, [(4, 0x1000)], 0x3e8, .rw, .run, 0xffff, 0, 0⟩]  -- LODE_STILL_CLOSE (R199)

/-- Registers of the ASY block. -/
def asyRows : List RegRow := [
  ⟨0x500000, [], 1, .rw, .run, 0xf01, 0xf00, 0⟩,  -- ASY_CTRL (R220)
  ⟨0x500004, [], 0, .ro, .none, 0xffffff, 0, 0⟩,  -- ASY_STATUS (R220)
  ⟨0x500008, [], 0x140032, .rw, .run, 0xffffffff, 0, 0⟩,  -- ASY_TIMING (R220)
  ⟨0x50000c, [], 0, .w1c, .run, 0x3f, 0, 0⟩,  -- ASY_EVENT (R220)
  ⟨0x500010, [], 0, .rc, .run, 0xffffffff, 0, 0⟩,  -- ASY_JOB_CNT (R220)
  ⟨0x500014, [], 0, .rc, .run, 0xffffffff, 0, 0⟩,  -- ASY_UNA_CNT (R220)
  ⟨0x500018, [], 0, .rc, .run, 0xffffffff, 0, 0⟩,  -- ASY_LATE_CNT (R220)
  ⟨0x50001c, [], 0, .rc, .run, 0xffffffff, 0, 0⟩,  -- ASY_PAD_CNT (R220)
  ⟨0x500020, [], 0, .rc, .run, 0xffffffff, 0, 0⟩,  -- ASY_SAT_CNT (R220)
  ⟨0x500024, [], 0, .rc, .run, 0xffffff, 0, 0⟩,  -- ASY_WAIT_MAX (R220)
  ⟨0x500028, [], 0, .rc, .run, 0xffffffff, 0, 0⟩,  -- ASY_SRAM_ERR_CNT (R220)
  ⟨0x500030, [(4, 4)], 0, .ro, .none, 0x7fff, 0, 0⟩,  -- ASY_NETn_INFO (R220)
  ⟨0x500040, [(4, 4)], 0, .ro, .none, 0xffffffff, 0, 0⟩,  -- ASY_NETn_BILL (R220)
  ⟨0x500060, [], 0, .rw, .boot, 0xffffff00, 0, 1⟩,  -- ASY_PB_BASE_LO (R220)
  ⟨0x500064, [], 0, .rw, .boot, 0x1f, 0, 2⟩,  -- ASY_PB_BASE_HI (R220)
  ⟨0x500068, [], 0, .rw, .boot, 0xffffff, 0, 0⟩,  -- ASY_PB_SLOTS (R220)
  ⟨0x50006c, [], 0, .rw, .boot, 0xffffffff, 0, 0⟩,  -- ASY_PB_STRIDE (R220)
  ⟨0x500100, [(4, 0x40)], 0, .rw, .run, 0x1ff7, 0, 0⟩,  -- ASY_MOSm_CFG (R220)
  ⟨0x500104, [(4, 0x40)], 0, .rw, .run, 0xffffffff, 0, 1⟩,  -- ASY_MOSm_KEEP_LO (R220)
  ⟨0x500108, [(4, 0x40)], 0, .rw, .run, 0xffffffff, 0, 2⟩,  -- ASY_MOSm_KEEP_HI (R220)
  ⟨0x500110, [(4, 0x40), (3, 8)], 0, .rw, .run, 0xffffffff, 0, 0⟩,  -- ASY_MOSm_OFS_MDf (R220)
  ⟨0x500114, [(4, 0x40), (3, 8)], 0, .rw, .run, 0xffffffff, 0, 0⟩]  -- ASY_MOSm_OFS_CDf (R220)

/-- Registers of the SHF block. -/
def shfRows : List RegRow := [
  ⟨0x600000, [], 0, .rw, .boot, 0xffffff00, 0, 1⟩,  -- SHF_DESC_BASE_LO (R242)
  ⟨0x600004, [], 0, .rw, .boot, 0x1f, 0, 2⟩,  -- SHF_DESC_BASE_HI (R242)
  ⟨0x600008, [], 0, .rw, .boot, 0xffffff00, 0, 1⟩,  -- SHF_ELEM_BASE_LO (R242)
  ⟨0x60000c, [], 0, .rw, .boot, 0x1f, 0, 2⟩,  -- SHF_ELEM_BASE_HI (R242)
  ⟨0x600010, [], 0, .rw, .boot, 0xffffff00, 0, 1⟩,  -- SHF_LINK_BASE_LO (R242)
  ⟨0x600014, [], 0, .rw, .boot, 0x1f, 0, 2⟩,  -- SHF_LINK_BASE_HI (R242)
  ⟨0x600018, [], 0, .rw, .boot, 0xffffffff, 0, 0⟩,  -- SHF_ELEM_CNT (R242)
  ⟨0x60001c, [], 0xfe000, .rw, .boot, 0x1fffff, 0, 0⟩,  -- SHF_TRACK_CNT (R242)
  ⟨0x600020, [], 0x4000400, .rw, .run, 0xffffffff, 0, 0⟩,  -- SHF_RESERVE (R242)
  ⟨0x600024, [], 0x10000, .rw, .run, 0xffffff, 0, 0⟩,  -- SHF_JOB_LIMIT (R242)
  ⟨0x600028, [], 0, .ro, .none, 0x1fffff, 0, 0⟩,  -- SHF_FREE_TRACKS (R242)
  ⟨0x60002c, [], 0, .ro, .none, 0xffffffff, 0, 0⟩,  -- SHF_FREE_ELEMS (R242)
  ⟨0x600030, [], 0, .rc, .run, 0x1fffff, 0, 0⟩,  -- SHF_OPEN_PEAK (R242)
  ⟨0x600034, [], 0, .rc, .run, 0xffffffff, 0, 0⟩,  -- SHF_TRUNC_CNT (R242)
  ⟨0x600038, [], 0, .rc, .run, 0xffffffff, 0, 0⟩,  -- SHF_TRACK_DROP (R242)
  ⟨0x60003c, [], 0, .w1c, .run, 0x1f, 0, 0⟩,  -- SHF_EVENT (R242)
  ⟨0x600040, [], 1, .ro, .none, 0xffffffff, 0, 1⟩,  -- REC_SEQ_LO (R242)
  ⟨0x600044, [], 0, .ro, .none, 0xffffffff, 0, 2⟩,  -- REC_SEQ_HI (R242)
  ⟨0x600048, [], 0, .rc, .run, 0xffffffff, 0, 0⟩,  -- REC_CNT (R242)
  ⟨0x60004c, [], 0, .rw, .run, 0x1fff1fff, 0, 0⟩,  -- REC_SYS_ROUTE (R242)
  ⟨0x600050, [], 0, .rc, .run, 0xffffffff, 0, 0⟩,  -- SHF_MEMERR_CNT (R242)
  ⟨0x600100, [(4, 0x10)], 0, .rw, .run, 0x1fff1fff, 0, 0⟩,  -- REC_MOSm_ROUTE (R242)
  ⟨0x600104, [(4, 0x10)], 0, .rw, .boot, 0xffffffff, 0, 0⟩,  -- REC_MOSm_CPM (R242)
  ⟨0x601000, [(4096, 0x10)], 0, .rw, .run, 0x3f, 0, 0⟩,  -- DR_n_CFG (R242)
  ⟨0x601004, [(4096, 0x10)], 0x10000, .rw, .run, 0xffffff, 0, 0⟩,  -- DR_n_LIMIT (R242)
  ⟨0x601008, [(4096, 0x10)], 0, .ro, .none, 0xffffffff, 0, 0⟩,  -- DR_n_STATUS (R242)
  ⟨0x60100c, [(4096, 0x10)], 0, .rc, .run, 0xffffffff, 0, 0⟩]  -- DR_n_DROP (R242)

/-- Registers of the TDL block, part 0. -/
def tdlRows0 : List RegRow := [
  ⟨0x700000, [], 0, .rw, .boot, 0x701, 0, 0⟩,  -- TDL_CTRL (R276)
  ⟨0x700004, [], 0, .rw, .boot, 0xffffffff, 0, 0⟩,  -- TDL_MOVE_TH (R276)
  ⟨0x700008, [], 0, .ro, .none, 7, 0, 0⟩,  -- TDL_STATUS (R276)
  ⟨0x70000c, [], 0, .w1c, .run, 0xfff, 0, 0⟩,  -- TDL_EVENT (R276)
  ⟨0x700010, [], 0, .rw, .run, 0xfff, 0, 0⟩,  -- TDL_IRQ_EN (R276)
  ⟨0x700014, [], 0, .w1c, .run, 0xff, 0, 0⟩,  -- TDL_DIRCHG_SRC (R276)
  ⟨0x700018, [], 0, .rw, .boot, 0xffe00000, 0, 1⟩,  -- TDL_HIST_BASE_LO (R276)
  ⟨0x70001c, [], 0, .rw, .boot, 0x1f, 0, 2⟩,  -- TDL_HIST_BASE_HI (R276)
  ⟨0x700100, [(4, 0x20)], 0x2400, .rw, .boot, 0x7ffff, 0, 0⟩,  -- TDL_ENCn_CFG (R276)
  ⟨0x700104, [(4, 0x20)], 0, .rw, .boot, 0xffffffff, 0, 0⟩,  -- TDL_ENCn_ZCHECK (R276)
  ⟨0x700108, [(4, 0x20)], 0, .ro, .none, 0xffffffff, 0, 1⟩,  -- TDL_ENCn_ZLAT_LO (R276)
  ⟨0x70010c, [(4, 0x20)], 0, .ro, .none, 0xffffffff, 0, 2⟩,  -- TDL_ENCn_ZLAT_HI (R276)
  ⟨0x700110, [(4, 0x20)], 0, .ro, .none, 0xf, 0, 0⟩,  -- TDL_ENCn_STATUS (R276)
  ⟨0x700114, [(4, 0x20)], 0, .rc, .run, 0xffffffff, 0, 0⟩,  -- TDL_ENCn_ERR (R276)
  ⟨0x700180, [], 0x400, .rw, .boot, 0xf07, 0, 0⟩,  -- TDL_HALL_CFG (R276)
  ⟨0x700184, [], 0, .ro, .none, 0xf, 0, 0⟩,  -- TDL_HALL_STATUS (R276)
  ⟨0x700188, [], 0, .rc, .run, 0xffffffff, 0, 0⟩,  -- TDL_HALL_ERR (R276)
  ⟨0x7001c0, [(2, 0x20)], 0x20fe, .rw, .boot, 0x7fff, 0, 0⟩,  -- TDL_SSIn_CFG (R276)
  ⟨0x7001c4, [(2, 0x20)], 0x280032, .rw, .boot, 0xffffffff, 0, 0⟩,  -- TDL_SSIn_TIMING (R276)
  ⟨0x7001c8, [(2, 0x20)], 0, .ro, .none, 0xffffffff, 0, 1⟩,  -- TDL_SSIn_WORD_LO (R276)
  ⟨0x7001cc, [(2, 0x20)], 0, .ro, .none, 0xffffffff, 0, 2⟩,  -- TDL_SSIn_WORD_HI (R276)
  ⟨0x7001d0, [(2, 0x20)], 0, .rc, .run, 0xffffffff, 0, 0⟩,  -- TDL_SSIn_ERR (R276)
  ⟨0x700400, [(8, 0x40)], 0, .rw, .boot, 0x3f, 0, 0⟩,  -- TDL_POSn_CFG (R276)
  ⟨0x700404, [(8, 0x40)], 0, .ro, .none, 0xffffffff, 0, 1⟩,  -- TDL_POSn_POS_LO (R276)
  ⟨0x700408, [(8, 0x40)], 0, .ro, .none, 0xffffffff, 0, 2⟩,  -- TDL_POSn_POS_HI (R276)
  ⟨0x70040c, [(8, 0x40)], 0, .rw, .run, 0xffffffff, 0, 1⟩,  -- TDL_POSn_PRESET_LO (R276)
  ⟨0x700410, [(8, 0x40)], 0, .rw, .run, 0xffffffff, 0, 2⟩,  -- TDL_POSn_PRESET_HI (R276)
  ⟨0x700414, [(8, 0x40)], 0, .rw, .run, 0xffffffff, 0, 1⟩,  -- TDL_POSn_MIN_LO (R276)
  ⟨0x700418, [(8, 0x40)], 0x80000000, .rw, .run, 0xffffffff, 0, 2⟩,  -- TDL_POSn_MIN_HI (R276)
  ⟨0x70041c, [(8, 0x40)], 0xffffffff, .rw, .run, 0xffffffff, 0, 1⟩,  -- TDL_POSn_MAX_LO (R276)
  ⟨0x700420, [(8, 0x40)], 0x7fffffff, .rw, .run, 0xffffffff, 0, 2⟩,  -- TDL_POSn_MAX_HI (R276)
  ⟨0x700424, [(8, 0x40)], 0, .ro, .none, 0xffffffff, 0, 0⟩,  -- TDL_POSn_OVER (R276)
  ⟨0x700428, [(8, 0x40)], 0, .ro, .none, 0xffffffff, 0, 0⟩,  -- TDL_POSn_SPEED (R276)
  ⟨0x70042c, [(8, 0x40)], 4, .ro, .none, 0x1f, 0, 0⟩,  -- TDL_POSn_SPD_STATUS (R276)
  ⟨0x700430, [(8, 0x40)], 0x140010, .rw, .run, 0xffff007f, 0, 0⟩,  -- TDL_POSn_SPD_CFG (R276)
  ⟨0x700434, [(8, 0x40)], 0, .wo, .run, 1, 1, 0⟩,  -- TDL_POSn_CTRL (R276)
  ⟨0x700800, [(32, 0x40)], 0, .rw, .run, 0x7ff, 0x200, 0⟩,  -- TDL_CMPn_CFG (R276)
  ⟨0x700804, [(32, 0x40)], 0, .rw, .run, 0xffffffff, 0xffffffff, 1⟩,  -- TDL_CMPn_TGT_LO (R276)
  ⟨0x700808, [(32, 0x40)], 0, .rw, .run, 0xffffffff, 0, 2⟩,  -- TDL_CMPn_TGT_HI (R276)
  ⟨0x70080c, [(32, 0x40)], 0x300, .rw, .run, 0xffffff, 0, 0⟩]  -- TDL_CMPn_PITCH (R276)
/-- Registers of the TDL block, part 1. -/
def tdlRows1 : List RegRow := [
  ⟨0x700810, [(32, 0x40)], 0, .rw, .run, 0xffffffff, 0, 0⟩,  -- TDL_CMPn_PITCH_REM (R276)
  ⟨0x700814, [(32, 0x40)], 0, .ro, .none, 0xffffffff, 0, 1⟩,  -- TDL_CMPn_K_LO (R276)
  ⟨0x700818, [(32, 0x40)], 0, .ro, .none, 0xffffffff, 0, 2⟩,  -- TDL_CMPn_K_HI (R276)
  ⟨0x70081c, [(32, 0x40)], 0, .rw, .run, 0xffffffff, 0, 0⟩,  -- TDL_CMPn_PERIOD (R276)
  ⟨0x700820, [(32, 0x40)], 0, .rw, .run, 0xffffffff, 0xffffffff, 1⟩,  -- TDL_CMPn_START_LO (R276)
  ⟨0x700824, [(32, 0x40)], 0, .rw, .run, 0xff, 0, 2⟩,  -- TDL_CMPn_START_HI (R276)
  ⟨0x700828, [(32, 0x40)], 0, .ro, .none, 0x1f, 0, 0⟩,  -- TDL_CMPn_STATUS (R276)
  ⟨0x70082c, [(32, 0x40)], 0, .rc, .run, 0xffffffff, 0, 0⟩,  -- TDL_CMPn_SKIP_CNT (R276)
  ⟨0x700830, [(32, 0x40)], 0, .rc, .run, 0xffffffff, 0, 0⟩,  -- TDL_CMPn_FIRE_CNT (R276)
  ⟨0x700834, [(32, 0x40)], 0, .ro, .none, 0xffffffff, 0, 1⟩,  -- TDL_CMPn_LAST_LO (R276)
  ⟨0x700838, [(32, 0x40)], 0, .ro, .none, 0xffffffff, 0, 2⟩,  -- TDL_CMPn_LAST_HI (R276)
  ⟨0x701000, [(16, 0x10)], 0x640000, .rw, .boot, 0xffff007f, 0, 0⟩,  -- TDL_TRIGn_CFG (R276)
  ⟨0x701004, [(16, 0x10)], 0, .ro, .none, 0xffffffff, 0, 0⟩,  -- TDL_TRIGn_COUNT (R276)
  ⟨0x701008, [(16, 0x10)], 0, .ro, .none, 1, 0, 0⟩,  -- TDL_TRIGn_STATUS (R276)
  ⟨0x70100c, [(16, 0x10)], 0, .rc, .run, 0xffff, 0, 0⟩,  -- TDL_TRIGn_DROP (R276)
  ⟨0x701100, [(4, 0x10)], 0, .rw, .boot, 0xff, 0, 0⟩,  -- TDL_STBk_CFG (R276)
  ⟨0x701104, [(4, 0x10)], 0x640000, .rw, .run, 0xffffffff, 0, 0⟩,  -- TDL_STBk_TIME (R276)
  ⟨0x701200, [], 0, .rw, .boot, 0xff3f, 0, 0⟩,  -- TDL_SYNC_CFG (R276)
  ⟨0x701204, [], 0, .rc, .run, 0xffff, 0, 0⟩]  -- TDL_SYNC_ERR (R276)
/-- Registers of the TDL block. -/
def tdlRows : List RegRow := tdlRows0 ++ tdlRows1

/-- Registers of the RNL block. -/
def rnlRows : List RegRow := [
  ⟨0x800000, [], 0, .rw, .boot, 1, 0, 0⟩,  -- RNL_CTRL (R291)
  ⟨0x800004, [], 0, .ro, .none, 0x7f01, 0, 0⟩,  -- RNL_STATUS (R291)
  ⟨0x800008, [], 0, .w1c, .run, 3, 0, 0⟩,  -- RNL_EVENT (R291)
  ⟨0x80000c, [], 0, .ro, .none, 0x7f, 0, 0⟩,  -- RNL_CH_LOOP (R291)
  ⟨0x800010, [], 0, .rc, .run, 0xffffffff, 0, 0⟩,  -- RNL_LOOP_CNT (R291)
  ⟨0x800014, [], 0xffff, .rw, .run, 0xffff, 0xffff, 0⟩,  -- RNL_GRP_EN (R291)
  ⟨0x800018, [], 0, .wo, .run, 0xffff, 0xffff, 0⟩,  -- RNL_SWEV (R291)
  ⟨0x80001c, [], 0, .w1c, .run, 0xffffffff, 0, 0⟩,  -- RNL_HOST_EVT (R291)
  ⟨0x801000, [(128, 0x20)], 0, .rw, .run, 0x3f, 0x3f, 0⟩,  -- RNL_CHc_CFG (R291)
  ⟨0x801004, [(128, 0x20)], 0, .rw, .run, 0xffffffff, 0, 0⟩,  -- RNL_CHc_SRC01 (R291)
  ⟨0x801008, [(128, 0x20)], 0, .rw, .run, 0xffffffff, 0, 0⟩,  -- RNL_CHc_SRC23 (R291)
  ⟨0x80100c, [(128, 0x20)], 0, .rw, .run, 0xffffffff, 0, 0⟩,  -- RNL_CHc_DST01 (R291)
  ⟨0x801010, [(128, 0x20)], 0, .rw, .run, 0xffffffff, 0, 0⟩,  -- RNL_CHc_DST23 (R291)
  ⟨0x801014, [(128, 0x20)], 0, .rw, .run, 0xffffffff, 0, 0⟩,  -- RNL_CHc_DST45 (R291)
  ⟨0x801018, [(128, 0x20)], 0, .rw, .run, 0xffffffff, 0, 0⟩,  -- RNL_CHc_DST67 (R291)
  ⟨0x80101c, [(128, 0x20)], 0, .rc, .run, 0xffffffff, 0, 0⟩,  -- RNL_CHc_CNT (R291)
  ⟨0x804000, [(4096, 4)], 0, .rc, .run, 0xffff, 0, 0⟩]  -- RNL_MERGEi (R291)

/-- Registers of the TIM block. -/
def timRows : List RegRow := [
  ⟨0x900000, [], 0, .rw, .boot, 7, 0, 0⟩,  -- TIM_CFG (R318)
  ⟨0x900004, [], 0, .ro, .none, 0x1f, 0, 0⟩,  -- TIM_STATUS (R318)
  ⟨0x900008, [], 0, .w1c, .run, 0xff, 0, 0⟩,  -- TIM_EVENT (R318)
  ⟨0x90000c, [], 0, .rw, .run, 0xff, 0, 0⟩,  -- TIM_IRQ_EN (R318)
  ⟨0x900010, [], 0, .wo, .run, 0xf, 0xf, 0⟩,  -- TIM_SNAP (R318)
  ⟨0x900020, [(4, 0x10)], 0, .ro, .none, 0xffffffff, 0, 1⟩,  -- TIM_SNAPb_SEC_LO (R318)
  ⟨0x900024, [(4, 0x10)], 0, .ro, .none, 0xffff, 0, 2⟩,  -- TIM_SNAPb_SEC_HI (R318)
  ⟨0x900028, [(4, 0x10)], 0, .ro, .none, 0xffffffff, 0, 0⟩,  -- TIM_SNAPb_NS (R318)
  ⟨0x90002c, [(4, 0x10)], 0, .ro, .none, 0xffff, 0, 0⟩,  -- TIM_SNAPb_FRAC (R318)
  ⟨0x900060, [(2, 4)], 0, .rw, .fw, 0xffffffff, 0, 0⟩,  -- TIM_TBb_FREQ (R318)
  ⟨0x900068, [], 0, .ro, .none, 0xffffffff, 0, 0⟩,  -- — (R318)
  ⟨0x90006c, [], 0, .rw, .run, 0xffffffff, 0, 0⟩,  -- TIM_TB3_FREQ (R318)
  ⟨0x900070, [], 0, .ro, .none, 0xffffffff, 0, 0⟩,  -- TIM_TB3_SLEW (R318)
  ⟨0x900080, [], 0x3e80064, .rw, .run, 0xffffffff, 0, 0⟩,  -- TIM_SERVO_LOCK (R318)
  ⟨0x900084, [], 0xa1e10, .rw, .run, 0xffffffff, 0, 0⟩,  -- TIM_SERVO_TIME (R318)
  ⟨0x900088, [(2, 4)], 0, .ro, .none, 0xffffffff, 0, 0⟩,  -- TIM_SERVO_OFSd (R318)
  ⟨0x900090, [(2, 4)], 0, .ro, .none, 0xffffffff, 0, 0⟩,  -- TIM_PATH_DELAYd (R318)
  ⟨0x900098, [], 0x100, .rw, .boot, 0xf3ffff, 0, 0⟩,  -- TIM_PTP_CFG (R318)
  ⟨0x9000a0, [(2, 0x10)], 0, .ro, .fw, 0xffffffff, 0, 0⟩,  -- TIM_Pp_TX_LAT (R318)
  ⟨0x9000a4, [(2, 0x10)], 0, .ro, .fw, 0xffffffff, 0, 0⟩,  -- TIM_Pp_RX_LAT (R318)
  ⟨0x9000a8, [(2, 0x10)], 0, .rw, .run, 0xffffffff, 0, 0⟩,  -- TIM_Pp_ADJ (R318)
  ⟨0x9000ac, [(2, 0x10)], 0, .rw, .run, 0xffffffff, 0, 0⟩,  -- TIM_Pp_ASYM (R318)
  ⟨0x9000c0, [], 0x640000, .rw, .run, 0x3ff0007, 0, 0⟩,  -- TIM_PPS_CFG (R318)
  ⟨0x9000c4, [], 0, .rw, .run, 0xffffffff, 0, 0⟩,  -- TIM_PPS_OFS (R318)
  ⟨0x9000d0, [(4, 0x10)], 0, .ro, .none, 0xffffffff, 0, 1⟩,  -- TIM_PPSINb_SEC_LO (R318)
  ⟨0x900110, [], 0, .rc, .run, 0xffffffff, 0, 0⟩,  -- TIM_PPSIN_CNT (R318)
  ⟨0x900114, [], 0, .rc, .run, 0xffffffff, 0, 0⟩,  -- TIM_STAMP_LOST (R318)
  ⟨0x900200, [(16, 0x20)], 0, .rw, .run, 0x1f, 1, 0⟩,  -- TIM_TCn_CFG (R318)
  ⟨0x900204, [(16, 0x20)], 0, .rw, .run, 0xffffffff, 0, 0⟩,  -- TIM_TCn_TGT_SEC_LO (R318)
  ⟨0x900208, [(16, 0x20)], 0, .rw, .run, 0xffff, 0, 0⟩,  -- TIM_TCn_TGT_SEC_HI (R318)
  ⟨0x90020c, [(16, 0x20)], 0, .rw, .run, 0xffffffff, 0xffffffff, 0⟩,  -- TIM_TCn_TGT_NS (R318)
  ⟨0x900210, [(16, 0x20)], 0, .rw, .run, 0xffffffff, 0, 1⟩,  -- TIM_TCn_PERIOD_LO (R318)
  ⟨0x900214, [(16, 0x20)], 0, .rw, .run, 0x7f, 0, 2⟩,  -- TIM_TCn_PERIOD_HI (R318)
  ⟨0x900218, [(16, 0x20)], 0, .ro, .none, 0x1f, 0, 0⟩,  -- TIM_TCn_STATUS (R318)
  ⟨0x90021c, [(16, 0x20)], 0, .rc, .run, 0xffffffff, 0, 0⟩,  -- TIM_TCn_SKIP (R318)
  ⟨0x9000d4, [(4, 0x10)], 0, .ro, .none, 0xffffffff, 0, 2⟩,  -- TIM_PPSINb_SEC_HI (R318)
  ⟨0x9000d8, [(4, 0x10)], 0, .ro, .none, 0xffffffff, 0, 0⟩,  -- TIM_PPSINb_NS (R318)
  ⟨0x9000dc, [(4, 0x10)], 0, .ro, .none, 0xffffffff, 0, 0⟩]  -- TIM_PPSINb_FRAC (R318)

/-- Registers of the NET block. -/
def netRows : List RegRow := [
  ⟨0xa00000, [], 3, .rw, .boot, 0x3f, 0, 0⟩,  -- NET_CFG (R340)
  ⟨0xa00004, [], 0, .ro, .none, 0x3f, 0, 0⟩,  -- NET_STATUS (R340)
  ⟨0xa00008, [], 0, .w1c, .run, 0x7ff, 0, 0⟩,  -- NET_EVENT (R340)
  ⟨0xa0000c, [], 0, .rw, .run, 0x7ff, 0, 0⟩,  -- NET_IRQ_EN (R340)
  ⟨0xa00010, [], 0x88b50000, .rw, .boot, 0xffffffff, 0, 0⟩,  -- NET_ARB_CFG (R340)
  ⟨0xa00014, [], 0xa05, .rw, .run, 0xffff, 0, 0⟩,  -- NET_ARB_TIME (R340)
  ⟨0xa00018, [], 0x64000b, .rw, .run, 0x1ff000f, 0, 0⟩,  -- NET_BATCH (R340)
  ⟨0xa0001c, [], 0x64b8c0, .rw, .run, 0xffffffff, 0, 0⟩,  -- NET_STATUS_CFG (R340)
  ⟨0xa00020, [], 0, .ro, .none, 0x3ffff, 0, 0⟩,  -- NET_LAST_GRANT (R340)
  ⟨0xa00024, [], 0, .ro, .none, 0xffffffff, 0, 0⟩,  -- NET_GRANT_SEQ (R340)
  ⟨0xa00028, [], 0, .ro, .none, 0xffffffff, 0, 0⟩,  -- NET_SWITCH_CNT (R340)
  ⟨0xa0002c, [], 0, .rc, .run, 0xffffff, 0, 0⟩,  -- NET_GAP_MAX (R340)
  ⟨0xa00030, [], 0, .rc, .run, 0xffffffff, 0, 0⟩,  -- NET_GRANT_ERR (R340)
  ⟨0xa00034, [], 0, .ro, .boot, 0xffffffff, 0, 1⟩,  -- NET_DEVICE_ID_LO (R340)
  ⟨0xa00038, [], 0, .ro, .boot, 0xffff, 0, 2⟩,  -- NET_DEVICE_ID_HI (R340)
  ⟨0xa0003c, [], 0, .rc, .run, 0xffffffff, 0, 0⟩,  -- NET_STATUS_DROP (R340)
  ⟨0xa01000, [(2, 0x1000)], 2, .rw, .boot, 0x7fff7, 0, 0⟩,  -- NETP_CFG (R340)
  ⟨0xa01004, [(2, 0x1000)], 0, .ro, .boot, 0xffffffff, 0, 1⟩,  -- NETP_MAC_LO (R340)
  ⟨0xa01008, [(2, 0x1000)], 0, .ro, .boot, 0xffff, 0, 2⟩,  -- NETP_MAC_HI (R340)
  ⟨0xa0100c, [(2, 0x1000)], 0, .rw, .boot, 0xffffffff, 0, 0⟩,  -- NETP_IP (R340)
  ⟨0xa01010, [(2, 0x1000)], 0, .rw, .boot, 0xffffffff, 0, 0⟩,  -- NETP_DST_IP (R340)
  ⟨0xa01014, [(2, 0x1000)], 0, .rw, .boot, 0xffffffff, 0, 1⟩,  -- NETP_DST_MAC_LO (R340)
  ⟨0xa01018, [(2, 0x1000)], 0, .rw, .boot, 0xffff, 0, 2⟩,  -- NETP_DST_MAC_HI (R340)
  ⟨0xa0101c, [(2, 0x1000)], 0xb8c1b8c1, .rw, .boot, 0xffffffff, 0, 0⟩,  -- NETP_UDP (R340)
  ⟨0xa01020, [(2, 0x1000)], 0, .ro, .none, 0x3fff, 0, 0⟩,  -- NETP_STATUS (R340)
  ⟨0xa01024, [(2, 0x1000)], 0, .rc, .run, 0xffffffff, 0, 0⟩,  -- NETP_TX_FRAMES (R340)
  ⟨0xa01028, [(2, 0x1000)], 0, .rc, .run, 0xffffffff, 0, 0⟩,  -- NETP_RX_FRAMES (R340)
  ⟨0xa0102c, [(2, 0x1000)], 0, .rc, .run, 0xffffffff, 0, 0⟩,  -- NETP_RX_ERR (R340)
  ⟨0xa01030, [(2, 0x1000)], 0, .rc, .run, 0xffffffff, 0, 0⟩,  -- NETP_FEC_CORR (R340)
  ⟨0xa01034, [(2, 0x1000)], 0, .rc, .run, 0xffffffff, 0, 0⟩,  -- NETP_FEC_UNCORR (R340)
  ⟨0xa01038, [(2, 0x1000)], 0, .rc, .run, 0xffffffff, 0, 0⟩,  -- NETP_PCS_ERR (R340)
  ⟨0xa0103c, [(2, 0x1000)], 0x100000, .rw, .run, 0xffffffff, 0, 0⟩,  -- NETP_HEALTH_TH (R340)
  ⟨0xa01040, [(2, 0x1000)], 0xfa0, .rw, .run, 0xffff, 0, 0⟩,  -- NETP_TX_PWR_MIN (R340)
  ⟨0xa01044, [(2, 0x1000)], 0xffffffff, .ro, .none, 0xffffffff, 0, 0⟩]  -- NETP_PROBE_RTT (R340)

/-- Registers of the HIF block. -/
def hifRows : List RegRow := [
  ⟨0xb00000, [], 0, .ro, .none, 7, 0, 0⟩,  -- HIF_STATUS (R362)
  ⟨0xb00004, [], 0, .w1c, .run, 0xf, 0, 0⟩,  -- HIF_EVENT (R362)
  ⟨0xb00008, [], 0, .rc, .run, 0xffffffff, 0, 0⟩,  -- HIF_BAR2_WERR (R362)
  ⟨0xb0000c, [], 0x400028, .rw, .run, 0xffffffff, 0, 0⟩,  -- HIF_AGE_CFG (R362)
  ⟨0xb00020, [], 0, .wo, .run, 0x7ffffff, 0x7ffffff, 0⟩,  -- MB_DOORBELL (R362)
  ⟨0xb00024, [], 0, .rw, .run, 0xffffffff, 0, 0⟩,  -- MB_TAG (R362)
  ⟨0xb00028, [], 0, .ro, .none, 0xffff0003, 0, 0⟩,  -- MB_STATUS (R362)
  ⟨0xb0002c, [], 0, .ro, .none, 0x7ffff, 0, 0⟩,  -- MB_RESP_LEN (R362)
  ⟨0xb00030, [], 0, .ro, .none, 0xffffffff, 0, 0⟩,  -- MB_RESP_TAG (R362)
  ⟨0xb00100, [(16, 0x40)], 0, .rw, .run, 0x7f, 1, 0⟩,  -- HIF_DMAe_CFG (R362)
  ⟨0xb00104, [(16, 0x40)], 0, .rw, .run, 0xfffff000, 0, 1⟩,  -- HIF_DMAe_BASE_LO (R362)
  ⟨0xb00108, [(16, 0x40)], 0, .rw, .run, 0xffffffff, 0, 2⟩,  -- HIF_DMAe_BASE_HI (R362)
  ⟨0xb0010c, [(16, 0x40)], 0, .rw, .run, 0xfffffff8, 0, 1⟩,  -- HIF_DMAe_WB_LO (R362)
  ⟨0xb00110, [(16, 0x40)], 0, .rw, .run, 0xffffffff, 0, 2⟩,  -- HIF_DMAe_WB_HI (R362)
  ⟨0xb00114, [(16, 0x40)], 0, .rw, .run, 0xffffffff, 0xffffffff, 0⟩,  -- HIF_DMAe_WR (R362)
  ⟨0xb00118, [(16, 0x40)], 0, .rw, .run, 0xffffffff, 0xffffffff, 0⟩,  -- HIF_DMAe_RD (R362)
  ⟨0xb0011c, [(16, 0x40)], 0x10032, .rw, .run, 0xffffffff, 0, 0⟩,  -- HIF_DMAe_MOD (R362)
  ⟨0xb00120, [(16, 0x40)], 0, .ro, .none, 7, 0, 0⟩,  -- HIF_DMAe_STATUS (R362)
  ⟨0xb00124, [(16, 0x40)], 0, .rc, .run, 0xffffffff, 0, 0⟩,  -- HIF_DMAe_CNT (R362)
  ⟨0xb01000, [(1024, 4)], 0, .rw, .run, 0xffffffff, 0, 0⟩,  -- MB_REQ (R362)
  ⟨0xb40000, [(65536, 4)], 0, .ro, .none, 0xffffffff, 0, 0⟩]  -- MB_RESP (R362)

/-- Registers of the MEM block. -/
def memRows : List RegRow := [
  ⟨0xc00000, [], 3, .rw, .boot, 3, 0, 0⟩,  -- MEM_CFG (R383)
  ⟨0xc00004, [], 0, .ro, .none, 0xf, 0, 0⟩,  -- MEM_STATUS (R383)
  ⟨0xc00008, [], 0, .w1c, .run, 0x1ff, 0, 0⟩,  -- MEM_EVENT (R383)
  ⟨0xc0000c, [], 0, .rw, .run, 0x1ff, 0, 0⟩,  -- MEM_IRQ_EN (R383)
  ⟨0xc00010, [], 0x103007d0, .rw, .run, 0xffffffff, 0, 0⟩,  -- MEM_SCHED (R383)
  ⟨0xc00014, [], 0x18, .rw, .run, 0xffff, 0, 0⟩,  -- MEM_SCRUB (R383)
  ⟨0xc00018, [], 0, .rc, .run, 0xffffffff, 0, 0⟩,  -- MEM_CE_CNT (R383)
  ⟨0xc0001c, [], 0, .rc, .run, 0xffffffff, 0, 0⟩,  -- MEM_UE_CNT (R383)
  ⟨0xc00020, [], 0, .rc, .run, 0xffffffff, 0, 0⟩,  -- MEM_PROT_CNT (R383)
  ⟨0xc00024, [], 0, .rc, .run, 0xffffffff, 0, 0⟩,  -- MEM_PARITY_CNT (R383)
  ⟨0xc00028, [], 0, .ro, .none, 0xffffffff, 0, 0⟩,  -- MEM_SCRUB_PASS (R383)
  ⟨0xc00030, [], 0, .ro, .none, 0xffffff7f, 0, 0⟩,  -- MEM_LOG_STATUS (R383)
  ⟨0xc00040, [(14, 8)], 0, .ro, .boot, 0x1ffff, 0, 0⟩,  -- MEM_PARTp_BASE (R383)
  ⟨0xc00044, [(14, 8)], 0, .ro, .boot, 0x3ffff, 0, 0⟩,  -- MEM_PARTp_SIZE (R383)
  ⟨0xc00100, [(2, 0x40)], 0, .ro, .none, 0xffff07ff, 0, 0⟩,  -- MEM_Ss_STATUS (R383)
  ⟨0xc00104, [(2, 0x40)], 0, .rc, .run, 0x7ff, 0, 0⟩,  -- MEM_Ss_PEAK (R383)
  ⟨0xc00108, [(2, 0x40)], 0, .rc, .run, 0xffffffff, 0, 0⟩,  -- MEM_Ss_URGENT_CNT (R383)
  ⟨0xc00200, [(2, 0x40), (16, 4)], 0, .ro, .none, 0xffffff1e, 0, 0⟩]  -- MEM_TRAINs_c (R383)

/-- Registers of the SLU block. -/
def sluRows : List RegRow := [
  ⟨0xd00000, [], 0, .rw, .run, 1, 1, 0⟩,  -- SLU_CTRL (R397)
  ⟨0xd00004, [], 0, .ro, .none, 0xffff000f, 0, 0⟩,  -- SLU_STATUS (R397)
  ⟨0xd00008, [], 0, .w1c, .run, 0x1f, 0, 0⟩,  -- SLU_EVENT (R397)
  ⟨0xd0000c, [], 0, .rw, .run, 0x1f, 0, 0⟩,  -- SLU_IRQ_EN (R397)
  ⟨0xd00010, [], 0, .rw, .run, 0xffffffc0, 0, 1⟩,  -- SLU_RING_BASE_LO (R397)
  ⟨0xd00014, [], 0, .rw, .run, 0x1f, 0, 2⟩,  -- SLU_RING_BASE_HI (R397)
  ⟨0xd00018, [], 8, .rw, .run, 0x1f, 0, 0⟩,  -- SLU_RING_SIZE (R397)
  ⟨0xd0001c, [], 0, .rw, .run, 0xffffffff, 0xffffffff, 0⟩,  -- SLU_JOB_WR (R397)
  ⟨0xd00020, [], 0, .ro, .none, 0xffffffff, 0, 0⟩,  -- SLU_JOB_RD (R397)
  ⟨0xd00024, [], 0x40000, .rw, .run, 0xffffffff, 0, 0⟩,  -- SLU_CLEAR_AFTER (R397)
  ⟨0xd00028, [], 0, .rc, .run, 0xffffffff, 0, 0⟩,  -- SLU_JOB_CNT (R397)
  ⟨0xd0002c, [], 0, .rc, .run, 0xffffffff, 0, 0⟩,  -- SLU_IN_KB (R397)
  ⟨0xd00030, [], 0, .rc, .run, 0xffffffff, 0, 0⟩,  -- SLU_OUT_KB (R397)
  ⟨0xd00034, [], 0, .rc, .run, 0xffffffff, 0, 0⟩,  -- SLU_ERR_CNT (R397)
  ⟨0xd00040, [(4, 4)], 0, .ro, .none, 0xffff0003, 0, 0⟩]  -- SLU_LANEl_STATUS (R397)

/-- Registers of the CVU block. -/
def cvuRows : List RegRow := [
  ⟨0xe00000, [(8, 0x100)], 0, .rw, .run, 0xfff073f, 1, 0⟩,  -- CV_CFG (R406)
  ⟨0xe00004, [(8, 0x100)], 0xffffffff, .rw, .run, 0xffffffff, 0, 0⟩,  -- CV_INIT (R406)
  ⟨0xe00008, [(8, 0x100)], 0xffffffff, .rw, .run, 0xffffffff, 0xffffffff, 0⟩,  -- CV_VALUE (R406)
  ⟨0xe0000c, [(8, 0x100)], 0, .ro, .none, 0xffffffff, 0, 0⟩,  -- CV_RESULT (R406)
  ⟨0xe00010, [(8, 0x100)], 0, .ro, .none, 0xffffffff, 0, 1⟩,  -- CV_BYTES_LO (R406)
  ⟨0xe00014, [(8, 0x100)], 0, .ro, .none, 0xffffffff, 0, 2⟩,  -- CV_BYTES_HI (R406)
  ⟨0xe00018, [(8, 0x100)], 0, .ro, .none, 0xffffffff, 0, 0⟩,  -- CV_LAST (R406)
  ⟨0xe0001c, [(8, 0x100)], 0, .rc, .run, 0xffffffff, 0, 0⟩,  -- CV_ITEMS (R406)
  ⟨0xe00020, [(8, 0x100)], 0, .rc, .run, 0xffffffff, 0, 0⟩,  -- CV_CHK_ERR (R406)
  ⟨0xe00024, [(8, 0x100)], 0, .ro, .none, 0x3ff, 0, 0⟩,  -- CV_ALIVE (R406)
  ⟨0xe00028, [(8, 0x100)], 0, .rc, .run, 0xffffffff, 0, 0⟩,  -- CV_ALIVE_ERR (R406)
  ⟨0xe0002c, [(8, 0x100)], 0, .rc, .run, 0xffffffff, 0, 0⟩,  -- CV_SKIPPED (R406)
  ⟨0xe00030, [(8, 0x100)], 0, .rc, .run, 0xffffffff, 0, 0⟩,  -- CV_LOSS_SEEN (R406)
  ⟨0xe00034, [(8, 0x100)], 0, .rc, .run, 0xffffffff, 0, 0⟩,  -- CV_MISS (R406)
  ⟨0xe00038, [(8, 0x100)], 0, .rw, .run, 0xffffffc0, 0, 1⟩,  -- CV_WIN_BASE_LO (R406)
  ⟨0xe0003c, [(8, 0x100)], 0, .rw, .run, 0x1f, 0, 2⟩,  -- CV_WIN_BASE_HI (R406)
  ⟨0xe00040, [(8, 0x100)], 0, .rw, .run, 0xffffff, 0, 0⟩,  -- CV_WIN_SIZE (R406)
  ⟨0xe00044, [(8, 0x100)], 0, .wo, .run, 1, 1, 0⟩,  -- CV_SAVE (R406)
  ⟨0xe00048, [(8, 0x100)], 0, .ro, .none, 0xffffffff, 0, 0⟩,  -- CV_SAVED_VALUE (R406)
  ⟨0xe0004c, [(8, 0x100)], 0, .ro, .none, 0xffffffff, 0, 1⟩,  -- CV_SAVED_BYTES_LO (R406)
  ⟨0xe00050, [(8, 0x100)], 0, .ro, .none, 0xffffffff, 0, 2⟩,  -- CV_SAVED_BYTES_HI (R406)
  ⟨0xe00054, [(8, 0x100)], 0, .w1c, .run, 7, 0, 0⟩,  -- CV_EVENT (R406)
  ⟨0xe00800, [], 0, .rw, .run, 0xff, 0, 0⟩]  -- CVU_IRQ_EN (R406)

/-- Registers of the CFG block. -/
def cfgRows : List RegRow := [
  ⟨0xf00000, [], 0, .ro, .none, 0xf, 0, 0⟩,  -- CFG_BOOT_STATUS (R426)
  ⟨0xf00004, [], 0xff, .ro, .none, 0xffffffff, 0, 0⟩,  -- CFG_SLOT_A_STATUS (R426)
  ⟨0xf00008, [], 0xff, .ro, .none, 0xffffffff, 0, 0⟩,  -- CFG_SLOT_B_STATUS (R426)
  ⟨0xf0000c, [], 0, .ro, .none, 0xffffffff, 0, 1⟩,  -- CFG_IMG_VER_LO (R426)
  ⟨0xf00010, [], 0, .ro, .none, 0x7fffff, 0, 2⟩,  -- CFG_IMG_VER_HI (R426)
  ⟨0xf00014, [], 0, .ro, .none, 0xfff, 0, 0⟩,  -- CFG_EPOCH (R426)
  ⟨0xf00018, [], 0, .ro, .none, 0xffffffff, 0, 0⟩,  -- CFG_BOOT_TIME (R426)
  ⟨0xf0001c, [], 0, .ro, .none, 0xffffff01, 0, 0⟩]  -- CFG_FLASH (R426)

/-- Registers of the SEC block. -/
def secRows : List RegRow := [
  ⟨0x1000000, [], 0, .ro, .none, 0x7fffff, 0, 0⟩,  -- SEC_STATUS (R459)
  ⟨0x1000004, [], 0, .w1c, .run, 0x1ff, 0, 0⟩,  -- SEC_EVENT (R459)
  ⟨0x1000008, [], 0, .rw, .run, 0x1ff, 0, 0⟩,  -- SEC_IRQ_EN (R459)
  ⟨0x100000c, [], 0, .ro, .none, 0xffffffff, 0, 0⟩,  -- SEC_UPD_BYTES (R459)
  ⟨0x1000010, [], 0xff, .ro, .none, 0xffffffff, 0, 0⟩,  -- SEC_UPD_RESULT (R459)
  ⟨0x1000014, [], 0, .ro, .none, 0xffff071f, 0, 0⟩,  -- SEC_TRIAL (R459)
  ⟨0x1000018, [], 0, .ro, .none, 0xff, 0, 0⟩,  -- SEC_LAST_UPD (R459)
  ⟨0x100001c, [], 0xb8c20001, .ro, .boot, 0xffff0003, 0, 0⟩,  -- SEC_POLICY (R459)
  ⟨0x1000020, [], 0xc350, .ro, .boot, 0xffffffff, 0, 0⟩,  -- SEC_UPD_SPEED_MAX (R459)
  ⟨0x1000024, [], 0x3c0258, .ro, .boot, 0xffffffff, 0, 0⟩]  -- SEC_TRIAL_CFG (R459)

/-- Registers of the PWR block. -/
def pwrRows : List RegRow := [
  ⟨0x1100000, [], 0, .ro, .none, 0x3f, 0, 0⟩,  -- PWR_STATUS (R476)
  ⟨0x1100004, [], 0, .w1c, .run, 0x1f, 0, 0⟩,  -- PWR_EVENT (R476)
  ⟨0x1100008, [], 0, .rw, .run, 0x1f, 0, 0⟩,  -- PWR_IRQ_EN (R476)
  ⟨0x110000c, [], 0, .ro, .none, 0xffff, 0, 0⟩,  -- PWR_VSENSE (R476)
  ⟨0x1100010, [], 0xffff, .rc, .run, 0xffff, 0, 0⟩,  -- PWR_VSENSE_MIN (R476)
  ⟨0x1100014, [], 0, .ro, .none, 0xffff, 0, 0⟩,  -- PWR_VCORE (R476)
  ⟨0x1100018, [], 0, .ro, .none, 0x3ff01ff, 0, 0⟩,  -- PWR_JNL (R476)
  ⟨0x110001c, [], 0, .ro, .none, 0xffffffff, 0, 0⟩,  -- PWR_LAST_JSEQ (R476)
  ⟨0x1100020, [], 0, .rc, .run, 0xffffffff, 0, 0⟩]  -- PWR_HOLD_CNT (R476)

/-- Registers of the CAL block. -/
def calRows : List RegRow := [
  ⟨0x1200000, [], 0x801, .rw, .run, 0xff01, 0, 0⟩,  -- CAL_CFG (R494)
  ⟨0x1200004, [], 0, .ro, .none, 0xf, 0, 0⟩,  -- CAL_STATUS (R494)
  ⟨0x1200008, [], 0, .w1c, .run, 0x7f, 0, 0⟩,  -- CAL_EVENT (R494)
  ⟨0x120000c, [], 0, .rw, .run, 0x7f, 0, 0⟩,  -- CAL_IRQ_EN (R494)
  ⟨0x1200010, [], 0, .wo, .run, 0x7ffff, 0x7ffff, 0⟩,  -- CAL_REQ (R494)
  ⟨0x1200014, [], 0, .ro, .none, 0x7ffff, 0, 0⟩,  -- CAL_PENDING (R494)
  ⟨0x1200018, [], 0, .ro, .none, 0x7ffff, 0, 0⟩,  -- CAL_FAILED (R494)
  ⟨0x120001c, [], 0, .ro, .none, 0x7ffff, 0, 0⟩,  -- CAL_SKIPPED (R494)
  ⟨0x1200020, [], 0, .ro, .none, 0xffffffff, 0, 0⟩,  -- CAL_STORE_SEQ (R494)
  ⟨0x1200024, [], 0, .rc, .run, 0xffffffff, 0, 0⟩,  -- CAL_RUN_CNT (R494)
  ⟨0x1200028, [], 0, .rc, .run, 0xff, 0, 0⟩,  -- CAL_UNLOCK_FAIL (R494)
  ⟨0x1200040, [(12, 4)], 0, .ro, .none, 0xffffffff, 0, 0⟩,  -- CAL_TSENt (R494)
  ⟨0x1200080, [], 0, .ro, .none, 0xffff0003, 0, 0⟩,  -- CAL_BIST_STATUS (R494)
  ⟨0x1200084, [], 0, .ro, .none, 0x3fff, 0, 0⟩,  -- CAL_BIST_PASS (R494)
  ⟨0x1200088, [], 0, .ro, .none, 0x3fff, 0, 0⟩,  -- CAL_BIST_FAIL (R494)
  ⟨0x120008c, [], 0, .ro, .none, 0x3fff, 0, 0⟩,  -- CAL_BIST_SKIP (R494)
  ⟨0x1200100, [(14, 0x10)], 0, .ro, .none, 0xffffffff, 0, 1⟩,  -- CAL_BISTp_SIG_LO (R494)
  ⟨0x1200104, [(14, 0x10)], 0, .ro, .none, 0xffffffff, 0, 2⟩,  -- CAL_BISTp_SIG_HI (R494)
  ⟨0x1200108, [(14, 0x10)], 0, .ro, .none, 0xffffffff, 0, 1⟩,  -- CAL_BISTp_EXP_LO (R494)
  ⟨0x120010c, [(14, 0x10)], 0, .ro, .none, 0xffffffff, 0, 2⟩]  -- CAL_BISTp_EXP_HI (R494)

/-- The rows of the block an address lies in (Table 20-9): each block spans 1 MB from its base. -/
def blockRows (a : Nat) : List RegRow :=
  match a / 0x100000 with
  | 0 => glbRows
  | 1 => camRows
  | 2 => strRows
  | 3 => seamRows
  | 4 => lodeRows
  | 5 => asyRows
  | 6 => shfRows
  | 7 => tdlRows
  | 8 => rnlRows
  | 9 => timRows
  | 10 => netRows
  | 11 => hifRows
  | 12 => memRows
  | 13 => sluRows
  | 14 => cvuRows
  | 15 => cfgRows
  | 16 => secRows
  | 17 => pwrRows
  | 18 => calRows
  | _ => []

/-- The row of a listed register; none for an address no table lists (R425). -/
def regRow (a : Nat) : Option RegRow := (blockRows a).find? (fun r => r.hit a)

/-- The reset value of a register, 0 where no table lists it (R425). -/
def resetWord (a : Nat) : Word :=
  match regRow a with
  | some r => BitVec.ofNat 32 r.reset
  | none => 0

end Sys2Proof.Machine
end

