-- ==== Sys2Proof/Machine/Store.lean ====
section
/-! DEFINITION. The one sparse store of the model: a list of (key, value) pairs with strictly rising keys and no entry
equal to the default of its key, so that equal stores are equal data. Registers, DRAM, flash and every array of like
units are stores. -/

namespace Sys2Proof.Machine

/-- A sparse store: what an unlisted key reads as is given to each operation as `d`. -/
abbrev Tbl (α : Type) := List (Nat × α)

/-- The value at a key. -/
def tget {α : Type} (d : Nat → α) : Tbl α → Nat → α
  | [], k => d k
  | (a, v) :: t, k => if k = a then v else tget d t k

/-- Put an entry at its place in rising order. -/
def tins {α : Type} (k : Nat) (v : α) : Tbl α → Tbl α
  | [] => [(k, v)]
  | (a, w) :: t => if k < a then (k, v) :: (a, w) :: t else (a, w) :: tins k v t

/-- Write a key: the default value removes the entry, so the form stays canonical. -/
def tset {α : Type} [DecidableEq α] (d : Nat → α) (t : Tbl α) (k : Nat) (v : α) : Tbl α :=
  if v = d k then t.filter (fun e => e.1 != k) else tins k v (t.filter (fun e => e.1 != k))

/-- The canonical form, from a given least key on. -/
def twfFrom {α : Type} [DecidableEq α] (d : Nat → α) : Nat → Tbl α → Bool
  | _, [] => true
  | lo, (a, v) :: t => decide (lo ≤ a) && !(decide (v = d a)) && twfFrom d (a + 1) t

/-- The canonical form: keys strictly rising, no entry equal to its default. -/
def twf {α : Type} [DecidableEq α] (d : Nat → α) (t : Tbl α) : Bool := twfFrom d 0 t

/-- The entries of consecutive keys that hold something else than their default. -/
def tentries {α : Type} [DecidableEq α] (d : Nat → α) : Nat → List α → Tbl α
  | _, [] => []
  | k, v :: vs => if v = d k then tentries d (k + 1) vs else (k, v) :: tentries d (k + 1) vs

/-- Write consecutive keys. -/
def tsetMany {α : Type} [DecidableEq α] (d : Nat → α) (t : Tbl α) (k : Nat) (vs : List α) : Tbl α :=
  t.filter (fun e => decide (e.1 < k)) ++ tentries d k vs ++ t.filter (fun e => decide (k + vs.length ≤ e.1))

/-- The values at n consecutive keys from k on, of a store in rising order that lists no key below k. -/
def twalk {α : Type} (d : Nat → α) : Tbl α → Nat → Nat → List α
  | _, _, 0 => []
  | [], k, n + 1 => d k :: twalk d [] (k + 1) n
  | (a, v) :: t, k, n + 1 => if a = k then v :: twalk d t (k + 1) n else d k :: twalk d ((a, v) :: t) (k + 1) n

/-- Read consecutive keys. -/
def tgetMany {α : Type} (d : Nat → α) (t : Tbl α) (k n : Nat) : List α := twalk d (t.filter (fun e => decide (k ≤ e.1))) k n

/-- What an unwritten byte of DRAM reads as. DESIGN CHOICE (assumption 3): zero. -/
def dramInit (_ : Nat) : Byte := 0

/-- What an erased byte of the configuration flash reads as: NOR flash erases to ones. PRESUMED (assumption 4). -/
def flashInit (_ : Nat) : Byte := 0xFF

/-- The default of a store whose unlisted keys hold nothing. -/
def noneAt {α : Type} (_ : Nat) : Option α := none

end Sys2Proof.Machine
end

