-- ==== Sys2Proof/Machine/State.lean ====
section
/-! DEFINITION. The state of the block, as plain data: the register file, the state of each unit that no register shows,
the memories, the fuses, and the queue of waiting commands. -/

namespace Sys2Proof.Machine

/-- The reasons a command may stop the machine. No rule of the spec stops it: every failure the spec describes is an
effect on the state (an error response, a freeze, a reset, a status), so nothing raises a fault; the type has no
constructor. -/
inductive Fault where
deriving DecidableEq, Repr

/-- The reasons a command is refused by the model. -/
inductive Refusal where
  /-- Raised by the dispatch alone, for a command without a meaning. Safe: the machine stops where the hardware goes on. -/
  | notModelled (mnemonic : String)
deriving DecidableEq, Repr

/-- The four variants of the part (R1). -/
inductive Variant where
  | cg7240 | cg7230 | cg7220 | cg7210
deriving DecidableEq, Repr

/-- A time stamp: seconds, nanoseconds and the fraction in 1/65,536 ns (R296). -/
structure Stamp where
  sec : Nat := 0
  ns : Nat := 0
  frac : Nat := 0
deriving DecidableEq, Repr

/-- What a log entry says happened; the chapters name the events, and the numeric CODE is `Config.logCode` (Table 16-7). -/
inductive LogEvent where
  | paceUnder | loopDrop | tbStep | memCe | memUe | memPoison | memProt | memParity | memFrozen | memMirror
  | bar2Error | logMark | sagReported | bistDone | shaftMemErr | sluiceVerify | macInvalid
deriving DecidableEq, Repr

/-- A log entry (Table 16-7). -/
structure LogEntry where
  seq : Nat
  unit : Nat
  what : LogEvent
  t2 : Nat
  t0 : Stamp
  data : List Nat
deriving DecidableEq, Repr

/-- What leaves the block: interrupts, pulses, link packets and frames, and writes to host memory. The list of outputs is
the model's own trace of the pins and links, newest first. -/
inductive Out where
  /-- an MSI-X vector requested (Table 16-3) -/
  | msix (vector : Nat)
  /-- a back-channel packet to a camera: the bytes between its SOP and EOP (R86) -/
  | backChannel (port : Nat) (packet : List Byte)
  /-- a link management message on the back channel: S1, A0, A1, A2 and SEQ (R49) -/
  | linkMsg (port s1 a0 a1 a2 seq : Nat)
  /-- a trigger pulse: its count, its width, and whether POL makes it active low (R270, R271) -/
  | trig (output count width : Nat) (low : Bool)
  /-- a strobe pulse: delay, width, whether it is active low, and whether it leaves by the pin of TRIG14 or TRIG15 (R272) -/
  | strobe (output delay width : Nat) (low alt : Bool)
  /-- a SYNC_OUT pulse of so many nanoseconds (R274) -/
  | syncOut (width : Nat)
  /-- a PPS_OUT pulse of so many milliseconds (R316) -/
  | ppsOut (width : Nat)
  /-- SSI clocks of one frame, and their frequency in kHz (R251) -/
  | ssiClocks (port count khz : Nat)
  /-- an Ethernet frame sent by a network port: tag (PCP and VID) when VLAN_EN is set, destination MAC, EtherType, payload -/
  | frame (port : Nat) (tag : Option Nat) (dst etherType : Nat) (payload : List Byte)
  /-- a UDP datagram sent by a network port (R336): tag, destination MAC, IP addresses, ports, checksum, payload -/
  | udp (port : Nat) (tag : Option Nat) (dstMac srcIp dstIp srcPort dstPort checksum : Nat) (payload : List Byte)
  /-- a PTP message sent (R311, Table 14-3): port, tag, the UDP checksum where it goes by UDP over IPv4, domain number, message
  type, twoStepFlag, and the timestamp and correctionField inserted -/
  | ptp (port : Nat) (tag udpChecksum : Option Nat) (domain msgType : Nat) (twoStep : Bool) (fields : List Int)
  /-- bytes written to host memory by DMA -/
  | hostWrite (addr : Nat) (bytes : List Byte)
  /-- a response of a memory read to its requester: address and whether it carried an error -/
  | memResponse (addr : Nat) (error : Bool)
  /-- a completion of a BAR read: data, or Completer Abort -/
  | barRead (data : List Byte) (abort : Bool)
  /-- a JTAG instruction's answer -/
  | jtag (value : List Nat)
  /-- the level of HOLD_OK -/
  | holdOk (high : Bool)
deriving DecidableEq, Repr

/-- Does an output leave by a pin that boundary scan takes from the core (R491)? Responses inside the device and the TAP's own
answers do not. -/
def Out.byPin : Out → Bool
  | .memResponse _ _ => false
  | .jtag _ => false
  | _ => true

/-- Global state that no register shows: the log, the outputs, the free-value counter and the reset line. -/
structure GlbUnit where
  /-- log entries, newest first; the latest 65,536 are kept -/
  log : List LogEntry := []
  /-- the sequence number of the next log entry -/
  lseq : Nat := 0
  /-- outputs, newest first: the model's own trace -/
  out : List Out := []
  /-- how many free values have been drawn: the model's own field -/
  free : Nat := 0
  /-- P0 has started since the release of RESET_N -/
  started : Bool := false
  /-- RESET_N is held low -/
  held : Bool := false
  /-- pace windows: the values of GLB_PACE_CTRL the window in progress runs with (R38) -/
  paceCtrl : Word := 0x10526401
  /-- TB2 nanosecond at which the pace window in progress began (R23) -/
  paceStart : Nat := 0
deriving DecidableEq, Repr

/-- A mailbox command that has been accepted and has not completed (R356, R357). -/
structure Running where
  tag : Word
  /-- its number among the commands taken since reset -/
  id : Nat := 0
  /-- the status and response bytes once the command is done; none while it waits for something outside -/
  reply : Option (Nat × List Byte)
  /-- set when the host detached meanwhile: the response is discarded (R354) -/
  discard : Bool := false
  /-- the mailbox code -/
  code : Nat := 0
deriving DecidableEq, Repr

/-- An entry of the MSI-X table in BAR4 (R343, Table 16-1): message address and data, and the mask bit. -/
structure MsixEntry where
  addr : BitVec 64 := 0
  data : Word := 0
  masked : Bool := true
deriving DecidableEq, Repr

/-- The host interface beside its registers. -/
structure HifUnit where
  /-- the USB4 link is up and the function enumerated (R355) -/
  attached : Bool := false
  /-- the function is in D3hot (R343) -/
  d3hot : Bool := false
  /-- the MSI-X table, and the vectors pending in the bit array of BAR4 (R343) -/
  msix : Tbl MsixEntry := []
  pending : BitVec 64 := 0
  running : Option Running := none
  /-- mailbox commands taken since reset -/
  taken : Nat := 0
  /-- commands that were running when the host detached and have not ended: their responses are discarded (R354) -/
  old : List Running := []
  /-- entries written back since the last request of each engine's vector (R353) -/
  unsignalled : Tbl Nat := []
  /-- TB2 at which the first of them was written (R353) -/
  signalAt : Tbl Nat := []
  /-- TB2 from which each copy engine's next descriptor waits for service (R351) -/
  waitFrom : Tbl Nat := []
  /-- engines whose copy descriptor is promoted above ring work, in order of promotion (R351) -/
  promoted : List Nat := []
  /-- bytes of each copy engine's next descriptor that are already copied (R351) -/
  copied : Tbl Nat := []
  /-- the engine of each mode served last: ring, copy (R351) -/
  lastRing : Nat := 15
  lastCopy : Nat := 15
deriving DecidableEq, Repr

/-- An activation that a task input holds until its unit takes it (R287). -/
structure HeldAct where
  /-- hop count of the event that caused it; the greater when merged (R287) -/
  hop : Nat
  /-- the channel that delivered it (of the greater hop count when merged) -/
  chan : Nat
  /-- the SECURE channels that delivered it -/
  secure : List Nat
  /-- the OPEN channels that delivered it -/
  opens : List Nat
deriving DecidableEq, Repr

/-- The cause of an event that a re-entering task raises: hop count and channel (R288). -/
structure Cause where
  hop : Nat
  chan : Nat
deriving DecidableEq, Repr

/-- Runnel beside its registers: the activations that task inputs hold, by identifier bits [11:0]. -/
structure RnlUnit where
  acts : Tbl (Option HeldAct) := []
deriving DecidableEq, Repr

/-- One time base (R294): seconds, nanoseconds below 10^9, fraction in 2^-32 ns. -/
structure TimeBase where
  sec : Nat := 0
  ns : Nat := 0
  frac : Nat := 0
deriving DecidableEq, Repr

/-- A PTP ordinary clock of one port in one domain (R307). Stamps are linear counts in 2^-16 ns. -/
structure PtpClock where
  /-- the chosen master's last Announce -/
  master : Option AnnounceMsg := none
  /-- interval of the last Sync received, log2 seconds -/
  logSync : Int := 0
  /-- receive stamp, sequence and source of a Sync waiting for its Follow_Up -/
  syncRx : Option (Int × Nat × Int) := none
  /-- origin and receive stamps of the last complete Sync, corrected -/
  syncDone : Option (Int × Int) := none
  /-- transmit stamp and sequence of the Delay_Req in flight -/
  delayReq : Option (Int × Nat) := none
  /-- transmit stamp and sequence of the Pdelay_Req in flight -/
  pdelayReq : Option (Int × Nat) := none
  /-- receive stamp t4, remote receipt stamp t2 and correction of a two-step Pdelay_Resp -/
  pdelayResp : Option (Int × Int × Int × Nat) := none
  delaySeq : Nat := 0
  pdelaySeq : Nat := 0
  /-- mean path delay, 2^-16 ns -/
  path : Option Int := none
  /-- last offset, 2^-16 ns -/
  offset : Int := 0
  /-- messages received, by PTP message type -/
  counts : Tbl Nat := []
  /-- the last stamps of an event message received and sent, on TB0 and on TB1 (R308) -/
  rxAt : Option (Int × Int) := none
  txAt : Option (Int × Int) := none
  /-- TB2 ns of the chosen master's last Announce -/
  annAt : Nat := 0
  /-- TB2 ns of the last Pdelay_Req sent -/
  pdelayAt : Option Nat := none
deriving DecidableEq, Repr

/-- The time unit beside its registers. -/
structure TimUnit where
  /-- TB0 to TB3 (R293) -/
  tb0 : TimeBase := {}
  tb1 : TimeBase := {}
  tb2 : TimeBase := {}
  tb3 : TimeBase := {}
  /-- what a slew of TB3 has still to absorb, 2^-32 ns (R299) -/
  slew : Int := 0
  /-- full targets of the armed time-compare slots, linear ns (R303) -/
  tgt : Tbl Nat := []
  /-- measurements in a row with |offset| at most LOCK_TH, TB0 and TB1 (R314) -/
  run0 : Nat := 0
  run1 : Nat := 0
  /-- seconds for TB0 at the next PPS_IN edge (Table 14-7) -/
  secSet : Option Nat := none
  /-- TB2 ns of the last measurement of TB0 and of TB1 (R314) -/
  meas : Tbl (Option Nat) := []
  /-- TB2 ns of the last PPS_IN edge; none before the first and after a miss (R315) -/
  ppsAt : Option Nat := none
  /-- the last whole second of each base that PPS_OUT has marked or a step has passed over (R316) -/
  marked : Tbl Nat := []
  /-- clocks by 2 × port + domain -/
  ptp : Tbl PtpClock := []
deriving DecidableEq, Repr

/-- An encoder input beside its registers. Instants are TB2 in units of 125 ps (R244). -/
structure EncIn where
  /-- arrival of the previous counted edge (RATE_CNT, R247) -/
  lastCounted : Option Nat := none
  /-- steps since the last qualified Z edge; none before the first (ZCHECK, R249) -/
  sinceZ : Option Int := none
  /-- the pairs in wire fault: 0 A, 1 B, 2 Z (R248) -/
  faults : List Nat := []
deriving DecidableEq, Repr

/-- An SSI port beside its registers (R251 to R254). -/
structure SsiPort where
  /-- the last accepted word, which the next difference is taken from -/
  last : Option Nat := none
  /-- sample instant of the frame being read; none when no frame waits for its word -/
  reading : Option Nat := none
  /-- SSIn_DAT was high at the start of the period; else the frame's clocks wait for it -/
  idle : Bool := true
  /-- TB2 nanosecond at which the period in progress began -/
  began : Option Nat := none
deriving DecidableEq, Repr

/-- A position counter beside its registers (R255 to R261). -/
structure PosCnt where
  /-- arrivals of the counted edges since standstill or change of direction, newest first, at most 65 (R259) -/
  edges : List Nat := []
  /-- arrival and acceptance of the last counted edge, standstill or not -/
  last : Option Nat := none
deriving DecidableEq, Repr

/-- A scheduled interpolated firing (R262): instant in 125 ps, target, grid index. -/
structure Sched where
  at_ : Nat
  target : Int
  k : Int
deriving DecidableEq, Repr

/-- A compare channel beside its registers (R262 to R268). -/
structure CmpCh where
  /-- the last grid index fired -/
  kLast : Option Int := none
  sched : Option Sched := none
  /-- next firing of timed mode, TB2 ns (R268) -/
  next : Option Nat := none
deriving DecidableEq, Repr

/-- Tideline beside its registers. -/
structure TdlUnit where
  enc : Tbl EncIn := []
  ssi : Tbl SsiPort := []
  pos : Tbl PosCnt := []
  cmp : Tbl CmpCh := []
  /-- the end of each TRIG output's last pulse, 125 ps (R270) -/
  pulseEnd : Tbl (Option Nat) := []
  /-- TB2 ns of issue of each TRIG output's latest triggers, newest first, at most 65,536 (R109) -/
  trigAt : Tbl (List Nat) := []
  /-- the camera ports that gate each TRIG output (R98, R270) -/
  gates : Tbl (List Nat) := []
  /-- ZLAT of each counter (R249): only the lowest counter of an encoder is shown in registers -/
  zlat : Tbl Int := []
deriving DecidableEq, Repr

/-- A DRAM block that stays unreadable until it is written whole (R377, R378). -/
inductive BadBlock where
  | lost (syndrome : Nat)
  | poison
deriving DecidableEq, Repr

/-- An entry of the DRAM error log (Table 17-5). -/
structure MemErr where
  block : Nat
  ty : Nat
  req : Nat
  syndrome : Nat
  symbol : Nat
  t2 : Nat
  rep : Nat := 0
deriving DecidableEq, Repr

/-- A request that waits in a pseudo-channel's queue (R370 to R372). -/
structure MemReq where
  write : Bool
  req : Nat
  addr : Nat
  n : Nat
  bytes : List Byte
  meets : DramFault
  mirror : DramFault
  urgent : Bool := false
  /-- TB2 nanosecond of its arrival (R371) -/
  at_ : Nat := 0
deriving DecidableEq, Repr

/-- Shaft's areas as the loader lays them: where the descriptors and the link array begin, elements, and track queues in service. -/
structure ShaftLaid where
  desc : Nat
  link : Nat
  elems : Nat
  tracks : Nat
deriving DecidableEq, Repr

/-- DRAM and its controllers beside their registers. -/
structure MemUnit where
  /-- DRAM contents: bytes by physical address -/
  cells : List Host.Cell := []
  /-- Shaft's descriptors and link array as the loader laid them: what unlisted bytes of them read as (R222, R224) -/
  laid : Option ShaftLaid := none
  /-- unreadable blocks, by block address (address / 64) -/
  bad : Tbl (Option BadBlock) := []
  /-- the controllers' error log, oldest first, at most 64 entries (R380) -/
  log : List MemErr := []
  /-- requests that the stack controllers hold and have not served, in order of arrival: at most 1,024 of each stack (R366) -/
  wait : List MemReq := []
  /-- requests that a full stack controller stalls at its request crossing, in order of arrival (R30, R366) -/
  stalled : List MemReq := []
  /-- the read that froze a single-stack variant: requester, block, syndrome (R379) -/
  froze : Option (Nat × Nat × Nat) := none
  /-- open row of each bank: key is stack, pseudo-channel, SID, bank group and bank (R374) -/
  openRow : Tbl (Option Nat) := []
  /-- refreshes owed by each pseudo-channel (R373), by 32 × stack + pc -/
  owed : Tbl Nat := []
  /-- the bank, 0 to 31, that each pseudo-channel's next refresh addresses (R373), by 32 × stack + pc -/
  refBank : Tbl Nat := []
  /-- TB2 nanosecond at which each pseudo-channel's last tREFI ended (R373), by 32 × stack + pc -/
  refAt : Tbl Nat := []
  /-- bytes that each stack moved: the TB2 millisecond, the bytes in it, and those in the one before (Table 17-7) -/
  traffic : Tbl (Nat × Nat × Nat) := []
  /-- TB2 nanosecond at which the scrub pass in progress began (R376) -/
  scrubAt : Nat := 0
  /-- the pseudo-channel serves writes: the write queue drains to WR_LOW (R372), by 32 × stack + pc -/
  drain : Tbl Nat := []
  /-- lane repair map and per-lane error counts of the last helper run (Table 17-8), by 16 × stack + channel -/
  helper : Tbl (List Nat) := []
deriving DecidableEq, Repr

/-- A claim of shared resources (R422 to R424). -/
structure Claim where
  cls : Nat
  first : Nat
  count : Nat
  use : Nat
  /-- by the host, or by the image -/
  host : Bool
deriving DecidableEq, Repr

/-- The epoch record that P0 is writing at boot: the copy, the new epoch and the new sequence number (R411). -/
structure EpochWrite where
  copy : Nat
  epoch : Nat
  seq : Nat
deriving DecidableEq, Repr

/-- Boot and configuration beside its registers. -/
structure CfgUnit where
  claims : List Claim := []
  /-- the manifest of the loaded image, its first 4 KB -/
  manifest : List Byte := []
  /-- the configuration records part of the loaded image -/
  records : List Byte := []
  /-- the tables part and the Assay networks of the chosen image, until they are loaded -/
  tabs : List Byte := []
  nets : Tbl (Option (List Byte)) := []
  /-- the epoch record write in progress -/
  epochWrite : Option EpochWrite := none
  /-- an image has been chosen and checked, and waits for DRAM -/
  loaded : Bool := false
  /-- the boot acts on an activation record with STATE BOOT_TRIAL: a trial starts at INSP_READY, and this is PREV_SLOT (R452) -/
  bootTrial : Option Nat := none
  /-- the first stage of the self-check that mismatched, 0 for none (R450) -/
  selfFail : Nat := 0
  /-- BOOT fields of the running image that hold until the end of an activation pause: the words of their registers (R448) -/
  deferred : List (Nat × Word) := []
deriving DecidableEq, Repr

/-- Pins and the test access port beside their registers. -/
structure PinsUnit where
  /-- levels that Runnel drive tasks have set, a bit per GPIO (R500) -/
  runnelOut : BitVec 16 := 0
  /-- the boundary register overrides the pins (R491): 0 none, 1 EXTEST, EXTEST_PULSE or EXTEST_TRAIN, 2 CLAMP, 3 HIGHZ -/
  boundary : Nat := 0
  /-- the instruction register of the TAP; Test-Logic-Reset selects IDCODE (R490) -/
  ir : Nat := 0x02
  /-- the boundary register's latched value -/
  bsr : Nat := 0
deriving DecidableEq, Repr

/-- The coefficient sweep of a lane (R52, R53). -/
inductive Sweep where
  | idle
  /-- a REQ for a point is out, with its SEQ and how often it has been repeated -/
  | asked (pre post seq tries : Nat)
  /-- the dwell at a point, with the coefficients the camera applied there -/
  | dwell (pre post appliedPre appliedPost : Nat)
  /-- the selected point has been asked for, with its SEQ and how often that was repeated -/
  | last (pre post seq tries : Nat)
  /-- the sweep has ended and the camera has applied its point -/
  | done
deriving DecidableEq, Repr

/-- A lane of a camera port beside its registers. -/
structure CamLane where
  locked : Bool := false
  sweep : Sweep := .idle
  /-- points visited through a NAK (R53) -/
  naks : List (Nat × Nat) := []
  /-- best margin so far, with its PRE and POST -/
  best : Option (Nat × Nat × Nat) := none
  /-- the lane works (R53) and has not lost lock since -/
  works : Bool := false
  /-- the last 15 bits of the receiver's PRBS-15 generator, newest lowest; none before it is synchronised (R44) -/
  prbs15 : Option Nat := none
  /-- count and arrival, in symbols, of the last alignment marker (R46, R47) -/
  marker : Option (Nat × Nat) := none
  /-- the pattern checker: the bits it predicts from, newest first, and how many error-free bits it has seen (R61) -/
  check : List Bool := []
  run : Nat := 0
  /-- the lane sends a test pattern (R94) -/
  pattern : Bool := false
  /-- running disparity, positive when set; none before the first symbol after symbol lock (R43) -/
  rd : Option Bool := none
  /-- groups received since symbol lock, and the places among them of the last eight code violations, newest first (R48) -/
  seen : Nat := 0
  viol : List Nat := []
  /-- code violations since the dwell in progress began (R53) -/
  dwellBad : Nat := 0
  /-- idle ordered sets in a row, and symbols outside idle ordered sets and markers since CTLE froze (R57) -/
  idles : Nat := 0
  busy : Nat := 0
  /-- TB2 ns at which the last REQ left, or the dwell in progress began (R52, R53) -/
  since : Nat := 0
deriving DecidableEq, Repr

/-- Why a port sent, or waits to send, a back-channel command (R86, R97, R98, R100, R60). -/
inductive BcUse where
  /-- for the mailbox command of this code and number -/
  | host (code id : Nat)
  /-- steps of discovery -/
  | ident | pktMax
  | vcFormat (v : Nat) | vcWidth (v : Nat) | vcEn (v : Nat)
  /-- the trigger count setting, as step 5 of discovery or alone -/
  | count (disc : Bool)
  /-- spare mirror on or off for a lane -/
  | mirror (lane : Nat) (on : Bool)
  /-- a test pattern on the lanes of a mask, on or off -/
  | pattern (mask : Nat) (on : Bool)
  /-- discovery of an earlier training: its reply changes nothing -/
  | stale
deriving DecidableEq, Repr

/-- A back-channel command: waiting, or outstanding (`sent`) with its tag, the number of its resends and the TB2 ns at which it last
left. -/
structure BcCmd where
  use : BcUse
  code : Nat
  payload : List Byte
  sent : Bool := false
  tag : Nat := 0
  resends : Nat := 0
  at_ : Nat := 0
deriving DecidableEq, Repr

/-- The holder of SP (R59). -/
inductive SpHold where
  | replace
  | retrain (lane : Nat)
  | recal (lane : Nat)
deriving DecidableEq, Repr

/-- An open line of a virtual channel (R78). -/
structure OpenLine where
  ctx : Nat
  /-- the ring slot reserved for it; none for a line that is ORPHAN or was dropped at a full ring -/
  slot : Option Nat
  num : Nat
  exposure : Nat
  /-- end of the previous pixel packet -/
  end_ : Nat := 0
  /-- positions below W written -/
  written : Nat := 0
  /-- position after the last pixel written below W -/
  pixEnd : Nat := 0
  long : Bool := false
  /-- a packet CRC of the line mismatched (R83) -/
  mis : Bool := false
  /-- the digest over the pixel payload bytes kept so far, before its final XOR (R77) -/
  digest : BitVec 32 := 0xFFFFFFFF
deriving DecidableEq, Repr

/-- A virtual channel's receiver. -/
structure VcRx where
  /-- the SEQ expected next; none before the first packet after ACTIVE (R74) -/
  seq : Option Nat := none
  line : Option OpenLine := none
  /-- TB2 ns of the last VC-scope packet (R80) -/
  lastAt : Nat := 0
deriving DecidableEq, Repr

/-- A camera port beside its registers. -/
structure CamPort where
  lanes : Tbl CamLane := []
  /-- TB2 ns at which the port came to its state, the last DONE left, and the last line start was accepted (R51, R56, R62) -/
  since : Nat := 0
  doneAt : Nat := 0
  lineAt : Nat := 0
  /-- the bytes so far of the packet in progress, newest first; none outside a packet (R71) -/
  part : Option (List Byte) := none
  /-- SEQ of the last link management message sent -/
  lmSeq : Nat := 0
  /-- DONE messages sent in this CONFIG -/
  dones : Nat := 0
  /-- markers of SP that agreed with the mirrored lane's, and the count of the last (R60) -/
  mirrorAgree : Nat := 0
  mirrorCount : Option Nat := none
  /-- lanes that have answered DONE, or brought the entry ordered set, since it was asked for -/
  acked : List Nat := []
  /-- four agreeing markers are counted here (R51) -/
  agree : Nat := 0
  /-- failed alignments in a row (R47, R51) -/
  deskewFails : Nat := 0
  /-- the LOCK in progress is an exit from Slack: no sweep follows (R63) -/
  relock : Bool := false
  /-- a low-power entry asked for and not complete: 1 Ebb, 2 Slack -/
  lpAsked : Option Nat := none
  /-- an exit waits for the entry to complete (R65) -/
  lpExit : Bool := false
  spHolder : Option SpHold := none
  spWait : List SpHold := []
  /-- the lane being mirrored, and whether its logical lane is taken from SP (R60) -/
  mirror : Option (Nat × Bool) := none
  /-- the outstanding back-channel command first, then those that wait (R86) -/
  bc : List BcCmd := []
  /-- tag of the last new back-channel command -/
  bcTag : Nat := 0
  /-- virtual channels that passed the checks of discovery -/
  passed : List Nat := []
  /-- the setting of the trigger count shall also set E of the port's contexts (R110) -/
  resync : Bool := false
  /-- the last good vendor payload (R85) -/
  vendor : List Byte := []
  vcs : Tbl VcRx := []
deriving DecidableEq, Repr

/-- The camera ports beside their registers. -/
structure CamUnit where
  ports : Tbl CamPort := []
deriving DecidableEq, Repr

/-- An entry of an intake ring: its slot, the header fields known at its reservation, and, once complete, the TB2 nanosecond
of its completion (R105, R112). -/
structure RingEntry where
  slot : Nat
  count : Nat
  pos : Int
  time : Stamp
  /-- entries dropped just before this one (R107) -/
  drops : Nat
  closeT : Option Nat := none
  /-- the first entry after the context was enabled or came back from the conditions of R111 (R138, R154) -/
  fresh : Bool := false
deriving DecidableEq, Repr

/-- A context's intake beside its registers. -/
structure CtxRx where
  /-- E, the trigger count expected next; none until the first match after the port returns (R108, R111) -/
  e : Option Nat := none
  /-- ORPHAN line starts in a row (R110) -/
  orphans : Nat := 0
  /-- the slot to be reserved next -/
  head : Nat := 0
  /-- entries reserved or unprocessed, oldest first -/
  entries : List RingEntry := []
  /-- entries dropped since the previous entry written (R107) -/
  dropped : Nat := 0
  /-- counts whose placeholder came from LINE_WAIT and whose line start has not come (R109) -/
  late : List Nat := []
  /-- expiries of FLUSH_T whose partial stripe the strand has not finished, oldest first: the completion point and the slot of
  the last entry that was present (R114) -/
  flushes : List (Nat × Nat) := []
  /-- the next entry is the first after the context was enabled or came back (R138, R154) -/
  fresh : Bool := true
  /-- the cause of a commit that a task requested (R288) -/
  commitCause : Option Cause := none
deriving DecidableEq, Repr

/-- An input line of the resampler (R147): stamp, TB0 time in 2^-16 ns, LINE_FLAGS, samples. HELD is bit 0 of the flags. -/
structure RsLine where
  s : Int
  t : Int
  flags : Nat
  xs : List Nat
deriving DecidableEq, Repr

/-- The state of a column of the baseline tracker (R135, R140). -/
structure TrkCol where
  b : Nat := 0
  hold : Nat := 0
  run : Nat := 0
  uninit : Bool := true
deriving DecidableEq, Repr

/-- A decimation group being collected (R148): its lines' number, and the sums of their stamps, times and samples, and their flags. -/
structure RsGroup where
  n : Nat := 0
  s : Int := 0
  t : Int := 0
  flags : Nat := 0
  xs : List Nat := []
deriving DecidableEq, Repr

/-- A context's state in its strand (R138, R140, R147 to R157). Between stripes the tracker's columns, and the samples, s_max and last
k of the resampler, lie in DRAM: what stands here for them is the working copy of a stripe in process. -/
structure CtxStr where
  /-- a restart acts on the next entry -/
  restart : Bool := true
  /-- trigger count of the last entry -/
  lastCount : Option Nat := none
  /-- samples and flags of the most recent real input line since the restart -/
  real : Option (List Nat × Nat) := none
  /-- held lines waiting for the first real line, with their trigger counts -/
  waiting : List (Nat × RsLine) := []
  /-- the decimation group being collected; none before the first group boundary after a restart -/
  group : Option RsGroup := none
  /-- decimated lines since the restart, oldest first, at most eight -/
  win : List RsLine := []
  /-- s_max, and the last grid index emitted -/
  sMax : Option Int := none
  lastK : Option Int := none
  /-- bypass: the last line emitted since the restart and its index -/
  prev : Option (Int × RsLine) := none
  /-- the tracker's columns, by output column -/
  cols : Tbl TrkCol := []
  /-- the cause of an acquire that a task requested (R288) -/
  acqCause : Option Cause := none
deriving DecidableEq, Repr

/-- A stripe that waits for its strand, or is in process there: context, number of entries, completion point. -/
structure StripeNow where
  ctx : Nat
  n : Nat
  /-- how many entries of the ring stand before its first one (R113) -/
  skip : Nat := 0
  doneAt : Nat
  /-- a partial stripe, taken after FLUSH_T (R114) -/
  isPart : Bool := false
  /-- a read of the context's state at the stripe's start met an error: of the tracker's, of the resampler's (R142, R157) -/
  trkErr : Bool := false
  rsErr : Bool := false
deriving DecidableEq, Repr

/-- An output line of a context (R146): its grid index and position g(k), TB0 time in 2^-16 ns, LINE_FLAGS of Table 8-3, its samples
from CORR_OUT_COL0 on, none for NOCOV, the BL_LEVEL that a column so marked carries (R134), and whether it comes from a flushed partial
stripe (R172). -/
structure OutLine where
  k : Int
  pos : Int
  level : Nat := 0
  time : Int
  flags : Nat
  col0 : Nat
  vals : List (Option Nat)
  flush : Bool := false
deriving DecidableEq, Repr

/-- The intake and the strands beside their registers. -/
structure StrUnit where
  ctxs : Tbl CtxRx := []
  now : Tbl (Option StripeNow) := []
  /-- output lines that the Seam unit has not yet accepted, by context, oldest first -/
  outs : Tbl (List OutLine) := []
  strs : Tbl CtxStr := []
  /-- lengths in bytes of the correction tables loaded, by context, bank and identifier: 16 × context + 8 × bank + identifier; none:
  neutral content (R141) -/
  tables : Tbl (Option Nat) := []
  /-- where the loader placed what a context keeps in DRAM: its tables by the same key, the tracker's state at identifier 0 of bank 0,
  the resampler's at that of bank 1 (R117, R140, R157, R368) -/
  places : Tbl Nat := []
deriving DecidableEq, Repr

/-- Shaft beside its registers: the free pool, retired queues, and the delivery rings' elements. -/
structure ShfUnit where
  /-- elements from here on have never been used since boot; those given back stand in `freed`, oldest first -/
  fresh : Nat := 0
  freed : List Nat := []
  /-- how many tracks are open: what SHF_OPEN_PEAK takes the highest of (R242) -/
  openNow : Nat := 0
  /-- queues retired by a memory error (R241) -/
  retired : List Nat := []
  /-- the elements of each delivery ring, oldest first -/
  rings : Tbl (List Nat) := []
  /-- the ring of every copy placed and not delivered, in placement order (R349, R337) -/
  placed : List Nat := []
  /-- rings that dropped or skipped a copy since they last placed one (R237) -/
  loss : Tbl Bool := []
  /-- copies that each ring dropped or skipped since boot (Table 11-2) -/
  lost : Tbl Nat := []
deriving DecidableEq, Repr

/-- The accumulators of a fragment or a track (Table 9-2): exact, with SJ, SJJ and SJC taken from J0. No pixel: `a` is 0. -/
structure Accum where
  a : Nat := 0
  seeds : Nat := 0
  j0 : Int := 0
  j1 : Int := 0
  c0 : Nat := 0
  c1 : Nat := 0
  sj : Nat := 0
  sc : Nat := 0
  sjj : Nat := 0
  scc : Nat := 0
  sjc : Nat := 0
  sd : Nat := 0
  sv : Nat := 0
  svv : Nat := 0
  vmin : Nat := 0
  vmax : Nat := 0
  dpeak : Nat := 0
  ps : Nat := 0
  lf : Nat := 0
  adj : Nat := 0
deriving DecidableEq, Repr

/-- A run of pixels along an edge: first and last column, or line. -/
structure EdgeRun where
  lo : Nat
  hi : Nat
deriving DecidableEq, Repr

/-- A fragment (R186): polarity (bright when set), accumulators, the lowest column on its first line, and its edge runs on
the unit's first and last line and the band's first and last column. -/
structure Fragment where
  bright : Bool
  acc : Accum
  fc : Nat
  band : Nat
  top : List EdgeRun := []
  bot : List EdgeRun := []
  left : List EdgeRun := []
  right : List EdgeRun := []
deriving DecidableEq, Repr

/-- A labelling unit as the Seam unit hands it over, for every band at once: stripe, first row and rows, the masked columns of
its own emission, background areas (row, first and last column, R173), LINE_FLAGS of its rows, the instant of the hand-over,
the settings it is labelled with, and what each band has found. -/
structure LodeItem where
  k : Int
  row : Nat
  n : Nat
  exts : List EdgeRun
  bg : List (Nat × EdgeRun) := []
  flags : List Nat
  at_ : Nat
  set : List Word
  /-- fragments of the bands that have labelled it -/
  done : Tbl (Option (List Fragment)) := []
  /-- bands in whose unit a tile read failed (R194), pixels were dropped (R187) -/
  memErr : List Nat := []
  ovf : List Nat := []
deriving DecidableEq, Repr

/-- An open track (R225): queue, summary element and fragment elements in Shaft, and its summary. -/
structure Track where
  q : Nat
  mos : Nat
  openT : Nat
  id : Nat
  piece : Nat := 0
  bright : Bool
  summ : Nat
  elems : List Nat := []
  acc : Accum := {}
  /-- edge sides of R188 step 4 -/
  sides : Nat := 0
  frags : Nat := 0
  memErr : Bool := false
  ovf : Bool := false
  /-- marked for force-close (R226) -/
  marked : Bool := false
deriving DecidableEq, Repr

/-- A lower-edge run of the last settled unit and the queue of the track it belongs to; `own` unset when the run was inherited through a
cut, so that its pixels belong to the earlier piece (R191). -/
structure LowRun where
  q : Nat
  bright : Bool
  run : EdgeRun
  own : Bool := true
deriving DecidableEq, Repr

/-- A mosaic's segmentation beside its registers. -/
structure LodeMos where
  /-- units handed over and not settled, oldest first -/
  items : List LodeItem := []
  lower : List LowRun := []
  /-- TB2 of the last hand-over; none before the first, or after STILL_CLOSE took effect (R192) -/
  lastHand : Option Nat := none
  /-- stripes up to this one are released (R194) -/
  released : Option Int := none
  /-- the cause of a commit that a task requested (R288) -/
  commitCause : Option Cause := none
  /-- the settings of the last unit settled, those by which tracks are judged; none before the first (R198) -/
  judged : List Word := []
deriving DecidableEq, Repr

/-- Lode beside its registers: the mosaics, and every open track. -/
structure LodUnit where
  mos : Tbl LodeMos := []
  tracks : List Track := []
  /-- the mosaic that is settling, during a settlement (R227) -/
  settling : Option Nat := none
deriving DecidableEq, Repr

/-- A patch job (R201): its element and summary element in Shaft, queue time, and the MD and CD positions of its record. -/
structure AsyJob where
  elem : Nat
  summ : Nat
  queueT : Nat
  md : Int
  cd : Int
  id : Nat
  piece : Nat
  /-- PAD_WAIT has passed before it was ready (R203) -/
  padded : Bool := false
deriving DecidableEq, Repr

/-- A loaded network: its blob, and where its parameters lie in weight SRAM (R207). -/
structure AsyNet where
  blob : List Byte
  sram : Nat
deriving DecidableEq, Repr

/-- What the network answers for a patch (R212): the class code returned, the confidence, and the index of the greatest
logit. -/
structure AsyAnswer where
  cls : Nat
  conf : Nat
  top : Nat
deriving DecidableEq, Repr

/-- The job being run: mosaic, job, network slot, the mosaic, first line and first column of each field, the patch, and the
answer that RESULT will write. `late` once its deadline has expired (R214). -/
structure AsyRun where
  mos : Nat
  job : AsyJob
  slot : Nat
  fields : List (Nat × Int × Int)
  patch : List (List Nat)
  answer : AsyAnswer
  late : Bool := false
  /-- NSIZE of the network taken, and KEEP, KEEP_UNC and KEEP_MASK as they were when the job was taken (R218, R219) -/
  nsize : Nat := 0
  keep : Nat := 0
  keepUnc : Bool := false
  mask : Nat := 0
  /-- its job element read in error (R241) -/
  memErr : Bool := false
deriving DecidableEq, Repr

/-- Assay beside its registers. -/
structure AsyUnit where
  nets : Tbl (Option AsyNet) := []
  /-- the patch job queues of the mosaics, oldest first -/
  jobs : Tbl (List AsyJob) := []
  run : Option AsyRun := none
  /-- the patch store: the slot written next, and the generation of each slot once it has been used (R218) -/
  pbNext : Nat := 0
  pbGen : Tbl (Option Nat) := []
  /-- where the loader placed the copies of the blobs, 8 MB for each slot (R217, R368) -/
  place : Nat := 0
deriving DecidableEq, Repr

/-- A stripe that a live member has delivered and that is not yet wholly emitted (R165, R166). -/
structure SeamPend where
  k : Int
  /-- contexts that have delivered it -/
  dlv : List Nat := []
  /-- TB2 time at which its wait timer started; it has expired; the contexts timed out then -/
  timer : Option Nat := none
  expired : Bool := false
  out : List Nat := []
deriving DecidableEq, Repr

/-- What was masked in an emission of a stripe: columns and rows. -/
structure SeamMasked where
  cols : EdgeRun
  rows : EdgeRun
deriving DecidableEq, Repr

/-- A stripe in history beside its directory entry: rows written so far and what was masked. -/
structure SeamStripe where
  k : Int
  first : Nat
  /-- the row after the last one written -/
  next : Nat
  masked : List SeamMasked
  /-- LINE_FLAGS of rows 0 to 63 -/
  flags : List Nat
  mdFirst : Int
  tFirst : Int
  mdLast : Int
  tLast : Int
  seq : Nat
  /-- FLAGS and EXTENTS of the entry: columns, cause, LATE_FILLED -/
  dirFlags : Nat
  exts : List (EdgeRun × Nat × Bool)
deriving DecidableEq, Repr

/-- A mosaic in the Seam unit beside its registers. -/
structure SeamMos where
  /-- accepted output lines that no emission has used, by context, oldest first -/
  acc : Tbl (List OutLine) := []
  pend : List SeamPend := []
  /-- the last stripe emitted whole or passed over; none before the first -/
  last : Option Int := none
  /-- the stripes of history slots, newest first -/
  hist : List SeamStripe := []
  /-- stripes masked in a row, by context (R168) -/
  runs : Tbl Nat := []
  /-- emissions so far -/
  seq : Nat := 0
  /-- writes wait for a history slot (R178): the stripe counted -/
  stall : Option Int := none
  /-- the stamps seen in the history of member 0's TRIG output since the web last stood at or below the next stripe, newest first:
  position and TB0 time (R171) -/
  stamps : List (Int × Int) := []
  /-- no stripe emitted since boot and every member blind: the grid line at which the first begins (R171) -/
  blindAt : Option Int := none
  /-- inspection is paused for an activation: no stripe is emitted (R449) -/
  paused : Bool := false
deriving DecidableEq, Repr

/-- The Seam unit beside its registers. -/
structure SeaUnit where
  mos : Tbl SeamMos := []
deriving DecidableEq, Repr

/-- A closed record stream datagram: its ring, the elements it carries and their 128-byte records (R336). -/
structure NetFrame where
  ring : Nat
  elems : List Nat
  recs : List (List Byte)
deriving DecidableEq, Repr

/-- The datagram that a port fills: its ring, the elements taken, the TB2 at which the first was taken, and whether it is closed and
waits for room in the transmit FIFO (R337). -/
structure NetOpen where
  ring : Nat
  elems : List Nat
  t : Nat
  due : Bool := false
deriving DecidableEq, Repr

/-- A network port beside its registers. -/
structure NetPort where
  /-- the datagram that takes records -/
  cur : Option NetOpen := none
  /-- closed datagrams that have not left, oldest first, the one in progress included: at most four (R329) -/
  fifo : List NetFrame := []
  /-- datagrams sent since boot (FRAME_SEQ) -/
  sent : Nat := 0
  /-- frames sent, received, and received with a wrong FCS in the self-test cycle in progress (Table 15-5) -/
  cycTx : Nat := 0
  cycRx : Nat := 0
  cycFcs : Nat := 0
  /-- TB2 at the start of that cycle (R333) -/
  cycAt : Nat := 0
  /-- the link was down at some time of the cycle (Table 15-4) -/
  cycDown : Bool := false
  /-- the cycle's PROBE: its NONCE and the TB2 of its EOP; then the round trip, once echoed -/
  probe : Option (Nat × Nat) := none
  rtt : Option Nat := none
  /-- the last grant accepted on this port: source MAC, GRANT_SEQ, ARB_ID, GRANTED_PORT (R334, R335) -/
  grant : Option (Nat × Nat × Nat × Nat) := none
  /-- BODY of the last PORT_HEALTH record (R341) -/
  health : List Byte := []
  /-- TB2 of the status requests answered within the last second, newest first (R338) -/
  answers : List Nat := []
deriving DecidableEq, Repr

/-- The network beside its registers. -/
structure NetUnit where
  ports : Tbl NetPort := []
  /-- a grant has been accepted, so that NET_GRANT_SEQ is one (R327) -/
  granted : Bool := false
  /-- GRANT_LOST stands (R328) -/
  lost : Bool := false
  /-- the switchover in progress: the new port and the TB2 of its arrival point (R329) -/
  switch : Option (Nat × Nat) := none
  /-- the port of the last grant held during a switchover (R331) -/
  held : Option Nat := none
  /-- an ARB_SEL level has counted (R326) -/
  selSeen : Bool := false
  /-- TB2 at which GRANT_OK was last refreshed (R328) -/
  since : Nat := 0
  /-- TB2 of the arrival point of the last switchover: the dual-transmit window starts there (R330) -/
  dual : Nat := 0
  /-- the NONCEs sent so far (R334) -/
  nonces : List Nat := []
deriving DecidableEq, Repr

/-- A Sluice job on a lane: its descriptor, whether SLU_RUN submitted it, its ring index and descriptor address, whether the
descriptor read in error, and whether its ring has been set up anew meanwhile (R396). -/
structure SluJob where
  desc : List Byte
  mailbox : Bool
  /-- the number of that SLU_RUN at the mailbox -/
  id : Nat := 0
  index : Nat := 0
  addr : Nat := 0
  memErr : Bool := false
  stale : Bool := false
deriving DecidableEq, Repr

/-- Sluice beside its registers. -/
structure SluUnit where
  lanes : Tbl (Option SluJob) := []
  /-- the SLU_RUNs that wait for a lane, oldest first: number at the mailbox, and descriptor -/
  runs : List (Nat × List Byte) := []
  /-- the ring latched by SLU_EN: address and descriptors; free-running index of the next job to take -/
  base : Nat := 0
  slots : Nat := 256
  taken : Nat := 0
  /-- jobs from SLU_JOB_RD on that are DONE -/
  ended : List Nat := []
  /-- bytes read and written that do not make a KB yet -/
  inRem : Nat := 0
  outRem : Nat := 0
deriving DecidableEq, Repr

/-- A sag save in progress: the journal slot it writes, none when it writes no record (R473), the record's bytes without V_END,
SAVE_US and CRC, and the TB2 nanoseconds at detection. -/
structure SagSave where
  slot : Option Nat
  record : List Byte
deriving DecidableEq, Repr

/-- What a reset inside the running device leaves in Cove memory of an update: stage, whether the commit was written, and an
outcome already known (R454, R455, R459). -/
structure UpdMark where
  stage : Nat
  committed : Bool
  cold : Bool := false
  outcome : Nat := 0
deriving DecidableEq, Repr

/-- The Cove domain beside its registers (R464): it lives through every reset but RESET_N low and the loss of VCOVE. -/
structure CoveUnit where
  /-- a save runs -/
  save : Option SagSave := none
  /-- the device is in SAG_HOLD (R470) -/
  hold : Bool := false
  /-- RESET_N fell during a save; the save completes first (R474) -/
  resetWaits : Bool := false
  /-- it rose again during that save: what the boot then meets in the flash -/
  released : Option BootFlash := none
  /-- bytes 216 to 975 of the sag record as last refreshed (R469), and TB2 then -/
  staging : List Byte := []
  stagedAt : Option Nat := none
  /-- journal halves whose erase is in progress, in order (R472, R477) -/
  erasing : List Nat := []
  /-- the flash answers: VIO_XSPI as sensed at RESET_N release (R497) -/
  flashUp : Bool := true
  /-- what the last reset met of an update -/
  upd : Option UpdMark := none
  /-- partitions of a BIST that is running: the mask, and how far it has come: 0 taken, 1 partitions run -/
  bist : Option (Nat × Nat) := none
  /-- results in Cove memory wait for INSP_READY to be reported (R488) -/
  bistDone : Bool := false
deriving DecidableEq, Repr

/-- Who holds the update session (R442): the host, or a network requester with its address, port and SESSION_ID. -/
structure Holder where
  net : Bool
  ip : Nat := 0
  udp : Nat := 0
  sid : Nat := 0
deriving DecidableEq, Repr

/-- A challenge of the network update protocol (R457): SESSION_ID, nonce, the requester, and TB2 at its issue. -/
structure Challenge where
  sid : Nat
  nonce : List Byte
  ip : Nat
  udp : Nat
  at_ : Nat
deriving DecidableEq, Repr

/-- An activation (R447 to R451): mode, whether the activation record is written, and whether the ports still discard every
line; TB0 at the start of the pause and the MD position of each mosaic's first grid line in it. -/
structure Activation where
  cold : Bool
  committed : Bool := false
  discard : Bool := true
  stamp : Stamp
  starts : Tbl (Option Int) := []
  /-- FAULT_CAUSE + 1 of the ports that were in FAULT before it -/
  faults : Tbl Nat := []
deriving DecidableEq, Repr

/-- A trial (R452 to R454): TB2 at its start, the slot to fall back to, and the FAULT causes before the activation, plus 1. -/
structure Trial where
  start : Nat
  prev : Nat
  faults : Tbl Nat := []
deriving DecidableEq, Repr

/-- Security and update beside its registers. -/
structure SecUnit where
  /-- the nonce of SEC_SESSION_OPEN that no SEC_SESSION_AUTH has used (R435) -/
  nonce : Option (List Byte) := none
  /-- the nonce the open session was opened with (R436) -/
  session : Option (List Byte) := none
  /-- challenges held, oldest first, at most four -/
  challenges : List Challenge := []
  /-- the last SESSION_ID given -/
  lastSid : Nat := 0
  holder : Option Holder := none
  /-- TB2 of the holder's last request (R443) -/
  lastReq : Nat := 0
  /-- bytes 0 to 4,095 of the image being received, in SRAM (R445) -/
  head : Tbl Byte := []
  /-- ranges received in the session, first and end, ascending and apart (R445) -/
  received : List (Nat × Nat) := []
  /-- 64 KB sectors of the slot that the session has erased -/
  erased : List Nat := []
  /-- the last verify result of a network holder: status (R456) -/
  verified : Nat := 0
  activation : Option Activation := none
  trial : Option Trial := none
  /-- the nonce of the last UNLOCK_CHAL (R493) -/
  unlockNonce : Option (List Byte) := none
  /-- failed unlocks since reset, and whether the last unlock failed -/
  unlockFails : Nat := 0
  unlockFailed : Bool := false
deriving DecidableEq, Repr

/-- Calibration beside its registers (R478 to R486). -/
structure CalUnit where
  /-- items running, by item number -/
  running : List Nat := []
  /-- items dropped or abandoned, requested again when their port reaches ACTIVE (R479, R483) -/
  again : List Nat := []
  /-- an item has changed a setting since the last store write (R485) -/
  changed : Bool := false
  /-- the store write of R485 is in progress -/
  writing : Bool := false
deriving DecidableEq, Repr

/-- The reference rate of a region whose fuse is not listed, in ring counts per ms (R23; DESIGN CHOICE, assumption 25). -/
def paceRefInit (_ : Nat) : Nat := 1000000

/-- The fuses: set at manufacture, and burned one way (R429, R431, R437, R439, R440, R489). The values a part leaves
manufacture with are its own: at reset all are unburned and DEVICE_ID is 0 (DESIGN CHOICE, assumption 25). -/
structure Fuses where
  /-- DEVICE_ID, u48 -/
  deviceId : Nat := 0
  /-- anti-rollback bits burned, 0 to 64 (R440) -/
  arb : Nat := 0
  /-- revocation bits of VK0 to VK3 (R429) -/
  revoked : BitVec 4 := 0
  /-- the SHA-384 burned into each owner slot (R429, R436) -/
  owners : Tbl (Option (List Byte)) := []
  /-- retire bits of the owner slots (R437) -/
  retired : BitVec 4 := 0
  /-- debug-lock bits of the owner slots (R439) -/
  debugLock : BitVec 4 := 0
  /-- expected BIST signatures by partition (R489) -/
  bistSig : Tbl Nat := []
  /-- reference rate of each fabric region's pace monitor at the worst corner, in ring counts per ms (R23): unlisted 1,000,000 -/
  paceRef : Tbl Nat := []
  /-- latencies of the network ports in ps, by 8 × port + 4 × RATE + 2 × FEC, plus 1 for the receiver (R308): unlisted 0 -/
  netLat : Tbl Nat := []
deriving DecidableEq, Repr

/-- The non-volatile memories: the configuration flash, 128 MB by offset (Table 20-1), and the fuses. An unlisted byte of flash
is erased. -/
structure NonVol where
  flash : Tbl Byte := []
  fuses : Fuses := {}
deriving DecidableEq, Repr

/-- The device but for its non-volatile memories and its queue. -/
structure Dev where
  /-- which part it is: fixed at manufacture -/
  variant : Variant := .cg7240
  /-- the register file: every register of Table 20-9, by BAR0 address; unlisted registers hold their reset value -/
  regs : Tbl Word := []
  /-- the second copy of registers that have one: active banks, applied words (R117, R198, R219, R265, R290, R303) -/
  active : Tbl Word := []
  /-- _HI words written and waiting for their _LO (R7) -/
  heldHi : Tbl (Option Word) := []
  /-- _HI words latched by a read of their _LO (R7) -/
  latch : Tbl (Option Word) := []
  glb : GlbUnit := {}
  hif : HifUnit := {}
  rnl : RnlUnit := {}
  tim : TimUnit := {}
  tdl : TdlUnit := {}
  mem : MemUnit := {}
  cfg : CfgUnit := {}
  pins : PinsUnit := {}
  cam : CamUnit := {}
  str : StrUnit := {}
  shf : ShfUnit := {}
  lode : LodUnit := {}
  asy : AsyUnit := {}
  seam : SeaUnit := {}
  net : NetUnit := {}
  slu : SluUnit := {}
  cove : CoveUnit := {}
  sec : SecUnit := {}
  cal : CalUnit := {}
deriving DecidableEq, Repr

/-- The state of the block: the device, its non-volatile memories, and the commands that wait, first in first out. -/
structure State where
  dev : Dev
  nv : NonVol
  pending : List Instr
deriving DecidableEq, Repr

/-- The machine right after reset: every register at its table's reset value, nothing queued. The part is a CG-7240
(DESIGN CHOICE, assumption 1). -/
def State.reset : State := { dev := {}, nv := {}, pending := [] }

end Sys2Proof.Machine
end

