-- ==== Sys2Proof/Machine/Ops.lean ====
section
/-! DEFINITION. The named operations over the device that every meaning shares: reading and writing registers and their
fields, saturating counters, sticky event bits, interrupts, outputs, the log, free values, and time. -/

namespace Sys2Proof.Machine

/-- The result of a command. -/
abbrev Res := Host.Outcome State Fault Refusal

/-- The device takes nothing in: it is held in reset by RESET_N (R501), or a sag save has gated it off (R470, R474). -/
def Dev.off (d : Dev) : Bool := d.glb.held || d.cove.save.isSome || d.cove.hold

/-- A command whose effect lies in the device alone: fuses, flash and queue stay as they are. -/
def onDev (f : Dev → Dev) (s : State) : Res :=
  .next { s with dev := if s.dev.off then s.dev else f s.dev }

/-- A command that may also write the non-volatile memories: the queue stays as it is. -/
def onNv (f : Dev → NonVol → Dev × NonVol) (s : State) : Res :=
  let r := if s.dev.off then (s.dev, s.nv) else f s.dev s.nv
  .next { s with dev := r.1, nv := r.2 }

/-- A command that reaches the pins, the supplies or the Cove domain, whether or not the device is gated off. -/
def onPin (f : Dev → NonVol → Dev × NonVol) (s : State) : Res :=
  let r := f s.dev s.nv
  .next { s with dev := r.1, nv := r.2 }

/-! ### Registers and fields -/

/-- A field of a register: address, lowest bit, width. -/
structure Fld where
  addr : Nat
  lo : Nat
  w : Nat
deriving DecidableEq, Repr

/-- The word of a register. -/
def Dev.reg (d : Dev) (a : Nat) : Word := tget resetWord d.regs a

/-- Write a whole register word. -/
def Dev.setReg (d : Dev) (a : Nat) (v : Word) : Dev := { d with regs := tset resetWord d.regs a v }

/-- A field of a word. -/
def getBits (x : Word) (lo w : Nat) : Nat := x.toNat / 2 ^ lo % 2 ^ w

/-- A word with one field replaced. -/
def putBits (x : Word) (lo w v : Nat) : Word :=
  let m := BitVec.ofNat 32 ((2 ^ w - 1) * 2 ^ lo)
  (x &&& ~~~m) ||| (BitVec.ofNat 32 (v * 2 ^ lo) &&& m)

/-- The value of a field. -/
def Dev.fld (d : Dev) (f : Fld) : Nat := getBits (d.reg f.addr) f.lo f.w

/-- A field as a flag. -/
def Dev.bit (d : Dev) (f : Fld) : Bool := d.fld f != 0

/-- Write a field. -/
def Dev.put (d : Dev) (f : Fld) (v : Nat) : Dev := d.setReg f.addr (putBits (d.reg f.addr) f.lo f.w v)

/-- Write a one-bit field. -/
def Dev.putBit (d : Dev) (f : Fld) (b : Bool) : Dev := d.put f (if b then 1 else 0)

/-- A register's second copy (active bank, applied word). -/
def Dev.act (d : Dev) (a : Nat) : Word := tget resetWord d.active a

/-- Write a register's second copy. -/
def Dev.setAct (d : Dev) (a : Nat) (v : Word) : Dev := { d with active := tset resetWord d.active a v }

/-- A field of a second copy. -/
def Dev.actFld (d : Dev) (f : Fld) : Nat := getBits (d.act f.addr) f.lo f.w

/-- Copy registers to their second copies. -/
def Dev.applyRegs (d : Dev) : List Nat → Dev
  | [] => d
  | a :: as => (d.setAct a (d.reg a)).applyRegs as

/-- Add to a counter field, which saturates at the field's maximum. -/
def Dev.bumpBy (d : Dev) (f : Fld) (n : Nat) : Dev := d.put f (min (2 ^ f.w - 1) (d.fld f + n))

/-- Count one. -/
def Dev.bump (d : Dev) (f : Fld) : Dev := d.bumpBy f 1

/-- Keep the greatest value seen. -/
def Dev.keepMax (d : Dev) (f : Fld) (v : Nat) : Dev :=
  d.put f (max (d.fld f) (min (2 ^ f.w - 1) v))

/-- A value split over a _LO register and the _HI register after it (R7). -/
def Dev.reg64 (d : Dev) (lo : Nat) : Nat := (d.reg lo).toNat + (d.reg (lo + 4)).toNat * 2 ^ 32

/-- The same, signed. -/
def Dev.sreg64 (d : Dev) (lo : Nat) : Int := toSigned 64 (d.reg64 lo)

/-- Write a value split over two registers. -/
def Dev.setReg64 (d : Dev) (lo : Nat) (v : Nat) : Dev :=
  (d.setReg lo (BitVec.ofNat 32 v)).setReg (lo + 4) (BitVec.ofNat 32 (v / 2 ^ 32))

/-- The same, signed. -/
def Dev.setSreg64 (d : Dev) (lo : Nat) (v : Int) : Dev := d.setReg64 lo (ofSigned 64 v)

/-- The second copies of a split value. -/
def Dev.act64 (d : Dev) (lo : Nat) : Nat := (d.act lo).toNat + (d.act (lo + 4)).toNat * 2 ^ 32

/-! ### Variants (R1, R2) -/

/-- Device number of the variant (R343, Table 20-10). -/
def Variant.device : Variant → Nat
  | .cg7240 => 0x7240 | .cg7230 => 0x7230 | .cg7220 => 0x7220 | .cg7210 => 0x7210

/-- Camera ports (Table 0-1). -/
def Variant.ports : Variant → Nat
  | .cg7240 => 16 | .cg7230 => 12 | .cg7220 => 8 | .cg7210 => 4

/-- Usable contexts (Table 0-1). -/
def Variant.contexts : Variant → Nat
  | .cg7210 => 16 | _ => 32

/-- Two DRAM stacks, mirrored critical tables (Table 0-1, R4). -/
def Variant.dual : Variant → Bool
  | .cg7240 => true | .cg7230 => true | _ => false

/-- DRAM bytes (Table 0-1). -/
def Variant.dramBytes (v : Variant) : Nat := if v.dual then 0x2000000000 else 0x1000000000

/-- Assay is present (Table 0-1). -/
def Variant.assay : Variant → Bool
  | .cg7210 => false | _ => true

/-- Network ports (Table 0-1). -/
def Variant.netPorts : Variant → Nat
  | .cg7210 => 1 | _ => 2

/-- The bit of the variant in a variant mask (Table 20-4). -/
def Variant.maskBit : Variant → Nat
  | .cg7240 => 0 | .cg7230 => 1 | .cg7220 => 2 | .cg7210 => 3

/-- Does the variant have the unit or port that a register belongs to (R2)? -/
def present (v : Variant) (a : Nat) : Bool :=
  if 0x100000 ≤ a ∧ a < 0x200000 then decide ((a - 0x100000) / 0x10000 < v.ports)
  else if 0x210000 ≤ a ∧ a < 0x230000 then decide ((a - 0x210000) / 0x1000 < v.contexts)
  else if 0x500000 ≤ a ∧ a < 0x600000 then v.assay
  else if 0xA02000 ≤ a ∧ a < 0xA03000 ∨ 0x9000B0 ≤ a ∧ a < 0x9000C0 then decide (1 < v.netPorts)
  else if 0xC00140 ≤ a ∧ a < 0xC00180 then v.dual
  else if 0xC00240 ≤ a ∧ a < 0xC00280 then v.dual
  else true

/-! ### Outputs, interrupts, free values -/

/-- Something leaves the block, unless boundary scan has taken its pin (R491). -/
def Dev.emit (d : Dev) (o : Out) : Dev :=
  if o.byPin && d.pins.boundary != 0 then d else { d with glb := { d.glb with out := o :: d.glb.out } }

/-- The entry of a vector in the MSI-X table. -/
def msixInit (_ : Nat) : MsixEntry := {}
def Dev.msixEntry (d : Dev) (v : Nat) : MsixEntry := tget msixInit d.hif.msix v

/-- Request an MSI-X vector (R343, R353): while its entry is masked the request stands in the pending bit array. -/
def Dev.irq (d : Dev) (v : Nat) : Dev :=
  let d := d.emit (.msix v)
  if (d.msixEntry v).masked then { d with hif := { d.hif with pending := d.hif.pending ||| BitVec.ofNat 64 (2 ^ v) } } else d

/-- Draw a free value: something the spec leaves open after which the machine goes on. -/
def Dev.drawNat (d : Dev) : Nat × Dev :=
  (Config.freeValue d.glb.free, { d with glb := { d.glb with free := d.glb.free + 1 } })

/-- `n` fresh bytes that nothing constrains: a nonce, a signature by a key the device holds, data that a read has lost. -/
def Dev.freshBytes (d : Dev) (n : Nat) : List Byte × Dev :=
  let r := d.drawNat
  (leBytes n r.1, r.2)

/-- A quotient that the spec gives to a whole-number field without a rounding: the exact value, or else one of the two whole
numbers next to it, free (assumption 49). -/
def Dev.quotient (d : Dev) (n k : Nat) : Nat × Dev :=
  if n % k = 0 then (n / k, d) else (n / k + (d.drawNat).1 % 2, (d.drawNat).2)

/-- An event register's sticky bit sets; the vector is requested when it newly sets and is enabled (R353). -/
def Dev.sticky (d : Dev) (f : Fld) (vector : Nat) (enabled : Bool) : Dev :=
  if d.bit f then d else
    let d := d.put f 1
    if enabled then d.irq vector else d

/-! ### Time -/

/-- The linear count of a base, ns (R301). -/
def TimeBase.linear (t : TimeBase) : Nat := t.sec * 1000000000 + t.ns

/-- A base read as a time stamp: the fraction rounded down (R296). -/
def TimeBase.stamp (t : TimeBase) : Stamp := { sec := t.sec, ns := t.ns, frac := t.frac / 65536 }

/-- The linear count of a stamp in 2^-16 ns. -/
def Stamp.linear16 (s : Stamp) : Int := ((s.sec * 1000000000 + s.ns) * 65536 + s.frac : Nat)

/-- The twelve bytes of a stamp (R296). -/
def Stamp.bytes (s : Stamp) : List Byte := leBytes 6 s.sec ++ leBytes 4 s.ns ++ leBytes 2 s.frac

/-- TB2 now, nanoseconds since reset. -/
def Dev.now2 (d : Dev) : Nat := d.tim.tb2.linear

/-- A base by number. -/
def Dev.base (d : Dev) : Nat → TimeBase
  | 0 => d.tim.tb0 | 1 => d.tim.tb1 | 2 => d.tim.tb2 | _ => d.tim.tb3

/-- TB0 is locked (R298): TIM_STATUS bit 0. -/
def Dev.tb0Locked (d : Dev) : Bool := d.bit ⟨0x900004, 0, 1⟩

/-- A time `t` of TB2 plus a duration has come (R34). -/
def Dev.timeUp (d : Dev) (t ns : Nat) : Bool := decide (t + ns ≤ d.now2)

/-! ### The log -/

/-- Write a log entry (R317, R360): the latest 65,536 are kept. -/
def Dev.logPut (d : Dev) (unit : Nat) (what : LogEvent) (data : List Nat) : Dev :=
  { d with glb := { d.glb with
      log := ({ seq := d.glb.lseq, unit := unit, what := what, t2 := d.now2, t0 := d.tim.tb0.stamp, data := data } ::
        d.glb.log).take 65536
      lseq := (d.glb.lseq + 1) % 2 ^ 32 } }

/-! ### Words and bytes -/

/-- The bytes of a register word, little-endian (R6). -/
def wordBytes (w : Word) : List Byte := leBytes 4 w.toNat

/-- The bytes of argument words. -/
def wordsBytes (ws : List Word) : List Byte := ws.flatMap wordBytes

/-- Bytes as words, the last one filled with zeros. -/
def bytesWords : List Byte → List Word
  | [] => []
  | [a] => [BitVec.ofNat 32 (leNat [a])]
  | [a, b] => [BitVec.ofNat 32 (leNat [a, b])]
  | [a, b, c] => [BitVec.ofNat 32 (leNat [a, b, c])]
  | a :: b :: c :: e :: rest => BitVec.ofNat 32 (leNat [a, b, c, e]) :: bytesWords rest

/-- Two argument words as one 64-bit number. -/
def word64 (lo hi : Word) : Nat := lo.toNat + hi.toNat * 2 ^ 32

/-- Byte `i` of a list, 0 beyond its end. -/
def byteAt (bs : List Byte) (i : Nat) : Nat := (bs.getD i 0).toNat

/-- A little-endian field of a byte list. -/
def fieldAt (bs : List Byte) (i n : Nat) : Nat := leNat ((bs.drop i).take n)

end Sys2Proof.Machine
end

