-- ==== Sys2Proof/Machine/Operands.lean ====
section
/-! DEFINITION. The addresses of the registers, under the manual's names (Table 20-9 and the register tables of the chapters):
`R.TDL_POSn_CFG n` is the BAR0 address of TDL_POSn_CFG. Registers of a port, context, mosaic, strand, engine or unit take its
number first. -/

namespace Sys2Proof.Machine

abbrev R.GLB_ID : Nat := 0x0
abbrev R.GLB_STATUS : Nat := 0x4
abbrev R.GLB_ERR : Nat := 0x8
abbrev R.GLB_PACE_CTRL : Nat := 0x400
abbrev R.GLB_PACE_STATUS : Nat := 0x404
abbrev R.GLB_LOAD_STATUS : Nat := 0x408
abbrev R.GLB_PACE_RGNn (i : Nat) : Nat := 0x410 + 0x4 * i
abbrev R.GLB_LOAD_RGNn (i : Nat) : Nat := 0x440 + 0x4 * i
abbrev R.GLB_XING_STATUS : Nat := 0x470
abbrev R.GLB_XING_DROP : Nat := 0x474
abbrev R.GLB_GPIO_IN : Nat := 0x500
abbrev R.GLB_GPIO_OUT : Nat := 0x504
abbrev R.GLB_PIN_MODE : Nat := 0x508
abbrev R.GLB_PIN_PULL : Nat := 0x50c
abbrev R.GLB_PIN_TERM : Nat := 0x510
abbrev R.CAM_CFG (i : Nat) : Nat := 0x100000 + 0x10000 * i
abbrev R.CAM_CTRL (i : Nat) : Nat := 0x100004 + 0x10000 * i
abbrev R.CAM_STATUS (i : Nat) : Nat := 0x100008 + 0x10000 * i
abbrev R.CAM_EVENT (i : Nat) : Nat := 0x10000c + 0x10000 * i
abbrev R.CAM_LANE_MAP (i : Nat) : Nat := 0x100010 + 0x10000 * i
abbrev R.CAM_RETRAIN_CNT (i : Nat) : Nat := 0x100014 + 0x10000 * i
abbrev R.CAM_DESKEW (i : Nat) : Nat := 0x100018 + 0x10000 * i
abbrev R.CAM_LANEk_EQ (i j : Nat) : Nat := 0x100020 + 0x10000 * i + 0x4 * j
abbrev R.CAM_LANEk_ERR (i j : Nat) : Nat := 0x100040 + 0x10000 * i + 0x4 * j
abbrev R.CAM_LANEk_ERR2 (i j : Nat) : Nat := 0x100060 + 0x10000 * i + 0x4 * j
abbrev R.CAM_PRBS_CTRL (i : Nat) : Nat := 0x100080 + 0x10000 * i
abbrev R.CAM_PRBS_CNTk (i j : Nat) : Nat := 0x100090 + 0x10000 * i + 0x4 * j
abbrev R.CAM_VC_MAP (i : Nat) : Nat := 0x100100 + 0x10000 * i
abbrev R.CAM_VLP_STATUS (i : Nat) : Nat := 0x100104 + 0x10000 * i
abbrev R.CAM_VLP_EVENT (i : Nat) : Nat := 0x100108 + 0x10000 * i
abbrev R.CAM_VCv_LINES (i j : Nat) : Nat := 0x100110 + 0x10000 * i + 0x4 * j
abbrev R.CAM_VCv_CHK (i j : Nat) : Nat := 0x100120 + 0x10000 * i + 0x4 * j
abbrev R.CAM_VCv_ERR (i j : Nat) : Nat := 0x100130 + 0x10000 * i + 0x4 * j
abbrev R.CAM_PKT_ERR (i : Nat) : Nat := 0x100140 + 0x10000 * i
abbrev R.CAM_PKT_ERR2 (i : Nat) : Nat := 0x100144 + 0x10000 * i
abbrev R.CAM_GATE_SKIP (i : Nat) : Nat := 0x100148 + 0x10000 * i
abbrev R.CAM_BC_ERR (i : Nat) : Nat := 0x10014c + 0x10000 * i
abbrev R.CAM_CAMSTATi (i j : Nat) : Nat := 0x100150 + 0x10000 * i + 0x4 * j
abbrev R.CAM_IDENTi (i j : Nat) : Nat := 0x100160 + 0x10000 * i + 0x4 * j
abbrev R.STR_STATUS (i : Nat) : Nat := 0x200000 + 0x1000 * i
abbrev R.STR_STRIPE_CNT (i : Nat) : Nat := 0x200004 + 0x1000 * i
abbrev R.STR_LATE_MAX (i : Nat) : Nat := 0x200008 + 0x1000 * i
abbrev R.STR_LATE_CNT (i : Nat) : Nat := 0x20000c + 0x1000 * i
abbrev R.STR_TS (i : Nat) : Nat := 0x200010 + 0x1000 * i
abbrev R.STR_GROUP_COMMIT : Nat := 0x204000
abbrev R.CTX_CFG (i : Nat) : Nat := 0x210000 + 0x1000 * i
abbrev R.CTX_WIDTH (i : Nat) : Nat := 0x210004 + 0x1000 * i
abbrev R.CTX_RATE (i : Nat) : Nat := 0x210008 + 0x1000 * i
abbrev R.CTX_RING_BASE_LO (i : Nat) : Nat := 0x210010 + 0x1000 * i
abbrev R.CTX_RING_BASE_HI (i : Nat) : Nat := 0x210014 + 0x1000 * i
abbrev R.CTX_RING_LINES (i : Nat) : Nat := 0x210018 + 0x1000 * i
abbrev R.CTX_RING_STRIDE (i : Nat) : Nat := 0x21001c + 0x1000 * i
abbrev R.CTX_RING_FILL (i : Nat) : Nat := 0x210020 + 0x1000 * i
abbrev R.CTX_RING_PEAK (i : Nat) : Nat := 0x210024 + 0x1000 * i
abbrev R.CTX_MATCH_CFG (i : Nat) : Nat := 0x210028 + 0x1000 * i
abbrev R.CTX_LAST_MATCH (i : Nat) : Nat := 0x21002c + 0x1000 * i
abbrev R.CTX_BANK_CTRL (i : Nat) : Nat := 0x210030 + 0x1000 * i
abbrev R.CTX_BANK_STATUS (i : Nat) : Nat := 0x210034 + 0x1000 * i
abbrev R.CTX_EVENT (i : Nat) : Nat := 0x210038 + 0x1000 * i
abbrev R.CTX_LINE_CNT (i : Nat) : Nat := 0x210040 + 0x1000 * i
abbrev R.CTX_OVERRUN_CNT (i : Nat) : Nat := 0x210044 + 0x1000 * i
abbrev R.CTX_ORPHAN_CNT (i : Nat) : Nat := 0x210048 + 0x1000 * i
abbrev R.CTX_MISSED_CNT (i : Nat) : Nat := 0x21004c + 0x1000 * i
abbrev R.CTX_LEN_CNT (i : Nat) : Nat := 0x210050 + 0x1000 * i
abbrev R.CTX_RESYNC_CNT (i : Nat) : Nat := 0x210054 + 0x1000 * i
abbrev R.BL_CTRL (i : Nat) : Nat := 0x210060 + 0x1000 * i
abbrev R.BL_STATUS (i : Nat) : Nat := 0x210064 + 0x1000 * i
abbrev R.CORR_SAT_CNT (i : Nat) : Nat := 0x210068 + 0x1000 * i
abbrev R.CORR_SAT_CNT2 (i : Nat) : Nat := 0x21006c + 0x1000 * i
abbrev R.BL_FRZ_TO_CNT (i : Nat) : Nat := 0x210070 + 0x1000 * i
abbrev R.CORR_MEMERR_CNT (i : Nat) : Nat := 0x210074 + 0x1000 * i
abbrev R.CORR_EVENT (i : Nat) : Nat := 0x210078 + 0x1000 * i
abbrev R.RS_RATIO (i : Nat) : Nat := 0x210080 + 0x1000 * i
abbrev R.RS_LAST_K_LO (i : Nat) : Nat := 0x210084 + 0x1000 * i
abbrev R.RS_LAST_K_HI (i : Nat) : Nat := 0x210088 + 0x1000 * i
abbrev R.RS_HOLD_CNT (i : Nat) : Nat := 0x21008c + 0x1000 * i
abbrev R.RS_DROP_CNT (i : Nat) : Nat := 0x210090 + 0x1000 * i
abbrev R.RS_RATIO_HI_CNT (i : Nat) : Nat := 0x210094 + 0x1000 * i
abbrev R.RS_SAT_CNT (i : Nat) : Nat := 0x210098 + 0x1000 * i
abbrev R.RS_EVENT (i : Nat) : Nat := 0x21009c + 0x1000 * i
abbrev R.CORR_CFG (i : Nat) : Nat := 0x210100 + 0x1000 * i
abbrev R.CORR_OUT_COL0 (i : Nat) : Nat := 0x210104 + 0x1000 * i
abbrev R.CORR_OUT_W (i : Nat) : Nat := 0x210108 + 0x1000 * i
abbrev R.BL_CFG (i : Nat) : Nat := 0x21010c + 0x1000 * i
abbrev R.BL_HOLD (i : Nat) : Nat := 0x210110 + 0x1000 * i
abbrev R.BL_FREEZE_MAX (i : Nat) : Nat := 0x210114 + 0x1000 * i
abbrev R.BL_WIN_START_LO (i : Nat) : Nat := 0x210118 + 0x1000 * i
abbrev R.BL_WIN_START_HI (i : Nat) : Nat := 0x21011c + 0x1000 * i
abbrev R.BL_WIN_END_LO (i : Nat) : Nat := 0x210120 + 0x1000 * i
abbrev R.BL_WIN_END_HI (i : Nat) : Nat := 0x210124 + 0x1000 * i
abbrev R.RS_CFG (i : Nat) : Nat := 0x210140 + 0x1000 * i
abbrev R.RS_GRID_ORG_LO (i : Nat) : Nat := 0x210144 + 0x1000 * i
abbrev R.RS_GRID_ORG_HI (i : Nat) : Nat := 0x210148 + 0x1000 * i
abbrev R.RS_PITCH (i : Nat) : Nat := 0x21014c + 0x1000 * i
abbrev R.RS_PITCH_REM (i : Nat) : Nat := 0x210150 + 0x1000 * i
abbrev R.SEAM_CFG (i : Nat) : Nat := 0x300000 + 0x1000 * i
abbrev R.SEAM_WIDTH (i : Nat) : Nat := 0x300004 + 0x1000 * i
abbrev R.SEAM_PITCH (i : Nat) : Nat := 0x300008 + 0x1000 * i
abbrev R.SEAM_MEMBERS (i : Nat) : Nat := 0x30000c + 0x1000 * i
abbrev R.SEAM_WAIT (i : Nat) : Nat := 0x300010 + 0x1000 * i
abbrev R.SEAM_MASK (i : Nat) : Nat := 0x300014 + 0x1000 * i
abbrev R.HIST_BASE_LO (i : Nat) : Nat := 0x300018 + 0x1000 * i
abbrev R.HIST_BASE_HI (i : Nat) : Nat := 0x30001c + 0x1000 * i
abbrev R.HIST_STRIPES (i : Nat) : Nat := 0x300020 + 0x1000 * i
abbrev R.HIST_DIR_BASE_LO (i : Nat) : Nat := 0x300024 + 0x1000 * i
abbrev R.HIST_DIR_BASE_HI (i : Nat) : Nat := 0x300028 + 0x1000 * i
abbrev R.SEAM_MD_RATE (i : Nat) : Nat := 0x30002c + 0x1000 * i
abbrev R.SEAM_LAST_K_LO (i : Nat) : Nat := 0x300030 + 0x1000 * i
abbrev R.SEAM_LAST_K_HI (i : Nat) : Nat := 0x300034 + 0x1000 * i
abbrev R.SEAM_OLDEST_K_LO (i : Nat) : Nat := 0x300038 + 0x1000 * i
abbrev R.SEAM_OLDEST_K_HI (i : Nat) : Nat := 0x30003c + 0x1000 * i
abbrev R.SEAM_BLIND (i : Nat) : Nat := 0x300040 + 0x1000 * i
abbrev R.SEAM_TIMEOUT_CNT (i : Nat) : Nat := 0x300044 + 0x1000 * i
abbrev R.SEAM_LATE_CNT (i : Nat) : Nat := 0x300048 + 0x1000 * i
abbrev R.SEAM_PARTIAL_CNT (i : Nat) : Nat := 0x30004c + 0x1000 * i
abbrev R.SEAM_EXT_MERGE_CNT (i : Nat) : Nat := 0x300050 + 0x1000 * i
abbrev R.SEAM_HIST_STALL_CNT (i : Nat) : Nat := 0x300054 + 0x1000 * i
abbrev R.SEAM_EVENT (i : Nat) : Nat := 0x300058 + 0x1000 * i
abbrev R.SEAM_Si (i j : Nat) : Nat := 0x300100 + 0x1000 * i + 0x4 * j
abbrev R.LODE_ESTAT (i : Nat) : Nat := 0x400000 + 0x1000 * i
abbrev R.LODE_EBAND (i : Nat) : Nat := 0x400004 + 0x1000 * i
abbrev R.LODE_UNIT_CNT (i : Nat) : Nat := 0x400008 + 0x1000 * i
abbrev R.LODE_FRAG_CNT (i : Nat) : Nat := 0x40000c + 0x1000 * i
abbrev R.LODE_FRAG_PEAK (i : Nat) : Nat := 0x400010 + 0x1000 * i
abbrev R.LODE_FRAG_DROP (i : Nat) : Nat := 0x400014 + 0x1000 * i
abbrev R.LODE_LAG_MAX (i : Nat) : Nat := 0x400018 + 0x1000 * i
abbrev R.LODE_MCFG (i : Nat) : Nat := 0x408000 + 0x1000 * i
abbrev R.LODE_BANDi_START (i j : Nat) : Nat := 0x408004 + 0x1000 * i + 0x4 * j
abbrev R.LODE_CTRL (i : Nat) : Nat := 0x408010 + 0x1000 * i
abbrev R.LODE_STATUS (i : Nat) : Nat := 0x408014 + 0x1000 * i
abbrev R.LODE_EVENT (i : Nat) : Nat := 0x408018 + 0x1000 * i
abbrev R.LODE_CLOSE_CNT (i : Nat) : Nat := 0x40801c + 0x1000 * i
abbrev R.LODE_DISCARD_CNT (i : Nat) : Nat := 0x408020 + 0x1000 * i
abbrev R.LODE_MERGE_CNT (i : Nat) : Nat := 0x408024 + 0x1000 * i
abbrev R.LODE_CUT_CNT (i : Nat) : Nat := 0x408028 + 0x1000 * i
abbrev R.LODE_MEMERR_CNT (i : Nat) : Nat := 0x40802c + 0x1000 * i
abbrev R.LODE_SETTLE_STALL (i : Nat) : Nat := 0x408030 + 0x1000 * i
abbrev R.LODE_NEXT_ID_LO (i : Nat) : Nat := 0x408034 + 0x1000 * i
abbrev R.LODE_NEXT_ID_HI (i : Nat) : Nat := 0x408038 + 0x1000 * i
abbrev R.LODE_THR_DARK (i : Nat) : Nat := 0x408100 + 0x1000 * i
abbrev R.LODE_THR_BRIGHT (i : Nat) : Nat := 0x408104 + 0x1000 * i
abbrev R.LODE_LEVEL (i : Nat) : Nat := 0x408108 + 0x1000 * i
abbrev R.LODE_SEG_CFG (i : Nat) : Nat := 0x40810c + 0x1000 * i
abbrev R.LODE_ROI_START (i : Nat) : Nat := 0x408110 + 0x1000 * i
abbrev R.LODE_ROI_END (i : Nat) : Nat := 0x408114 + 0x1000 * i
abbrev R.LODE_MIN_AREA (i : Nat) : Nat := 0x408118 + 0x1000 * i
abbrev R.LODE_MIN_DIM (i : Nat) : Nat := 0x40811c + 0x1000 * i
abbrev R.LODE_MAX_MD (i : Nat) : Nat := 0x408120 + 0x1000 * i
abbrev R.LODE_STILL_CLOSE (i : Nat) : Nat := 0x408124 + 0x1000 * i
abbrev R.ASY_CTRL : Nat := 0x500000
abbrev R.ASY_STATUS : Nat := 0x500004
abbrev R.ASY_TIMING : Nat := 0x500008
abbrev R.ASY_EVENT : Nat := 0x50000c
abbrev R.ASY_JOB_CNT : Nat := 0x500010
abbrev R.ASY_UNA_CNT : Nat := 0x500014
abbrev R.ASY_LATE_CNT : Nat := 0x500018
abbrev R.ASY_PAD_CNT : Nat := 0x50001c
abbrev R.ASY_SAT_CNT : Nat := 0x500020
abbrev R.ASY_WAIT_MAX : Nat := 0x500024
abbrev R.ASY_SRAM_ERR_CNT : Nat := 0x500028
abbrev R.ASY_NETn_INFO (i : Nat) : Nat := 0x500030 + 0x4 * i
abbrev R.ASY_NETn_BILL (i : Nat) : Nat := 0x500040 + 0x4 * i
abbrev R.ASY_PB_BASE_LO : Nat := 0x500060
abbrev R.ASY_PB_BASE_HI : Nat := 0x500064
abbrev R.ASY_PB_SLOTS : Nat := 0x500068
abbrev R.ASY_PB_STRIDE : Nat := 0x50006c
abbrev R.ASY_MOSm_CFG (i : Nat) : Nat := 0x500100 + 0x40 * i
abbrev R.ASY_MOSm_KEEP_LO (i : Nat) : Nat := 0x500104 + 0x40 * i
abbrev R.ASY_MOSm_KEEP_HI (i : Nat) : Nat := 0x500108 + 0x40 * i
abbrev R.ASY_MOSm_OFS_MDf (i j : Nat) : Nat := 0x500110 + 0x40 * i + 0x8 * j
abbrev R.ASY_MOSm_OFS_CDf (i j : Nat) : Nat := 0x500114 + 0x40 * i + 0x8 * j
abbrev R.SHF_DESC_BASE_LO : Nat := 0x600000
abbrev R.SHF_DESC_BASE_HI : Nat := 0x600004
abbrev R.SHF_ELEM_BASE_LO : Nat := 0x600008
abbrev R.SHF_ELEM_BASE_HI : Nat := 0x60000c
abbrev R.SHF_LINK_BASE_LO : Nat := 0x600010
abbrev R.SHF_LINK_BASE_HI : Nat := 0x600014
abbrev R.SHF_ELEM_CNT : Nat := 0x600018
abbrev R.SHF_TRACK_CNT : Nat := 0x60001c
abbrev R.SHF_RESERVE : Nat := 0x600020
abbrev R.SHF_JOB_LIMIT : Nat := 0x600024
abbrev R.SHF_FREE_TRACKS : Nat := 0x600028
abbrev R.SHF_FREE_ELEMS : Nat := 0x60002c
abbrev R.SHF_OPEN_PEAK : Nat := 0x600030
abbrev R.SHF_TRUNC_CNT : Nat := 0x600034
abbrev R.SHF_TRACK_DROP : Nat := 0x600038
abbrev R.SHF_EVENT : Nat := 0x60003c
abbrev R.REC_SEQ_LO : Nat := 0x600040
abbrev R.REC_SEQ_HI : Nat := 0x600044
abbrev R.REC_CNT : Nat := 0x600048
abbrev R.REC_SYS_ROUTE : Nat := 0x60004c
abbrev R.SHF_MEMERR_CNT : Nat := 0x600050
abbrev R.REC_MOSm_ROUTE (i : Nat) : Nat := 0x600100 + 0x10 * i
abbrev R.REC_MOSm_CPM (i : Nat) : Nat := 0x600104 + 0x10 * i
abbrev R.DR_n_CFG (i : Nat) : Nat := 0x601000 + 0x10 * i
abbrev R.DR_n_LIMIT (i : Nat) : Nat := 0x601004 + 0x10 * i
abbrev R.DR_n_STATUS (i : Nat) : Nat := 0x601008 + 0x10 * i
abbrev R.DR_n_DROP (i : Nat) : Nat := 0x60100c + 0x10 * i
abbrev R.TDL_CTRL : Nat := 0x700000
abbrev R.TDL_MOVE_TH : Nat := 0x700004
abbrev R.TDL_STATUS : Nat := 0x700008
abbrev R.TDL_EVENT : Nat := 0x70000c
abbrev R.TDL_IRQ_EN : Nat := 0x700010
abbrev R.TDL_DIRCHG_SRC : Nat := 0x700014
abbrev R.TDL_HIST_BASE_LO : Nat := 0x700018
abbrev R.TDL_HIST_BASE_HI : Nat := 0x70001c
abbrev R.TDL_ENCn_CFG (i : Nat) : Nat := 0x700100 + 0x20 * i
abbrev R.TDL_ENCn_ZCHECK (i : Nat) : Nat := 0x700104 + 0x20 * i
abbrev R.TDL_ENCn_ZLAT_LO (i : Nat) : Nat := 0x700108 + 0x20 * i
abbrev R.TDL_ENCn_ZLAT_HI (i : Nat) : Nat := 0x70010c + 0x20 * i
abbrev R.TDL_ENCn_STATUS (i : Nat) : Nat := 0x700110 + 0x20 * i
abbrev R.TDL_ENCn_ERR (i : Nat) : Nat := 0x700114 + 0x20 * i
abbrev R.TDL_HALL_CFG : Nat := 0x700180
abbrev R.TDL_HALL_STATUS : Nat := 0x700184
abbrev R.TDL_HALL_ERR : Nat := 0x700188
abbrev R.TDL_SSIn_CFG (i : Nat) : Nat := 0x7001c0 + 0x20 * i
abbrev R.TDL_SSIn_TIMING (i : Nat) : Nat := 0x7001c4 + 0x20 * i
abbrev R.TDL_SSIn_WORD_LO (i : Nat) : Nat := 0x7001c8 + 0x20 * i
abbrev R.TDL_SSIn_WORD_HI (i : Nat) : Nat := 0x7001cc + 0x20 * i
abbrev R.TDL_SSIn_ERR (i : Nat) : Nat := 0x7001d0 + 0x20 * i
abbrev R.TDL_POSn_CFG (i : Nat) : Nat := 0x700400 + 0x40 * i
abbrev R.TDL_POSn_POS_LO (i : Nat) : Nat := 0x700404 + 0x40 * i
abbrev R.TDL_POSn_POS_HI (i : Nat) : Nat := 0x700408 + 0x40 * i
abbrev R.TDL_POSn_PRESET_LO (i : Nat) : Nat := 0x70040c + 0x40 * i
abbrev R.TDL_POSn_PRESET_HI (i : Nat) : Nat := 0x700410 + 0x40 * i
abbrev R.TDL_POSn_MIN_LO (i : Nat) : Nat := 0x700414 + 0x40 * i
abbrev R.TDL_POSn_MIN_HI (i : Nat) : Nat := 0x700418 + 0x40 * i
abbrev R.TDL_POSn_MAX_LO (i : Nat) : Nat := 0x70041c + 0x40 * i
abbrev R.TDL_POSn_MAX_HI (i : Nat) : Nat := 0x700420 + 0x40 * i
abbrev R.TDL_POSn_OVER (i : Nat) : Nat := 0x700424 + 0x40 * i
abbrev R.TDL_POSn_SPEED (i : Nat) : Nat := 0x700428 + 0x40 * i
abbrev R.TDL_POSn_SPD_STATUS (i : Nat) : Nat := 0x70042c + 0x40 * i
abbrev R.TDL_POSn_SPD_CFG (i : Nat) : Nat := 0x700430 + 0x40 * i
abbrev R.TDL_POSn_CTRL (i : Nat) : Nat := 0x700434 + 0x40 * i
abbrev R.TDL_CMPn_CFG (i : Nat) : Nat := 0x700800 + 0x40 * i
abbrev R.TDL_CMPn_TGT_LO (i : Nat) : Nat := 0x700804 + 0x40 * i
abbrev R.TDL_CMPn_TGT_HI (i : Nat) : Nat := 0x700808 + 0x40 * i
abbrev R.TDL_CMPn_PITCH (i : Nat) : Nat := 0x70080c + 0x40 * i
abbrev R.TDL_CMPn_PITCH_REM (i : Nat) : Nat := 0x700810 + 0x40 * i
abbrev R.TDL_CMPn_K_LO (i : Nat) : Nat := 0x700814 + 0x40 * i
abbrev R.TDL_CMPn_K_HI (i : Nat) : Nat := 0x700818 + 0x40 * i
abbrev R.TDL_CMPn_PERIOD (i : Nat) : Nat := 0x70081c + 0x40 * i
abbrev R.TDL_CMPn_START_LO (i : Nat) : Nat := 0x700820 + 0x40 * i
abbrev R.TDL_CMPn_START_HI (i : Nat) : Nat := 0x700824 + 0x40 * i
abbrev R.TDL_CMPn_STATUS (i : Nat) : Nat := 0x700828 + 0x40 * i
abbrev R.TDL_CMPn_SKIP_CNT (i : Nat) : Nat := 0x70082c + 0x40 * i
abbrev R.TDL_CMPn_FIRE_CNT (i : Nat) : Nat := 0x700830 + 0x40 * i
abbrev R.TDL_CMPn_LAST_LO (i : Nat) : Nat := 0x700834 + 0x40 * i
abbrev R.TDL_CMPn_LAST_HI (i : Nat) : Nat := 0x700838 + 0x40 * i
abbrev R.TDL_TRIGn_CFG (i : Nat) : Nat := 0x701000 + 0x10 * i
abbrev R.TDL_TRIGn_COUNT (i : Nat) : Nat := 0x701004 + 0x10 * i
abbrev R.TDL_TRIGn_STATUS (i : Nat) : Nat := 0x701008 + 0x10 * i
abbrev R.TDL_TRIGn_DROP (i : Nat) : Nat := 0x70100c + 0x10 * i
abbrev R.TDL_STBk_CFG (i : Nat) : Nat := 0x701100 + 0x10 * i
abbrev R.TDL_STBk_TIME (i : Nat) : Nat := 0x701104 + 0x10 * i
abbrev R.TDL_SYNC_CFG : Nat := 0x701200
abbrev R.TDL_SYNC_ERR : Nat := 0x701204
abbrev R.RNL_CTRL : Nat := 0x800000
abbrev R.RNL_STATUS : Nat := 0x800004
abbrev R.RNL_EVENT : Nat := 0x800008
abbrev R.RNL_CH_LOOP : Nat := 0x80000c
abbrev R.RNL_LOOP_CNT : Nat := 0x800010
abbrev R.RNL_GRP_EN : Nat := 0x800014
abbrev R.RNL_SWEV : Nat := 0x800018
abbrev R.RNL_HOST_EVT : Nat := 0x80001c
abbrev R.RNL_CHc_CFG (i : Nat) : Nat := 0x801000 + 0x20 * i
abbrev R.RNL_CHc_SRC01 (i : Nat) : Nat := 0x801004 + 0x20 * i
abbrev R.RNL_CHc_SRC23 (i : Nat) : Nat := 0x801008 + 0x20 * i
abbrev R.RNL_CHc_DST01 (i : Nat) : Nat := 0x80100c + 0x20 * i
abbrev R.RNL_CHc_DST23 (i : Nat) : Nat := 0x801010 + 0x20 * i
abbrev R.RNL_CHc_DST45 (i : Nat) : Nat := 0x801014 + 0x20 * i
abbrev R.RNL_CHc_DST67 (i : Nat) : Nat := 0x801018 + 0x20 * i
abbrev R.RNL_CHc_CNT (i : Nat) : Nat := 0x80101c + 0x20 * i
abbrev R.RNL_MERGEi (i : Nat) : Nat := 0x804000 + 0x4 * i
abbrev R.TIM_CFG : Nat := 0x900000
abbrev R.TIM_STATUS : Nat := 0x900004
abbrev R.TIM_EVENT : Nat := 0x900008
abbrev R.TIM_IRQ_EN : Nat := 0x90000c
abbrev R.TIM_SNAP : Nat := 0x900010
abbrev R.TIM_SNAPb_SEC_LO (i : Nat) : Nat := 0x900020 + 0x10 * i
abbrev R.TIM_SNAPb_SEC_HI (i : Nat) : Nat := 0x900024 + 0x10 * i
abbrev R.TIM_SNAPb_NS (i : Nat) : Nat := 0x900028 + 0x10 * i
abbrev R.TIM_SNAPb_FRAC (i : Nat) : Nat := 0x90002c + 0x10 * i
abbrev R.TIM_TBb_FREQ (i : Nat) : Nat := 0x900060 + 0x4 * i
abbrev R.TIM_TB3_FREQ : Nat := 0x90006c
abbrev R.TIM_TB3_SLEW : Nat := 0x900070
abbrev R.TIM_SERVO_LOCK : Nat := 0x900080
abbrev R.TIM_SERVO_TIME : Nat := 0x900084
abbrev R.TIM_SERVO_OFSd (i : Nat) : Nat := 0x900088 + 0x4 * i
abbrev R.TIM_PATH_DELAYd (i : Nat) : Nat := 0x900090 + 0x4 * i
abbrev R.TIM_PTP_CFG : Nat := 0x900098
abbrev R.TIM_Pp_TX_LAT (i : Nat) : Nat := 0x9000a0 + 0x10 * i
abbrev R.TIM_Pp_RX_LAT (i : Nat) : Nat := 0x9000a4 + 0x10 * i
abbrev R.TIM_Pp_ADJ (i : Nat) : Nat := 0x9000a8 + 0x10 * i
abbrev R.TIM_Pp_ASYM (i : Nat) : Nat := 0x9000ac + 0x10 * i
abbrev R.TIM_PPS_CFG : Nat := 0x9000c0
abbrev R.TIM_PPS_OFS : Nat := 0x9000c4
abbrev R.TIM_PPSINb_SEC_LO (i : Nat) : Nat := 0x9000d0 + 0x10 * i
abbrev R.TIM_PPSINb_SEC_HI (i : Nat) : Nat := 0x9000d4 + 0x10 * i
abbrev R.TIM_PPSINb_NS (i : Nat) : Nat := 0x9000d8 + 0x10 * i
abbrev R.TIM_PPSINb_FRAC (i : Nat) : Nat := 0x9000dc + 0x10 * i
abbrev R.TIM_PPSIN_CNT : Nat := 0x900110
abbrev R.TIM_STAMP_LOST : Nat := 0x900114
abbrev R.TIM_TCn_CFG (i : Nat) : Nat := 0x900200 + 0x20 * i
abbrev R.TIM_TCn_TGT_SEC_LO (i : Nat) : Nat := 0x900204 + 0x20 * i
abbrev R.TIM_TCn_TGT_SEC_HI (i : Nat) : Nat := 0x900208 + 0x20 * i
abbrev R.TIM_TCn_TGT_NS (i : Nat) : Nat := 0x90020c + 0x20 * i
abbrev R.TIM_TCn_PERIOD_LO (i : Nat) : Nat := 0x900210 + 0x20 * i
abbrev R.TIM_TCn_PERIOD_HI (i : Nat) : Nat := 0x900214 + 0x20 * i
abbrev R.TIM_TCn_STATUS (i : Nat) : Nat := 0x900218 + 0x20 * i
abbrev R.TIM_TCn_SKIP (i : Nat) : Nat := 0x90021c + 0x20 * i
abbrev R.NET_CFG : Nat := 0xa00000
abbrev R.NET_STATUS : Nat := 0xa00004
abbrev R.NET_EVENT : Nat := 0xa00008
abbrev R.NET_IRQ_EN : Nat := 0xa0000c
abbrev R.NET_ARB_CFG : Nat := 0xa00010
abbrev R.NET_ARB_TIME : Nat := 0xa00014
abbrev R.NET_BATCH : Nat := 0xa00018
abbrev R.NET_STATUS_CFG : Nat := 0xa0001c
abbrev R.NET_LAST_GRANT : Nat := 0xa00020
abbrev R.NET_GRANT_SEQ : Nat := 0xa00024
abbrev R.NET_SWITCH_CNT : Nat := 0xa00028
abbrev R.NET_GAP_MAX : Nat := 0xa0002c
abbrev R.NET_GRANT_ERR : Nat := 0xa00030
abbrev R.NET_DEVICE_ID_LO : Nat := 0xa00034
abbrev R.NET_DEVICE_ID_HI : Nat := 0xa00038
abbrev R.NET_STATUS_DROP : Nat := 0xa0003c
abbrev R.NETP_CFG (i : Nat) : Nat := 0xa01000 + 0x1000 * i
abbrev R.NETP_MAC_LO (i : Nat) : Nat := 0xa01004 + 0x1000 * i
abbrev R.NETP_MAC_HI (i : Nat) : Nat := 0xa01008 + 0x1000 * i
abbrev R.NETP_IP (i : Nat) : Nat := 0xa0100c + 0x1000 * i
abbrev R.NETP_DST_IP (i : Nat) : Nat := 0xa01010 + 0x1000 * i
abbrev R.NETP_DST_MAC_LO (i : Nat) : Nat := 0xa01014 + 0x1000 * i
abbrev R.NETP_DST_MAC_HI (i : Nat) : Nat := 0xa01018 + 0x1000 * i
abbrev R.NETP_UDP (i : Nat) : Nat := 0xa0101c + 0x1000 * i
abbrev R.NETP_STATUS (i : Nat) : Nat := 0xa01020 + 0x1000 * i
abbrev R.NETP_TX_FRAMES (i : Nat) : Nat := 0xa01024 + 0x1000 * i
abbrev R.NETP_RX_FRAMES (i : Nat) : Nat := 0xa01028 + 0x1000 * i
abbrev R.NETP_RX_ERR (i : Nat) : Nat := 0xa0102c + 0x1000 * i
abbrev R.NETP_FEC_CORR (i : Nat) : Nat := 0xa01030 + 0x1000 * i
abbrev R.NETP_FEC_UNCORR (i : Nat) : Nat := 0xa01034 + 0x1000 * i
abbrev R.NETP_PCS_ERR (i : Nat) : Nat := 0xa01038 + 0x1000 * i
abbrev R.NETP_HEALTH_TH (i : Nat) : Nat := 0xa0103c + 0x1000 * i
abbrev R.NETP_TX_PWR_MIN (i : Nat) : Nat := 0xa01040 + 0x1000 * i
abbrev R.NETP_PROBE_RTT (i : Nat) : Nat := 0xa01044 + 0x1000 * i
abbrev R.HIF_STATUS : Nat := 0xb00000
abbrev R.HIF_EVENT : Nat := 0xb00004
abbrev R.HIF_BAR2_WERR : Nat := 0xb00008
abbrev R.HIF_AGE_CFG : Nat := 0xb0000c
abbrev R.MB_DOORBELL : Nat := 0xb00020
abbrev R.MB_TAG : Nat := 0xb00024
abbrev R.MB_STATUS : Nat := 0xb00028
abbrev R.MB_RESP_LEN : Nat := 0xb0002c
abbrev R.MB_RESP_TAG : Nat := 0xb00030
abbrev R.HIF_DMAe_CFG (i : Nat) : Nat := 0xb00100 + 0x40 * i
abbrev R.HIF_DMAe_BASE_LO (i : Nat) : Nat := 0xb00104 + 0x40 * i
abbrev R.HIF_DMAe_BASE_HI (i : Nat) : Nat := 0xb00108 + 0x40 * i
abbrev R.HIF_DMAe_WB_LO (i : Nat) : Nat := 0xb0010c + 0x40 * i
abbrev R.HIF_DMAe_WB_HI (i : Nat) : Nat := 0xb00110 + 0x40 * i
abbrev R.HIF_DMAe_WR (i : Nat) : Nat := 0xb00114 + 0x40 * i
abbrev R.HIF_DMAe_RD (i : Nat) : Nat := 0xb00118 + 0x40 * i
abbrev R.HIF_DMAe_MOD (i : Nat) : Nat := 0xb0011c + 0x40 * i
abbrev R.HIF_DMAe_STATUS (i : Nat) : Nat := 0xb00120 + 0x40 * i
abbrev R.HIF_DMAe_CNT (i : Nat) : Nat := 0xb00124 + 0x40 * i
abbrev R.MB_REQ (i : Nat) : Nat := 0xb01000 + 0x4 * i
abbrev R.MB_RESP (i : Nat) : Nat := 0xb40000 + 0x4 * i
abbrev R.MEM_CFG : Nat := 0xc00000
abbrev R.MEM_STATUS : Nat := 0xc00004
abbrev R.MEM_EVENT : Nat := 0xc00008
abbrev R.MEM_IRQ_EN : Nat := 0xc0000c
abbrev R.MEM_SCHED : Nat := 0xc00010
abbrev R.MEM_SCRUB : Nat := 0xc00014
abbrev R.MEM_CE_CNT : Nat := 0xc00018
abbrev R.MEM_UE_CNT : Nat := 0xc0001c
abbrev R.MEM_PROT_CNT : Nat := 0xc00020
abbrev R.MEM_PARITY_CNT : Nat := 0xc00024
abbrev R.MEM_SCRUB_PASS : Nat := 0xc00028
abbrev R.MEM_LOG_STATUS : Nat := 0xc00030
abbrev R.MEM_PARTp_BASE (i : Nat) : Nat := 0xc00040 + 0x8 * i
abbrev R.MEM_PARTp_SIZE (i : Nat) : Nat := 0xc00044 + 0x8 * i
abbrev R.MEM_Ss_STATUS (i : Nat) : Nat := 0xc00100 + 0x40 * i
abbrev R.MEM_Ss_PEAK (i : Nat) : Nat := 0xc00104 + 0x40 * i
abbrev R.MEM_Ss_URGENT_CNT (i : Nat) : Nat := 0xc00108 + 0x40 * i
abbrev R.MEM_TRAINs_c (i j : Nat) : Nat := 0xc00200 + 0x40 * i + 0x4 * j
abbrev R.SLU_CTRL : Nat := 0xd00000
abbrev R.SLU_STATUS : Nat := 0xd00004
abbrev R.SLU_EVENT : Nat := 0xd00008
abbrev R.SLU_IRQ_EN : Nat := 0xd0000c
abbrev R.SLU_RING_BASE_LO : Nat := 0xd00010
abbrev R.SLU_RING_BASE_HI : Nat := 0xd00014
abbrev R.SLU_RING_SIZE : Nat := 0xd00018
abbrev R.SLU_JOB_WR : Nat := 0xd0001c
abbrev R.SLU_JOB_RD : Nat := 0xd00020
abbrev R.SLU_CLEAR_AFTER : Nat := 0xd00024
abbrev R.SLU_JOB_CNT : Nat := 0xd00028
abbrev R.SLU_IN_KB : Nat := 0xd0002c
abbrev R.SLU_OUT_KB : Nat := 0xd00030
abbrev R.SLU_ERR_CNT : Nat := 0xd00034
abbrev R.SLU_LANEl_STATUS (i : Nat) : Nat := 0xd00040 + 0x4 * i
abbrev R.CV_CFG (i : Nat) : Nat := 0xe00000 + 0x100 * i
abbrev R.CV_INIT (i : Nat) : Nat := 0xe00004 + 0x100 * i
abbrev R.CV_VALUE (i : Nat) : Nat := 0xe00008 + 0x100 * i
abbrev R.CV_RESULT (i : Nat) : Nat := 0xe0000c + 0x100 * i
abbrev R.CV_BYTES_LO (i : Nat) : Nat := 0xe00010 + 0x100 * i
abbrev R.CV_BYTES_HI (i : Nat) : Nat := 0xe00014 + 0x100 * i
abbrev R.CV_LAST (i : Nat) : Nat := 0xe00018 + 0x100 * i
abbrev R.CV_ITEMS (i : Nat) : Nat := 0xe0001c + 0x100 * i
abbrev R.CV_CHK_ERR (i : Nat) : Nat := 0xe00020 + 0x100 * i
abbrev R.CV_ALIVE (i : Nat) : Nat := 0xe00024 + 0x100 * i
abbrev R.CV_ALIVE_ERR (i : Nat) : Nat := 0xe00028 + 0x100 * i
abbrev R.CV_SKIPPED (i : Nat) : Nat := 0xe0002c + 0x100 * i
abbrev R.CV_LOSS_SEEN (i : Nat) : Nat := 0xe00030 + 0x100 * i
abbrev R.CV_MISS (i : Nat) : Nat := 0xe00034 + 0x100 * i
abbrev R.CV_WIN_BASE_LO (i : Nat) : Nat := 0xe00038 + 0x100 * i
abbrev R.CV_WIN_BASE_HI (i : Nat) : Nat := 0xe0003c + 0x100 * i
abbrev R.CV_WIN_SIZE (i : Nat) : Nat := 0xe00040 + 0x100 * i
abbrev R.CV_SAVE (i : Nat) : Nat := 0xe00044 + 0x100 * i
abbrev R.CV_SAVED_VALUE (i : Nat) : Nat := 0xe00048 + 0x100 * i
abbrev R.CV_SAVED_BYTES_LO (i : Nat) : Nat := 0xe0004c + 0x100 * i
abbrev R.CV_SAVED_BYTES_HI (i : Nat) : Nat := 0xe00050 + 0x100 * i
abbrev R.CV_EVENT (i : Nat) : Nat := 0xe00054 + 0x100 * i
abbrev R.CVU_IRQ_EN : Nat := 0xe00800
abbrev R.CFG_BOOT_STATUS : Nat := 0xf00000
abbrev R.CFG_SLOT_A_STATUS : Nat := 0xf00004
abbrev R.CFG_SLOT_B_STATUS : Nat := 0xf00008
abbrev R.CFG_IMG_VER_LO : Nat := 0xf0000c
abbrev R.CFG_IMG_VER_HI : Nat := 0xf00010
abbrev R.CFG_EPOCH : Nat := 0xf00014
abbrev R.CFG_BOOT_TIME : Nat := 0xf00018
abbrev R.CFG_FLASH : Nat := 0xf0001c
abbrev R.SEC_STATUS : Nat := 0x1000000
abbrev R.SEC_EVENT : Nat := 0x1000004
abbrev R.SEC_IRQ_EN : Nat := 0x1000008
abbrev R.SEC_UPD_BYTES : Nat := 0x100000c
abbrev R.SEC_UPD_RESULT : Nat := 0x1000010
abbrev R.SEC_TRIAL : Nat := 0x1000014
abbrev R.SEC_LAST_UPD : Nat := 0x1000018
abbrev R.SEC_POLICY : Nat := 0x100001c
abbrev R.SEC_UPD_SPEED_MAX : Nat := 0x1000020
abbrev R.SEC_TRIAL_CFG : Nat := 0x1000024
abbrev R.PWR_STATUS : Nat := 0x1100000
abbrev R.PWR_EVENT : Nat := 0x1100004
abbrev R.PWR_IRQ_EN : Nat := 0x1100008
abbrev R.PWR_VSENSE : Nat := 0x110000c
abbrev R.PWR_VSENSE_MIN : Nat := 0x1100010
abbrev R.PWR_VCORE : Nat := 0x1100014
abbrev R.PWR_JNL : Nat := 0x1100018
abbrev R.PWR_LAST_JSEQ : Nat := 0x110001c
abbrev R.PWR_HOLD_CNT : Nat := 0x1100020
abbrev R.CAL_CFG : Nat := 0x1200000
abbrev R.CAL_STATUS : Nat := 0x1200004
abbrev R.CAL_EVENT : Nat := 0x1200008
abbrev R.CAL_IRQ_EN : Nat := 0x120000c
abbrev R.CAL_REQ : Nat := 0x1200010
abbrev R.CAL_PENDING : Nat := 0x1200014
abbrev R.CAL_FAILED : Nat := 0x1200018
abbrev R.CAL_SKIPPED : Nat := 0x120001c
abbrev R.CAL_STORE_SEQ : Nat := 0x1200020
abbrev R.CAL_RUN_CNT : Nat := 0x1200024
abbrev R.CAL_UNLOCK_FAIL : Nat := 0x1200028
abbrev R.CAL_TSENt (i : Nat) : Nat := 0x1200040 + 0x4 * i
abbrev R.CAL_BIST_STATUS : Nat := 0x1200080
abbrev R.CAL_BIST_PASS : Nat := 0x1200084
abbrev R.CAL_BIST_FAIL : Nat := 0x1200088
abbrev R.CAL_BIST_SKIP : Nat := 0x120008c
abbrev R.CAL_BISTp_SIG_LO (i : Nat) : Nat := 0x1200100 + 0x10 * i
abbrev R.CAL_BISTp_SIG_HI (i : Nat) : Nat := 0x1200104 + 0x10 * i
abbrev R.CAL_BISTp_EXP_LO (i : Nat) : Nat := 0x1200108 + 0x10 * i
abbrev R.CAL_BISTp_EXP_HI (i : Nat) : Nat := 0x120010c + 0x10 * i

end Sys2Proof.Machine
end

