-- ==== Sys2Proof/Machine/Events.lean ====
section
/-! DEFINITION. Raising events: the Runnel channels that carry an event to the task inputs of its consumers, with groups,
merging and hop counts (R278 to R288). Every unit raises its events through `Dev.raise`; a task command takes the
activation its input holds through `Dev.takeAct`. -/

namespace Sys2Proof.Machine

/-- A producer or consumer identifier with VALID set (R280): unit and index. -/
def evtId (unit idx : Nat) : Nat := 0x8000 + unit * 0x100 + idx

/-- The channel's configuration in force: OWNER, SEC, group and enable (Table 13-6). -/
def Dev.chCfg (d : Dev) (c lo w : Nat) : Nat := d.actFld ⟨R.RNL_CHc_CFG c, lo, w⟩

/-- The four producer words of a channel in force (R290). -/
def Dev.chSrc (d : Dev) (c : Nat) : List Nat :=
  [R.RNL_CHc_SRC01 c, R.RNL_CHc_SRC23 c].flatMap (fun a => [d.actFld ⟨a, 0, 16⟩, d.actFld ⟨a, 16, 16⟩])

/-- The eight consumer words of a channel in force (R290). -/
def Dev.chDst (d : Dev) (c : Nat) : List Nat :=
  [R.RNL_CHc_DST01 c, R.RNL_CHc_DST23 c, R.RNL_CHc_DST45 c, R.RNL_CHc_DST67 c].flatMap
    (fun a => [d.actFld ⟨a, 0, 16⟩, d.actFld ⟨a, 16, 16⟩])

/-- A word with VALID = 0 names nothing (R280). -/
def idValid (w : Nat) : Bool := decide (0x8000 ≤ w)

/-- Runnel is enabled (RNL_EN). -/
def Dev.rnlEn (d : Dev) : Bool := d.bit ⟨R.RNL_CTRL, 0, 1⟩

/-- A group's bit in RNL_GRP_EN. -/
def Dev.grpEn (d : Dev) (g : Nat) : Bool := d.bit ⟨R.RNL_GRP_EN, g, 1⟩

/-- A group is secure when it contains at least one SECURE channel (R283). -/
def Dev.grpSecure (d : Dev) (g : Nat) : Bool :=
  (List.range 128).any (fun c => d.chCfg c 8 1 == 1 && d.chCfg c 5 1 == 1 && d.chCfg c 1 4 == g)

/-- One activation reaches a task input: it merges with one the input still holds (R287). -/
def Dev.deliver (d : Dev) (c hop dst : Nat) : Dev :=
  let i := dst % 0x1000
  let sec := d.chCfg c 8 1 == 1
  let one : HeldAct := { hop := hop, chan := c, secure := if sec then [c] else [], opens := if sec then [] else [c] }
  match tget noneAt d.rnl.acts i with
  | none => { d with rnl := { d.rnl with acts := tset noneAt d.rnl.acts i (some one) } }
  | some a =>
    let m : HeldAct := { hop := max a.hop hop, chan := if a.hop < hop then c else a.chan,
                         secure := a.secure ++ one.secure, opens := a.opens ++ one.opens }
    { d.bump ⟨R.RNL_MERGEi i, 0, 16⟩ with
      rnl := { d.rnl with acts := tset noneAt d.rnl.acts i (some m) } }

/-- One channel carries an event from one of its producers to each of its consumers, or its disabled group blocks it
(R278, R285). -/
def Dev.carry (d : Dev) (src hop c : Nat) : Dev :=
  let dsts := (d.chDst c).filter idValid
  if d.chCfg c 0 1 == 1 && (d.chSrc c).contains src && !dsts.isEmpty then
    if d.chCfg c 5 1 == 1 && !d.grpEn (d.chCfg c 1 4) then d.bump ⟨R.RNL_CHc_CNT c, 24, 8⟩
    else dsts.foldl (fun d t => d.deliver c hop t) (d.bump ⟨R.RNL_CHc_CNT c, 0, 24⟩)
  else d

/-- An event whose hop count is 7 is dropped before any channel carries it (R288). -/
def Dev.loopDrop (d : Dev) (chan : Nat) : Dev :=
  ((((d.sticky ⟨R.RNL_EVENT, 0, 1⟩ 18 true).put ⟨R.RNL_CH_LOOP, 0, 7⟩ chan).bump ⟨R.RNL_LOOP_CNT, 0, 32⟩).logPut
    0x08 .loopDrop [chan])

/-- A unit raises a producer event (R278, R279, R288): without a cause it carries hop 0, as the output of a re-entering
task the hop of the activation that caused it, plus 1. -/
def Dev.raise (d : Dev) (unit idx : Nat) (cause : Option Cause := none) : Dev :=
  let hop := match cause with
    | none => 0
    | some c => c.hop + 1
  if d.rnlEn then
    if 7 ≤ hop then d.loopDrop (match cause with
      | none => 0
      | some c => c.chan)
    else (List.range 128).foldl (fun d c => d.carry (evtId unit idx) hop c) d
  else d

/-- The unit of a task takes the activation its input holds (R287): none when nothing is held. -/
def Dev.takeAct (d : Dev) (unit idx : Nat) : Option HeldAct × Dev :=
  let i := unit * 0x100 + idx
  (tget noneAt d.rnl.acts i, { d with rnl := { d.rnl with acts := tset noneAt d.rnl.acts i none } })

/-- The cause that a held activation hands on to the output of its task (R288). -/
def HeldAct.cause (a : HeldAct) : Cause := { hop := a.hop, chan := a.chan }

/-- A task command: the unit takes the activation and acts; with no activation held nothing happens. -/
def Dev.task (d : Dev) (unit idx : Nat) (act : HeldAct → Dev → Dev) : Dev :=
  match d.takeAct unit idx with
  | (none, d) => d
  | (some a, d) => act a d

/-! ### The update stage and the trial (R444, R453) -/

/-- UPD_STAGE in SEC_STATUS (Table 21-4). -/
def Dev.stage (d : Dev) : Nat := d.fld ⟨R.SEC_STATUS, 5, 3⟩

/-- A check of Table 21-5 passes during a trial: its bit in SEC_TRIAL sets. -/
def Dev.trialNote (d : Dev) (check : Nat) : Dev := if d.stage = 5 then d.put ⟨R.SEC_TRIAL, check, 1⟩ 1 else d

/-! ### Non-stallable crossings (R30, R31) -/

/-- May a non-stallable crossing be full? Only while DRAM stalls the intake writer, or when PACE_UNDER is set (R31). -/
def Dev.xingFull (d : Dev) : Bool :=
  d.bit ⟨R.MEM_STATUS, 1, 1⟩ || d.mem.stalled.any (fun r => r.req == 0) || d.fld ⟨R.GLB_PACE_STATUS, 16, 12⟩ != 0

/-- A full crossing drops `n` entries: its bit, and their count (R30). -/
def Dev.xingDrop (d : Dev) (bit n : Nat) : Dev := (d.put ⟨R.GLB_XING_STATUS, bit, 1⟩ 1).bumpBy ⟨R.GLB_XING_DROP, 0, 32⟩ n

/-! ### Frames of the network ports (R322, R323, R340) -/

/-- The default network port. -/
def netInit (_ : Nat) : NetPort := {}

def Dev.netPort (d : Dev) (p : Nat) : NetPort := tget netInit d.net.ports p

def Dev.setNetPort (d : Dev) (p : Nat) (x : NetPort) : Dev := { d with net := { d.net with ports := tset netInit d.net.ports p x } }

/-- A frame received by a port counts. -/
def Dev.netRx (d : Dev) (p : Nat) : Dev :=
  (d.bump ⟨R.NETP_RX_FRAMES p, 0, 32⟩).setNetPort p { d.netPort p with cycRx := (d.netPort p).cycRx + 1 }

/-- A frame sent by a port counts. -/
def Dev.netTx (d : Dev) (p : Nat) : Dev :=
  (d.bump ⟨R.NETP_TX_FRAMES p, 0, 32⟩).setNetPort p { d.netPort p with cycTx := (d.netPort p).cycTx + 1 }

/-- A received frame that is discarded under R323 or R338. -/
def Dev.netDiscard (d : Dev) (p : Nat) : Dev := d.bump ⟨R.NETP_RX_ERR p, 16, 16⟩

def Dev.netLink (d : Dev) (p : Nat) : Bool := d.bit ⟨R.NETP_STATUS p, 0, 1⟩

/-- PCP and VID of the tag that every frame of a port carries when VLAN_EN is set (R322). -/
def Dev.netTag (d : Dev) (p : Nat) : Option Nat :=
  if d.bit ⟨R.NETP_CFG p, 2, 1⟩ then some (d.fld ⟨R.NETP_CFG p, 16, 3⟩ * 2 ^ 13 + d.fld ⟨R.NETP_CFG p, 4, 12⟩) else none

/-- Does a port accept a frame by its tag, its size and its IPv4 header (R322)? -/
def Dev.netTakes (d : Dev) (p : Nat) (w : NetWire) : Bool :=
  (w.vid == none || w.vid == some (d.fld ⟨R.NETP_CFG p, 4, 12⟩)) && decide (w.len ≤ 1522) && !w.odd

/-- What becomes of a frame at a port: it does not arrive, it is lost at a full receive crossing, or it is received (R30, R323). -/
inductive NetFate where
  | none | lost | taken
deriving DecidableEq, Repr

def Dev.netFate (d : Dev) (p : Nat) (w : NetWire) : NetFate :=
  if p < d.variant.netPorts ∧ d.netLink p then (if w.lost && d.xingFull then .lost else .taken) else .none

/-- A frame comes to a port. -/
def Dev.netArrives (d : Dev) (p : Nat) (w : NetWire) (act : Dev → Dev) : Dev :=
  match d.netFate p w with
  | .none => d
  | .lost => d.xingDrop (16 + p) 1
  | .taken => act d

/-- A frame with a good FCS comes to a port: counted and discarded, or counted and taken (R322, R323). -/
def Dev.netIn (d : Dev) (p : Nat) (w : NetWire) (act : Dev → Dev) : Dev :=
  d.netArrives p w fun d => if d.netTakes p w then act (d.netRx p) else (d.netRx p).netDiscard p

/-- The same where what takes the frame may write the non-volatile memories. -/
def Dev.netInNv (d : Dev) (n : NonVol) (p : Nat) (w : NetWire) (act : Dev → NonVol → Dev × NonVol) : Dev × NonVol :=
  match d.netFate p w with
  | .none => (d, n)
  | .lost => (d.xingDrop (16 + p) 1, n)
  | .taken => if d.netTakes p w then act (d.netRx p) n else ((d.netRx p).netDiscard p, n)

end Sys2Proof.Machine
end

