-- ==== Sys2Proof/Machine/ReadReg.lean ====
section
/-! DEFINITION. What a register reads as (R2, R7, R8, R9, R425): registers whose value follows time or other registers are
computed here; a host read also clears RC counters and latches _HI words. -/

namespace Sys2Proof.Machine

def posInit (_ : Nat) : PosCnt := {}

/-- TB2 now in units of 125 ps (R244). -/
def Dev.now8 (d : Dev) : Nat := d.now2 * 8 + d.tim.tb2.frac / 2 ^ 29

/-- SPEED of a counter now (R260): the lesser of the last measurement and one count over the time since the last edge;
0 without a valid speed. u28.4 counts per second. -/
def Dev.speedAt (d : Dev) (n t : Nat) : Nat :=
  let m := (d.reg (R.TDL_POSn_SPEED n)).toNat
  if d.bit ⟨R.TDL_POSn_SPD_STATUS n, 1, 1⟩ then
    match (tget posInit d.tdl.pos n).last with
    | none => m
    | some t0 => if t ≤ t0 then m else min m (16 * 8000000000 / (t - t0))
  else 0

/-- SPEED of a counter as read now. -/
def Dev.speedNow (d : Dev) (n : Nat) : Nat := d.speedAt n d.now8

/-- STILL of a counter. -/
def Dev.still (d : Dev) (n : Nat) : Bool := d.bit ⟨R.TDL_POSn_SPD_STATUS n, 2, 1⟩

/-- SPD_VALID of a counter. -/
def Dev.spdValid (d : Dev) (n : Nat) : Bool := d.bit ⟨R.TDL_POSn_SPD_STATUS n, 1, 1⟩

/-- The line-speed source: LSS_SEL (R258). -/
def Dev.lss (d : Dev) : Nat := d.fld ⟨R.TDL_CTRL, 8, 3⟩

/-- MOVING (R258): the line-speed source is not still, and its speed is not yet valid or exceeds MOVE_TH. -/
def Dev.moving (d : Dev) : Bool :=
  !d.still d.lss && (!d.spdValid d.lss || decide ((d.reg R.TDL_MOVE_TH).toNat < d.speedNow d.lss))

/-- Seconds of TRIAL_WINDOW left (R459): 0 outside a trial. -/
def Dev.trialLeft (d : Dev) : Nat :=
  match d.sec.trial with
  | none => 0
  | some t => (d.fld ⟨R.SEC_TRIAL_CFG, 0, 16⟩ * 1000000000 - (d.now2 - t.start)) / 1000000000

/-- The staging area is older than 50 ms (R469, R476): so it is before its first refresh. -/
def Dev.stagingOld (d : Dev) : Bool :=
  match d.cove.stagedAt with
  | none => true
  | some t => decide (50000000 < d.now2 - t)

/-- Requests that the controller of a stack holds, by the stack bit of their addresses (Table 17-2, R366). -/
def Dev.heldBy (d : Dev) (stack : Nat) : Nat :=
  (d.mem.wait.filter (fun r => (if d.variant.dual then r.addr / 256 % 2 else 0) == stack)).length

/-- Mean data rate of a stack over the last whole millisecond, GB/s rounded down (Table 17-7; DESIGN CHOICE, assumption 104). -/
def Dev.dataRate (d : Dev) (stack : Nat) : Nat :=
  let (ms, now, before) := tget (fun _ => (0, 0, 0)) d.mem.traffic stack
  let t := d.now2 / 1000000
  (if t = ms then before else if t = ms + 1 then now else 0) / 1000000

/-- The value a register shows when read, without the side effects of a host read. -/
def readReg (d : Dev) (a : Nat) : Word :=
  if present d.variant a then
    match regRow a with
    | none => 0
    | some r =>
      if r.access = .wo then 0
      else if a = R.GLB_ID then BitVec.ofNat 32 (0xB00000 + d.variant.device)
      else if a = R.TDL_STATUS then
        putBits (putBits (d.reg a) 0 1 (if d.moving then 1 else 0)) 1 1 (if d.still d.lss then 1 else 0)
      else if 0x700428 ≤ a ∧ a < 0x700600 ∧ (a - 0x700428) % 0x40 = 0 then
        BitVec.ofNat 32 (d.speedNow ((a - 0x700428) / 0x40))
      else if a = R.TIM_STATUS then
        putBits (d.reg a) 4 1 (if d.bit ⟨R.NET_STATUS, 1, 1⟩ then d.fld ⟨R.NET_STATUS, 0, 1⟩ else 0)
      else if a = R.MEM_Ss_STATUS 0 ∨ a = R.MEM_Ss_STATUS 1 then
        putBits (d.reg a) 16 16 (d.dataRate ((a - R.MEM_Ss_STATUS 0) / 0x40))
      else if a = R.MEM_Ss_PEAK 0 ∨ a = R.MEM_Ss_PEAK 1 then
        putBits (d.reg a) 0 11 (max (d.fld ⟨a, 0, 11⟩) (d.heldBy ((a - R.MEM_Ss_PEAK 0) / 0x40)))
      else if 0x210024 ≤ a ∧ a < 0x230024 ∧ (a - 0x210024) % 0x1000 = 0 then
        putBits (d.reg a) 0 24 (max (d.fld ⟨a, 0, 24⟩) (d.fld ⟨a - 4, 0, 24⟩))
      else if a = R.SHF_OPEN_PEAK then putBits (d.reg a) 0 21 (max (d.fld ⟨a, 0, 21⟩) d.shf.openNow)
      else if a = R.SEC_TRIAL then putBits (d.reg a) 16 16 d.trialLeft
      else if a = R.PWR_STATUS then putBits (d.reg a) 4 1 (if d.stagingOld then 1 else 0)
      else d.reg a
  else 0

/-- A host read of a register (R7, R9): it returns the value, clears an RC register, and a read of a _LO word latches its
_HI word until that is read. -/
def hostRead (d : Dev) (a : Nat) : Word × Dev :=
  match tget noneAt d.latch a with
  | some w => (w, { d with latch := tset noneAt d.latch a none })
  | none =>
    let v := readReg d a
    match regRow a with
    | none => (v, d)
    | some r =>
      let d := if r.access = .rc ∧ present d.variant a then d.setReg a (resetWord a) else d
      let d := if r.pair = 1 ∧ present d.variant a then
        { d with latch := tset noneAt d.latch (a + 4) (some (readReg d (a + 4))) } else d
      (v, d)

/-- The bytes of registers as read, in the order given, counters not cleared. -/
def Dev.regsBytes (d : Dev) (as : List Nat) : List Byte := as.flatMap (fun a => wordBytes (readReg d a))

/-- Addresses `a`, `a + 4`, … of `n` registers. -/
def addrs (a n : Nat) : List Nat := (List.range n).map (fun i => a + 4 * i)

/-- The addresses of the listed registers from `lo` to `hi`, ascending. -/
def listedIn (lo hi : Nat) : List Nat := (addrs lo ((hi - lo) / 4 + 1)).filter (fun a => (regRow a).isSome)

end Sys2Proof.Machine
end

