-- ==== Sys2Proof/Machine/Mailbox.lean ====
section
/-! DEFINITION. The mailbox (R356 to R361): the doorbell, the checks that every command passes, and what a command's act may
end in. Each mailbox command's meaning is one use of `Dev.mailbox` (or `mailboxNv`). -/

namespace Sys2Proof.Machine

/-! ### Status codes (Table 16-8) -/

def stOk : Nat := 0x0000
def stBadCode : Nat := 0x0001
def stBadArg : Nat := 0x0002
def stBadState : Nat := 0x0003
def stUnitAbsent : Nat := 0x0004
def stConflict : Nat := 0x0005
def stDenied : Nat := 0x0006
def stNotFound : Nat := 0x0007
def stNotInHistory : Nat := 0x0008
def stTooFar : Nat := 0x0009
def stOutOfSpace : Nat := 0x000A
def stMemErr : Nat := 0x000B
def stHostFault : Nat := 0x000C
def stNoReply : Nat := 0x0010
def stBadNet : Nat := 0x0011
def stNoGain : Nat := 0x0012
def stVerifyFail : Nat := 0x0013
def stUpdBusy : Nat := 0x0020
def stRefusedMoving : Nat := 0x0021
def stRefusedHoldup : Nat := 0x0022
def stRefusedLocked : Nat := 0x0023
def stRefusedCal : Nat := 0x0024
def stCamError : Nat := 0x0400

/-- What a command's act ends in. A refused command changes nothing (R358); the exceptions that a command table states
carry the device they leave. -/
inductive Act where
  /-- carried out: status OK, with the response bytes -/
  | ok (d : Dev) (resp : List Byte)
  /-- ended with another status: nothing changed -/
  | fail (status : Nat)
  /-- ended with another status, with the changes and the response its own table states -/
  | failWith (status : Nat) (d : Dev) (resp : List Byte)
  /-- it goes on until something answers it by its number, which is `hif.taken` while its act runs -/
  | wait (d : Dev)

/-- BUSY in MB_STATUS. -/
def Dev.mbBusy (d : Dev) : Bool := d.bit ⟨R.MB_STATUS, 0, 1⟩

/-- The owner session is open: OWN_SESSION in HIF_STATUS (R435). -/
def Dev.ownSession (d : Dev) : Bool := d.bit ⟨R.HIF_STATUS, 2, 1⟩

/-- INSP_READY in GLB_STATUS. -/
def Dev.inspReady (d : Dev) : Bool := d.bit ⟨R.GLB_STATUS, 0, 1⟩

/-- The host writes the argument words into MB_REQ from offset 0 and the tag into MB_TAG (R356). -/
def Dev.mbWrite (d : Dev) (tag : Word) (args : List Word) : Dev :=
  ((List.range args.length).foldl (fun d i => d.setReg (R.MB_REQ i) (args.getD i 0)) d).setReg R.MB_TAG tag

/-- The doorbell sets BUSY and clears DONE, and the running command takes the tag and a number of its own (R356). -/
def Dev.mbStart (d : Dev) (code : Nat) (tag : Word) : Dev :=
  let d := (d.put ⟨R.MB_STATUS, 0, 1⟩ 1).put ⟨R.MB_STATUS, 1, 1⟩ 0
  { d with hif := { d.hif with
      running := some { tag := tag, id := d.hif.taken + 1, reply := none, code := code }, taken := d.hif.taken + 1 } }

/-- The running command's status and response are known; MAILBOX_COMPLETION hands them to the host. -/
def Dev.mbReply (d : Dev) (status : Nat) (resp : List Byte) : Dev :=
  { d with hif := { d.hif with running := d.hif.running.map (fun r => { r with reply := some (status, resp) }) } }

/-- A doorbell write while BUSY is 1 is dropped and raises DB_OVERRUN (R357). -/
def Dev.dbOverrun (d : Dev) : Dev := d.sticky ⟨R.HIF_EVENT, 3, 1⟩ 1 true

/-- The checks that every command passes before it acts (R358, R413), in order: the argument length, the owner session
where the command is marked "OWN session only", and INSP_READY for groups other than 0x01, 0x0F and 0x10. -/
def Dev.mbCheck (d : Dev) (code : Nat) (own lenOk : Bool) : Option Nat :=
  if !lenOk then some stBadArg
  else if own && !d.ownSession then some stDenied
  else if !d.inspReady && !(code / 0x100 == 0x01 || code / 0x100 == 0x0F || code / 0x100 == 0x10) then some stBadState
  else none

/-- The end of an act, with `d0` the device before it. A response longer than 262,144 bytes is not produced (R357). -/
def Act.settle (d0 : Dev) : Act → Dev
  | .ok d resp => if 262144 < resp.length then d0.mbReply stBadArg [] else d.mbReply stOk resp
  | .fail st => d0.mbReply st []
  | .failWith st d resp => d.mbReply st resp
  | .wait d => d

/-- One mailbox command: arguments and tag written, doorbell rung, checks, act. -/
def Dev.mailbox (d : Dev) (code : Nat) (own lenOk : Bool) (tag : Word) (args : List Word) (act : Dev → Act) : Dev :=
  let d := d.mbWrite tag args
  if d.mbBusy then d.dbOverrun
  else
    let d := d.mbStart code tag
    match d.mbCheck code own lenOk with
    | some st => d.mbReply st []
    | none => (act d).settle d

/-- One mailbox command whose act may write fuses or flash: `act` answers its end and the memories after it. -/
def mailboxNv (code : Nat) (own lenOk : Bool) (tag : Word) (args : List Word) (act : Dev → NonVol → Act × NonVol)
    (d : Dev) (n : NonVol) : Dev × NonVol :=
  let d := d.mbWrite tag args
  if d.mbBusy then (d.dbOverrun, n)
  else
    let d := d.mbStart code tag
    match d.mbCheck code own lenOk with
    | some st => (d.mbReply st [], n)
    | none => ((act d n).1.settle d, (act d n).2)

/-- A command that has no reply yet ends with a status and a response. -/
def Running.answered (r : Running) (id status : Nat) (resp : List Byte) : Running :=
  if r.id = id ∧ r.reply = none then { r with reply := some (status, resp) } else r

/-- The waiting command of a number ends with a status and a response, the one at the mailbox or one whose host has detached
(R354). -/
def Dev.mbAnswer (d : Dev) (id status : Nat) (resp : List Byte) : Dev :=
  { d with hif := { d.hif with running := d.hif.running.map (fun r => r.answered id status resp),
                               old := d.hif.old.map (fun r => r.answered id status resp) } }

/-- The numbers of the commands of a code that wait. -/
def Dev.mbWaiting (d : Dev) (code : Nat) : List Nat :=
  ((d.hif.old ++ d.hif.running.toList).filter (fun r => decide (r.code = code) && decide (r.reply = none))).map (·.id)

/-- Every waiting command of a code ends. -/
def Dev.mbAnswerAll (d : Dev) (code status : Nat) (resp : List Byte) : Dev :=
  (d.mbWaiting code).foldl (fun d id => d.mbAnswer id status resp) d

/-- WR_DENIED in GLB_ERR: vector 1 is requested when it newly sets (R10, Table 16-3). -/
def Dev.denied (d : Dev) : Dev := d.sticky ⟨R.GLB_ERR, 0, 1⟩ 1 true

/-- A direct host write to a register takes effect only where the variant has the unit (R2). -/
def Dev.hostWriteTo (d : Dev) (a : Nat) (f : Dev → Dev) : Dev := if present d.variant a then f d else d

end Sys2Proof.Machine
end

