-- ==== Sys2Proof/Machine/Time.lean ====
section
/-! DEFINITION. The time unit: the four bases and their tick, snapshots, adjustment, time-compare slots, the PTP clocks and
the servo, and pulse per second (R293 to R319). -/

namespace Sys2Proof.Machine

/-! ### The bases (R293 to R300) -/

/-- Replace a base. -/
def Dev.setBase (d : Dev) (b : Nat) (t : TimeBase) : Dev :=
  match b with
  | 0 => { d with tim := { d.tim with tb0 := t } }
  | 1 => { d with tim := { d.tim with tb1 := t } }
  | 2 => { d with tim := { d.tim with tb2 := t } }
  | _ => { d with tim := { d.tim with tb3 := t } }

/-- FREQ of a base, in 2^-16 ppb; 0 for TB2 (R294). -/
def Dev.freq (d : Dev) (b : Nat) : Int :=
  match b with
  | 0 => toSigned 32 (d.reg 0x900060).toNat
  | 1 => toSigned 32 (d.reg 0x900064).toNat
  | 2 => 0
  | _ => toSigned 32 (d.reg R.TIM_TB3_FREQ).toNat

/-- The increment of one 0.8 ns tick in 2^-32 ns, rounded down (R294). -/
def tickFloor (f : Int) : Nat := (3435973837 + 3435973837 * f / (65536 * 1000000000)).toNat

/-- Is the increment at this FREQ no whole number? -/
def tickOdd (f : Int) : Bool := 3435973837 * f % (65536 * 1000000000) != 0

/-- The increment of one tick (R294): exact at FREQ 0; otherwise the exact value rounded one way or the other, which the
manual leaves open. -/
def tickIncr (f : Int) (phase : Nat) : Nat := tickFloor f + (if tickOdd f && Config.incrRound f phase then 1 else 0)

/-- The increment of `k` ticks in a row. -/
def ticksIncr (f : Int) (phase k : Nat) : Nat :=
  k * tickFloor f + (if tickOdd f then min k (Config.advRound f phase k) else 0)

/-- Add a count of 2^-32 ns to a base, with carries (R294). -/
def TimeBase.add (t : TimeBase) (n : Nat) : TimeBase :=
  let f := t.frac + n
  let ns := t.ns + f / 2 ^ 32
  { sec := (t.sec + ns / 1000000000) % 2 ^ 48, ns := ns % 1000000000, frac := f % 2 ^ 32 }

/-- A base as a count of 2^-32 ns. -/
def TimeBase.total (t : TimeBase) : Int := ((t.linear * 2 ^ 32 + t.frac : Nat) : Int)

/-- A count of 2^-32 ns as a base. -/
def TimeBase.ofTotal (v : Int) : TimeBase :=
  let n := v.toNat
  { sec := n / 2 ^ 32 / 1000000000, ns := n / 2 ^ 32 % 1000000000, frac := n % 2 ^ 32 }

/-- May a base be set to this value? Its seconds must stay below 2^47 (R296), and no base runs below zero. -/
def baseOk (v : Int) : Bool := decide (0 ≤ v) && decide (v / 2 ^ 32 / 1000000000 < 2 ^ 47)

/-- TB3_SLEW shows the part of a slew that remains, in ns (R299). -/
def Dev.setSlew (d : Dev) (v : Int) : Dev :=
  ({ d with tim := { d.tim with slew := v } }).setReg R.TIM_TB3_SLEW (BitVec.ofNat 32 (ofSigned 32 (Int.tdiv v (2 ^ 32))))

/-- One tick of the time clock: every base advances, and a slew of TB3 adds ±1,000 ppm until its offset is absorbed
(R293, R294, R299). -/
def Dev.tick (d : Dev) : Dev :=
  let t := d.tim
  let one (b : Nat) (x : TimeBase) : TimeBase := x.add (tickIncr (d.freq b) x.frac)
  let part : Int := clampInt (-3435973) 3435973 t.slew
  let tb3 := one 3 t.tb3
  let tb3 := if part = 0 then tb3 else TimeBase.ofTotal (tb3.total + part)
  let d := { d with tim := { t with tb0 := one 0 t.tb0, tb1 := one 1 t.tb1, tb2 := one 2 t.tb2, tb3 := tb3 } }
  if part = 0 then d else d.setSlew (t.slew - part)

/-- `k` ticks of the time clock at once. -/
def Dev.ticks (d : Dev) (k : Nat) : Dev :=
  let t := d.tim
  let many (b : Nat) (x : TimeBase) : TimeBase := x.add (ticksIncr (d.freq b) x.frac k)
  let part : Int := clampInt (-(3435973 * (k : Int))) (3435973 * (k : Int)) t.slew
  let tb3 := many 3 t.tb3
  let tb3 := if part = 0 then tb3 else TimeBase.ofTotal (tb3.total + part)
  let d := { d with tim := { t with tb0 := many 0 t.tb0, tb1 := many 1 t.tb1, tb2 := many 2 t.tb2, tb3 := tb3 } }
  if part = 0 then d else d.setSlew (t.slew - part)

/-- Ticks that a base needs to gain `gap` units of 2^-32 ns, a running slew of TB3 included. -/
def Dev.ticksFor (d : Dev) (b gap : Nat) : Nat :=
  let r := tickFloor (d.freq b)
  let up (n k : Nat) : Nat := (n + k - 1) / k
  if b = 3 ∧ d.tim.slew ≠ 0 then
    let r1 : Nat := if 0 < d.tim.slew then r + 3435973 else r - 3435973
    let ks := up d.tim.slew.natAbs 3435973
    if gap ≤ ks * r1 then up gap r1
    else ks + up ((gap : Int) - (ks * r : Nat) - d.tim.slew).toNat r
  else up gap r

/-- The time at which base `b` reads `ns`: when the base stands before it, the time clock runs on to the first tick at which it
does not (R34, R301; DESIGN CHOICE, assumption 9). -/
def Dev.passBase (d : Dev) (b ns : Nat) : Dev :=
  if ns ≤ (d.base b).linear then d else d.ticks (d.ticksFor b (ns * 2 ^ 32 - (d.base b).total.toNat))

/-- A timeout that started at TB2 `t` expires `ns` later (R34). -/
def Dev.expire (d : Dev) (t ns : Nat) : Dev := d.passBase 2 (t + ns)

/-- What a step does when no command waits: the time clock ticks, 0.8 ns of it, unless the device is held in reset or gated off (R293).
DESIGN CHOICE, assumption 5. -/
def idle (s : State) : State :=
  if s.dev.off || !s.dev.glb.started then s else { s with dev := s.dev.tick }

/-- A TIM_EVENT bit sets; it interrupts when enabled (vector 20). -/
def Dev.timEvent (d : Dev) (bit : Nat) : Dev := d.sticky ⟨R.TIM_EVENT, bit, 1⟩ 20 (d.bit ⟨R.TIM_IRQ_EN, bit, 1⟩)

/-- Capture a base's parts into four registers, fraction in 1/65,536 ns (R296, R297). -/
def Dev.capture (d : Dev) (a b : Nat) : Dev :=
  let s := (d.base b).stamp
  (((d.setReg a (BitVec.ofNat 32 s.sec)).setReg (a + 4) (BitVec.ofNat 32 (s.sec / 2 ^ 32))).setReg (a + 8)
    (BitVec.ofNat 32 s.ns)).setReg (a + 12) (BitVec.ofNat 32 s.frac)

/-- A snapshot of the named bases at one tick (R297). -/
def Dev.snap (d : Dev) (mask : Nat) : Dev :=
  (List.range 4).foldl (fun d b => if mask / 2 ^ b % 2 = 1 then d.capture (0x900020 + 0x10 * b) b else d) d

/-! ### Time-compare slots (R301 to R306) -/

/-- The full difference of a target from a base's linear count lies in the window of R302. -/
def inWindow (diff : Int) : Bool := decide (diff < 2 ^ 39) && decide (-(2 ^ 39) ≤ diff)

def Dev.tcBase (d : Dev) (n : Nat) : Nat := d.fld ⟨R.TIM_TCn_CFG n, 1, 2⟩
def tcArmed (n : Nat) : Fld := ⟨R.TIM_TCn_STATUS n, 0, 1⟩
def tcFired (n : Nat) : Fld := ⟨R.TIM_TCn_STATUS n, 1, 1⟩
def tcPast (n : Nat) : Fld := ⟨R.TIM_TCn_STATUS n, 2, 1⟩
def tcStepped (n : Nat) : Fld := ⟨R.TIM_TCn_STATUS n, 3, 1⟩
def tcTooFar (n : Nat) : Fld := ⟨R.TIM_TCn_STATUS n, 4, 1⟩

/-- PERIOD of a slot; below 1,000 ns but not 0 it is treated as 1,000 ns (R304). -/
def Dev.tcPeriod (d : Dev) (n : Nat) : Nat :=
  let p := d.reg64 (R.TIM_TCn_PERIOD_LO n)
  if p ≠ 0 ∧ p < 1000 then 1000 else p

/-- The difference of a target from the slot's base now. -/
def Dev.tcDiff (d : Dev) (n tgt : Nat) : Int := (tgt : Int) - ((d.base (d.tcBase n)).linear : Int)

/-- A target outside the window of R302 is refused: TOO_FAR is set and raised. -/
def Dev.tcRefuse (d : Dev) (n : Nat) : Dev := (d.put (tcTooFar n) 1).timEvent 7

/-- The difference that the compare logic sees: the low 40 bits, signed (R301). -/
def Dev.tcDiff40 (d : Dev) (n tgt : Nat) : Int := toSigned 40 (d.tcDiff n tgt % 2 ^ 40).toNat

/-- Arm a slot with a full target inside the window; a target reached at that moment sets PAST (R303). -/
def Dev.tcArm (d : Dev) (n tgt : Nat) : Dev :=
  let d := d.setReg (R.TIM_TCn_STATUS n) 0
  let d := { d with tim := { d.tim with tgt := tset (fun _ => 0) d.tim.tgt n tgt } }
  (d.put (tcArmed n) 1).putBit (tcPast n) (decide (d.tcDiff n tgt ≤ 0))

/-- The next target of a periodic slot: the previous one plus PERIOD, or the first strictly ahead of the base, with the
number of periods passed over (R304). -/
def nextPeriodic (tgt period now : Nat) : Nat × Nat :=
  let t1 := tgt + period
  if now < t1 then (t1, 0)
  else
    let skip := (now - t1) / period + 1
    (t1 + skip * period, skip)

/-- A slot fires (R303, R304): producer 0x6 n, FIRED, the interrupt, and the next target or disarming. -/
def Dev.tcFire (d : Dev) (n : Nat) : Dev :=
  let d := d.put (tcFired n) 1
  let d := if d.bit ⟨R.TIM_TCn_CFG n, 4, 1⟩ then d.irq 20 else d
  let d :=
    if d.bit ⟨R.TIM_TCn_CFG n, 3, 1⟩ && d.tcPeriod n != 0 then
      let nx := nextPeriodic (tget (fun _ => 0) d.tim.tgt n) (d.tcPeriod n) (d.base (d.tcBase n)).linear
      ({ d with tim := { d.tim with tgt := tset (fun _ => 0) d.tim.tgt n nx.1 } }).bumpBy ⟨R.TIM_TCn_SKIP n, 0, 32⟩ nx.2
    else (d.put (tcArmed n) 0)
  d.raise 0x6 n

/-- An armed slot of a base that has just stepped tests the new value in that tick (R305). -/
def Dev.tcStep (d : Dev) (b n : Nat) : Dev :=
  if d.bit (tcArmed n) && d.tcBase n == b then
    let diff := d.tcDiff n (tget (fun _ => 0) d.tim.tgt n)
    if !inWindow diff then (d.put (tcArmed n) 0).tcRefuse n
    else if diff ≤ 0 then (d.tcFire n).put (tcStepped n) 1
    else d
  else d

/-- A base steps at one tick: every consumer sees the whole new value (R300, R305), and PPS_OUT marks whole seconds strictly after
it (R316). -/
def Dev.stepBase (d : Dev) (b : Nat) (t : TimeBase) : Dev :=
  let d := d.setBase b t
  (List.range 16).foldl (fun d n => d.tcStep b n)
    { d with tim := { d.tim with marked := tset (fun _ => 0) d.tim.marked b t.sec } }

/-! ### The servo (R312 to R314) -/

def lockedBit (b : Nat) : Fld := ⟨R.TIM_STATUS, b, 1⟩
def holdoverBit (b : Nat) : Fld := ⟨R.TIM_STATUS, 2 + b, 1⟩

def Dev.lockRun (d : Dev) (b : Nat) : Nat := if b = 0 then d.tim.run0 else d.tim.run1

def Dev.setLockRun (d : Dev) (b n : Nat) : Dev :=
  if b = 0 then { d with tim := { d.tim with run0 := n } } else { d with tim := { d.tim with run1 := n } }

/-- A base gains lock: TBb_LOCK, and for TB0 producer 0x6 17 (R314). -/
def Dev.lock (d : Dev) (b : Nat) : Dev :=
  if d.bit (lockedBit b) then d else
    let d := (d.put (lockedBit b) 1).timEvent (2 * b)
    if b = 0 then (d.trialNote 3).raise 0x6 17 else d

/-- A base loses lock: TBb_UNLOCK, and for TB0 producer 0x6 18 (R314). -/
def Dev.unlock (d : Dev) (b : Nat) : Dev :=
  if d.bit (lockedBit b) then
    let d := (d.put (lockedBit b) 0).timEvent (2 * b + 1)
    if b = 0 then d.raise 0x6 18 else d
  else d

/-- A step of TB0 or TB1 by an offset in 2^-32 ns: TB_STEP and a log entry; refused when the value would leave its range
(R296, R300); the base is no longer locked (R314). -/
def Dev.servoStep (d : Dev) (b : Nat) (offset : Int) : Dev :=
  let v := (d.base b).total + offset
  if baseOk v then
    let d := d.stepBase b (TimeBase.ofTotal v)
    let d := (d.timEvent 4).logPut 0x09 .tbStep [b, ofSigned 64 (offset / 2 ^ 32), d.now2]
    (d.setLockRun b 0).unlock b
  else d

/-- One measurement of a base: `ofs` is its offset from the source in 2^-16 ns (R313, R314). -/
def Dev.measure (d : Dev) (b : Nat) (ofs : Int) : Dev :=
  let ns : Int := ofs / 65536
  let d := d.setReg (0x900088 + 4 * b) (BitVec.ofNat 32 (ofSigned 32 ns))
  let wasHold := d.bit (holdoverBit b)
  let d := d.put (holdoverBit b) 0
  let d := if wasHold && !d.bit (lockedBit b) then d.setLockRun b 0 else d
  let stepTh : Int := (d.fld ⟨R.TIM_SERVO_TIME, 16, 16⟩ : Int) * 1000 * 65536
  let lockTh : Int := (d.fld ⟨R.TIM_SERVO_LOCK, 0, 16⟩ : Int) * 65536
  let unlockTh : Int := (d.fld ⟨R.TIM_SERVO_LOCK, 16, 16⟩ : Int) * 65536
  let lockN := max 1 (d.fld ⟨R.TIM_SERVO_TIME, 0, 8⟩)
  let a : Int := (ofs.natAbs : Int)
  let d := { d with tim := { d.tim with meas := tset noneAt d.tim.meas b (some d.now2) } }
  let d := if unlockTh < a then d.unlock b else d
  if stepTh < a then (d.setLockRun b 0).servoStep b (-(ofs * 65536))
  else
    let f := clampInt (-(32768 * 65536)) (2 ^ 31 - 1) (Config.servoFreq (d.freq b) ofs)
    let d := d.setReg (0x900060 + 4 * b) (BitVec.ofNat 32 (ofSigned 32 f))
    let run := if a ≤ lockTh then d.lockRun b + 1 else 0
    let d := d.setLockRun b (min run 256)
    if lockN ≤ run then d.lock b else d

/-- At the first missed measurement the base enters HOLDOVER (R314). -/
def Dev.holdover (d : Dev) (b : Nat) : Dev := d.put (holdoverBit b) 1

/-- TB0_SRC, 3 treated as 0 (R313). -/
def Dev.tb0Src (d : Dev) : Nat := if d.fld ⟨R.TIM_CFG, 0, 2⟩ = 3 then 0 else d.fld ⟨R.TIM_CFG, 0, 2⟩

/-- Is a domain steering its base: DOMAIN0 with TB0_SRC PTP, DOMAIN1 with TB1_SRC PTP (R307, R313)? -/
def Dev.ptpSteers (d : Dev) (dm : Nat) : Bool :=
  if dm = 0 then d.tb0Src == 1 else d.bit ⟨R.TIM_CFG, 2, 1⟩

/-- Is a port the one whose measurements the servo uses: the active port, when there is one (R312)? -/
def Dev.servoUses (d : Dev) (p : Nat) : Bool := d.bit ⟨R.NET_STATUS, 1, 1⟩ && d.fld ⟨R.NET_STATUS, 0, 1⟩ == p

/-! ### PTP (R307 to R311) -/

def ptpInit (_ : Nat) : PtpClock := {}
def Dev.ptp (d : Dev) (p dm : Nat) : PtpClock := tget ptpInit d.tim.ptp (2 * p + dm)
def Dev.setPtp (d : Dev) (p dm : Nat) (c : PtpClock) : Dev :=
  { d with tim := { d.tim with ptp := tset ptpInit d.tim.ptp (2 * p + dm) c } }

/-- DOMAIN0 or DOMAIN1 of TIM_PTP_CFG. -/
def Dev.ptpDomain (d : Dev) (dm : Nat) : Nat := d.fld ⟨R.TIM_PTP_CFG, 8 * dm, 8⟩

/-- DELAY_MECH is peer-to-peer (R307). -/
def Dev.ptpPeer (d : Dev) : Bool := d.bit ⟨R.TIM_PTP_CFG, 16, 1⟩

/-- TRANSPORT is UDP over IPv4 (R307). -/
def Dev.ptpUdp (d : Dev) : Bool := d.bit ⟨R.TIM_PTP_CFG, 17, 1⟩

/-- The clock that a domain number belongs to: DOMAIN0's, or DOMAIN1's while TB1_SRC is PTP (R307). -/
def Dev.ptpClockOf (d : Dev) (num : Nat) : Option Nat :=
  if num = d.ptpDomain 0 then some 0
  else if num = d.ptpDomain 1 ∧ d.bit ⟨R.TIM_CFG, 2, 1⟩ then some 1 else none

/-- Does the port have a clock in that domain, and a link to exchange messages over (R307, R332)? -/
def Dev.ptpOn (d : Dev) (p dm : Nat) : Bool :=
  decide (p < d.variant.netPorts) && d.netLink p && (dm == 0 || (dm == 1 && d.bit ⟨R.TIM_CFG, 2, 1⟩))

/-- Count a message by its type (R307). -/
def PtpClock.count (c : PtpClock) (ty : Nat) : PtpClock :=
  { c with counts := tset (fun _ => 0) c.counts ty (tget (fun _ => 0) c.counts ty + 1) }

/-- A PTP message of type `ty` comes to a port: by the TRANSPORT in use and in a domain of the device it is counted and acted on;
any other is no frame that the port takes (R307, R323). -/
def Dev.ptpIn (d : Dev) (p num ty : Nat) (w : NetWire) (act : Dev → Nat → Dev) : Dev :=
  d.netIn p w (fun d =>
    match d.ptpClockOf num with
    | some dm => if w.udp = d.ptpUdp then act (d.setPtp p dm ((d.ptp p dm).count ty)) dm else d.netDiscard p
    | none => d.netDiscard p)

/-- Picoseconds as 2^-16 ns, rounded down. -/
def psTo16 (ps : Int) : Int := ps * 65536 / 1000

/-- A base moved by picoseconds, in 2^-16 ns rounded down (R308, R311, Table 14-4). -/
def TimeBase.stamp16 (t : TimeBase) (ps : Int) : Int := (t.total * 1000 + ps * 2 ^ 32) / 65536000

/-- Receive stamps on TB0 and TB1: t_pcs − RX_LAT − RX_ADJ (R308). -/
def Dev.rxStamps (d : Dev) (p : Nat) : Int × Int :=
  let ps : Int := -((d.reg (R.TIM_Pp_RX_LAT p)).toNat : Int) - toSigned 16 (d.fld ⟨R.TIM_Pp_ADJ p, 16, 16⟩)
  (d.tim.tb0.stamp16 ps, d.tim.tb1.stamp16 ps)

/-- Transmit stamps on TB0 and TB1: t_pcs + TX_LAT + TX_ADJ, at an instant `later` picoseconds from now (R308). -/
def Dev.txStamps (d : Dev) (p : Nat) (later : Int) : Int × Int :=
  let ps : Int := later + ((d.reg (R.TIM_Pp_TX_LAT p)).toNat : Int) + toSigned 16 (d.fld ⟨R.TIM_Pp_ADJ p, 0, 16⟩)
  (d.tim.tb0.stamp16 ps, d.tim.tb1.stamp16 ps)

/-- The stamp of a domain's own base. -/
def ofDomain (dm : Nat) (x : Int × Int) : Int := if dm = 0 then x.1 else x.2

/-- DELAY_ASYM in 2^-16 ns (R309). -/
def Dev.asym (d : Dev) (p : Nat) : Int := psTo16 (toSigned 32 (d.reg (R.TIM_Pp_ASYM p)).toNat)

/-- A stamp lost at its crossing: the exchange is discarded and counted (R30, R310). -/
def Dev.stampLost (d : Dev) (p : Nat) : Dev := ((d.xingDrop 18 1).bump ⟨R.TIM_STAMP_LOST, 16 * p, 16⟩).timEvent 6

/-- A PTP message leaves a port: one-step, its tag that of every frame, the UDP checksum 0 on IPv4 (R311, R322). Its frame check
sequence is right for what it carries. -/
def Dev.ptpSend (d : Dev) (p dm ty : Nat) (fields : List Int) : Dev :=
  (d.netTx p).emit (.ptp p (d.netTag p) (if d.ptpUdp then some 0 else none) (d.ptpDomain dm) ty false fields)

/-- A duration of 2^l seconds, times `n`, in ns. -/
def logNs (l : Int) (n : Nat) : Nat := if 0 ≤ l then n * 1000000000 * 2 ^ l.toNat else n * 1000000000 / 2 ^ (-l).toNat

/-- The default best master clock comparison of IEEE 1588: is `a` better than `b` (R307)? PRESUMED (assumption 14). -/
def annKey (a : AnnounceMsg) : List Nat :=
  [a.prio1, a.clockClass, a.accuracy, a.variance, a.prio2, a.grandmaster, a.steps, a.source]

def lexLt : List Nat → List Nat → Bool
  | [], _ => false
  | _, [] => false
  | x :: xs, y :: ys => if x < y then true else if y < x then false else lexLt xs ys

def annBetter (a b : AnnounceMsg) : Bool := lexLt (annKey a) (annKey b)

/-- Does a message come from the chosen master of the clock? -/
def PtpClock.fromMaster (c : PtpClock) (source : Nat) : Bool :=
  match c.master with
  | some m => m.source == source
  | none => false

/-- The servo takes a complete exchange of a port and domain: the active port steers, the standby port only reports
(R312). -/
def Dev.ptpMeasure (d : Dev) (p dm : Nat) (offset path : Int) : Dev :=
  let c := d.ptp p dm
  let d := d.setPtp p dm { c with offset := offset, path := some path }
  if d.ptpSteers dm && d.servoUses p then
    (d.setReg (0x900090 + 4 * dm) (BitVec.ofNat 32 (ofSigned 32 (path / 65536)))).measure dm offset
  else d

/-- A Sync whose origin is known: t1 and t2 with corrections applied. In the peer-to-peer profile it completes a
measurement with the path delay known; with delay request-response it waits for the Delay_Resp (R307, R313). -/
def Dev.syncComplete (d : Dev) (p dm : Nat) (origin rx : Int) : Dev :=
  let d := d.setPtp p dm { d.ptp p dm with syncDone := some (origin, rx), syncRx := none }
  if d.ptpPeer then
    match (d.ptp p dm).path with
    | some path => d.ptpMeasure p dm (rx - origin - path - d.asym p) path
    | none => d
  else d

/-- A Sync (R308, R310); intervals beyond 2^-7 to 2^1 s are not supported (Table 14-2). -/
def Dev.sync (d : Dev) (p dm seq source : Nat) (twoStep : Bool) (origin corr logInt : Int) (lost : Bool) : Dev :=
  if (d.ptp p dm).fromMaster source ∧ -7 ≤ logInt ∧ logInt ≤ 1 then
    if lost && d.xingFull then d.stampLost p
    else
      let at_ := d.rxStamps p
      let rx := ofDomain dm at_
      let d := d.setPtp p dm { d.ptp p dm with logSync := logInt, rxAt := some at_ }
      if twoStep then d.setPtp p dm { d.ptp p dm with syncRx := some (rx, seq, corr) }
      else d.syncComplete p dm (origin + corr) rx
  else d

/-- A Follow_Up completes the Sync of its sequence (R307). -/
def Dev.followUp (d : Dev) (p dm seq source : Nat) (origin corr : Int) : Dev :=
  if (d.ptp p dm).fromMaster source then
    match (d.ptp p dm).syncRx with
    | some (rx, sq, c0) => if sq = seq then d.syncComplete p dm (origin + corr + c0) rx else d
    | none => d
  else d

/-- The device transmits a one-step Delay_Req: its origin stamp in whole nanoseconds, correction 0 (R311, Table 14-3). -/
def Dev.delayReq (d : Dev) (p dm : Nat) (lost : Bool) : Dev :=
  if d.ptpOn p dm && !d.ptpPeer then
    let c := d.ptp p dm
    let at_ := d.txStamps p 0
    let tx := ofDomain dm at_
    let d := d.ptpSend p dm 1 [tx / 65536, 0]
    let seq := (c.delaySeq + 1) % 65536
    if lost && d.xingFull then (d.setPtp p dm { c with delaySeq := seq, delayReq := none }).stampLost p
    else d.setPtp p dm { c with delaySeq := seq, delayReq := some (tx, c.delaySeq), txAt := some at_ }
  else d

/-- A Delay_Resp completes an exchange: path = ((t2 − t1) + (t4 − t3)) / 2 and offset = t2 − t1 − path, with corrections
and the port's asymmetry applied (R309, R313). -/
def Dev.delayResp (d : Dev) (p dm seq source : Nat) (receipt corr : Int) : Dev :=
  let c := d.ptp p dm
  match c.syncDone, c.delayReq with
  | some (t1, t2), some (t3, sq) =>
    if sq = seq ∧ c.fromMaster source = true ∧ d.ptpPeer = false then
      let fwd := t2 - t1 - d.asym p
      let bwd := receipt - corr - t3 + d.asym p
      let path := (fwd + bwd) / 2
      (d.setPtp p dm { c with delayReq := none }).ptpMeasure p dm (fwd - path) path
    else d
  | _, _ => d

/-- A Pdelay_Req is answered, in the peer-to-peer profile, with a one-step Pdelay_Resp: the correctionField received plus t3 − t2
(R311). -/
def Dev.pdelayReq (d : Dev) (p dm : Nat) (corr later8 : Int) (lost : Bool) : Dev :=
  if d.ptpPeer then
    if lost && d.xingFull then d.stampLost p
    else
      let rx := d.rxStamps p
      let tx := d.txStamps p (later8 * 125)
      let d := d.setPtp p dm { d.ptp p dm with rxAt := some rx, txAt := some tx }
      d.ptpSend p dm 3 [0, corr + (ofDomain dm tx - ofDomain dm rx)]
  else d

/-- LOG_PDELAY (TIM_PTP_CFG), log2 of seconds. -/
def Dev.logPdelay (d : Dev) : Int := toSigned 4 (d.fld ⟨R.TIM_PTP_CFG, 20, 4⟩)

/-- The LOG_PDELAY interval passes in the peer-to-peer profile: a one-step Pdelay_Req leaves (R307, R311). -/
def Dev.pdelayTimer (d : Dev) (p dm : Nat) (lost : Bool) : Dev :=
  if d.ptpOn p dm && d.ptpPeer then
    let d := match (d.ptp p dm).pdelayAt with
      | some t => d.expire t (logNs d.logPdelay 1)
      | none => d
    let c := { d.ptp p dm with pdelayAt := some d.now2 }
    let at_ := d.txStamps p 0
    let tx := ofDomain dm at_
    let d := d.ptpSend p dm 2 [tx / 65536, 0]
    let seq := (c.pdelaySeq + 1) % 65536
    if lost && d.xingFull then (d.setPtp p dm { c with pdelaySeq := seq, pdelayReq := none }).stampLost p
    else d.setPtp p dm { c with pdelaySeq := seq, pdelayReq := some (tx, c.pdelaySeq), txAt := some at_ }
  else d

/-- A peer delay measurement: mean path delay = ((t4 − t1) − (t3 − t2)) / 2 (R309). -/
def Dev.peerDelay (d : Dev) (p dm : Nat) (t1 t4 turn : Int) : Dev :=
  let path := (t4 - t1 - turn) / 2
  let d := d.setPtp p dm { d.ptp p dm with path := some path, pdelayReq := none, pdelayResp := none }
  if d.servoUses p then d.setReg (0x900090 + 4 * dm) (BitVec.ofNat 32 (ofSigned 32 (path / 65536))) else d

/-- A Pdelay_Resp is stamped; a one-step one completes the measurement (R307, R310). -/
def Dev.pdelayRespIn (d : Dev) (p dm seq : Nat) (twoStep : Bool) (receipt corr : Int) (lost : Bool) : Dev :=
  match (d.ptp p dm).pdelayReq with
  | some (t1, sq) =>
    if sq = seq ∧ d.ptpPeer = true then
      if lost && d.xingFull then d.stampLost p
      else
        let at_ := d.rxStamps p
        let t4 := ofDomain dm at_
        let d := d.setPtp p dm { d.ptp p dm with rxAt := some at_ }
        if twoStep then d.setPtp p dm { d.ptp p dm with pdelayResp := some (t4, receipt, corr, seq) }
        else d.peerDelay p dm t1 t4 corr
    else d
  | none => d

/-- A Pdelay_Resp_Follow_Up completes a two-step peer delay measurement (R307). -/
def Dev.pdelayFollowUp (d : Dev) (p dm seq : Nat) (origin corr : Int) : Dev :=
  match (d.ptp p dm).pdelayReq, (d.ptp p dm).pdelayResp with
  | some (t1, _), some (t4, t2, c0, sq) => if sq = seq then d.peerDelay p dm t1 t4 (origin - t2 + corr + c0) else d
  | _, _ => d

/-- Has the chosen master been silent for three of its Announce intervals (PRESUMED, assumption 14)? -/
def Dev.masterGone (d : Dev) (p dm : Nat) (m : AnnounceMsg) : Bool := d.timeUp (d.ptp p dm).annAt (logNs m.logInterval 3)

/-- An Announce feeds the default best master clock algorithm (R307). -/
def Dev.announce (d : Dev) (p dm : Nat) (a : AnnounceMsg) : Dev :=
  let c := d.ptp p dm
  let take : PtpClock := { c with master := some a, annAt := d.now2 }
  match c.master with
  | none => d.setPtp p dm take
  | some m =>
    if m.source = a.source then d.setPtp p dm take
    else if annBetter a m || d.masterGone p dm m then d.setPtp p dm { take with syncRx := none, syncDone := none }
    else d

/-! ### Pulse per second (R315, R316) -/

/-- The seconds that TIM_TB0_SEC_SET asked for are set at a PPS_IN edge: the edge is the nearest whole second (R313). -/
def Dev.ppsSeconds (d : Dev) : Dev :=
  match d.tim.secSet with
  | none => d
  | some v =>
    let d := { d with tim := { d.tim with secSet := none } }
    let t := d.tim.tb0
    let sec := if t.ns < 500000000 then v else v - 1
    if sec = t.sec then d else d.servoStep 0 (((sec : Int) - (t.sec : Int)) * 1000000000 * 2 ^ 32)

/-- The instant that the next PPS_IN edge is measured from (R315). -/
def Dev.setPpsAt (d : Dev) (t : Option Nat) : Dev := { d with tim := { d.tim with ppsAt := t } }

/-- A second of a base has been marked on PPS_OUT (R316). -/
def Dev.setMarked (d : Dev) (b k : Nat) : Dev := { d with tim := { d.tim with marked := tset (fun _ => 0) d.tim.marked b k } }

/-- A PPS_IN edge: a stamp on all four bases at one tick, a count, producer 0x6 16, and a measurement when it is TB0's
source (R313, R315). -/
def Dev.ppsIn (d : Dev) : Dev :=
  let d := (List.range 4).foldl (fun d b => d.capture (0x9000D0 + 0x10 * b) b) d
  let d := (d.bump ⟨R.TIM_PPSIN_CNT, 0, 32⟩).raise 0x6 16
  let d := d.setPpsAt (some d.now2)
  if d.tb0Src = 2 then
    let d := d.ppsSeconds
    let t := d.tim.tb0
    let frac16 : Int := ((t.ns * 65536 + t.frac / 65536 : Nat) : Int)
    d.measure 0 (if t.ns < 500000000 then frac16 else frac16 - 1000000000 * 65536)
  else d

/-- PPS_W, 0 treated as 1 (Table 14-5). -/
def Dev.ppsWidth (d : Dev) : Nat := max 1 (d.fld ⟨R.TIM_PPS_CFG, 16, 10⟩)

/-- PPS_OFS, held within ±500,000,000 ns (Table 14-5). -/
def Dev.ppsOfs (d : Dev) : Int := clampInt (-500000000) 500000000 (toSigned 32 (d.reg R.TIM_PPS_OFS).toNat)

/-- The next second of PPS_SRC that PPS_OUT marks: the first after the one marked last whose pulse is not already more than 2 ns
past (R316). -/
def Dev.ppsSecond (d : Dev) : Nat :=
  let b := d.fld ⟨R.TIM_PPS_CFG, 1, 2⟩
  max (tget (fun _ => 0) d.tim.marked b + 1) (((d.base b).linear - 2 - d.ppsOfs + 999999999) / 1000000000).toNat

/-! ### Meanings -/

/-- A write to TIM_SNAP (R297). -/
def execTimSnap (mask : Word) (s : State) : Res := onDev (fun d => d.snap (mask.toNat % 16)) s

/-- A write to TIM_TCn_TGT_NS arms the slot with the held seconds, after the TOO_FAR check (R302, R303, R306). -/
def execTgtNs (n : Nat) (v : Word) (s : State) : Res :=
  onDev (fun d =>
    let n := n % 16
    let d := d.setReg (R.TIM_TCn_TGT_NS n) v
    let tgt := ((d.reg (R.TIM_TCn_TGT_SEC_LO n)).toNat + d.fld ⟨R.TIM_TCn_TGT_SEC_HI n, 0, 16⟩ * 2 ^ 32) * 1000000000 + v.toNat
    if inWindow (d.tcDiff n tgt) then d.tcArm n tgt else (d.put (tcArmed n) 0).tcRefuse n) s

/-- A write to TIM_TCn_CFG with DISARM disarms the slot (R306); its plain fields are written with it. -/
def execDisarm (n : Nat) (v : Word) (s : State) : Res :=
  onDev (fun d =>
    let n := n % 16
    let d := d.put ⟨R.TIM_TCn_CFG n, 1, 4⟩ (getBits v 1 4)
    if v.toNat % 2 = 1 then d.put (tcArmed n) 0 else d) s

/-- TIM_INFO snapshots all four bases and returns them with TIM_STATUS and registers 0x0080 to 0x0094 (R319). -/
def execTimInfo (tag : Word) (args : List Word) (s : State) : Res :=
  onDev (fun d => d.mailbox 0x0901 false (args.length == 0) tag args (fun d =>
    let d := d.snap 15
    .ok d (d.regsBytes (addrs 0x900020 16 ++ [R.TIM_STATUS] ++ addrs 0x900080 6)))) s

/-- TIM_TB3_ADJ sets, steps, slews or writes FREQ of TB3 (R296, R299). -/
def execTimTb3Adj (tag : Word) (args : List Word) (s : State) : Res :=
  onDev (fun d => d.mailbox 0x0902 false (args.length == 4) tag args (fun d =>
    let v0 := args.getD 1 0
    let v1 := args.getD 2 0
    let v2 := args.getD 3 0
    let signed := toSigned 64 (word64 v0 v1)
    match (args.getD 0 0).toNat with
    | 0 =>
      let st := wordsBytes [v0, v1, v2]
      let t : TimeBase := { sec := fieldAt st 0 6, ns := fieldAt st 6 4, frac := fieldAt st 10 2 * 65536 }
      if t.ns < 1000000000 ∧ t.sec < 2 ^ 47 then .ok ((d.setSlew 0).stepBase 3 t) [] else .fail stBadArg
    | 1 =>
      let v := d.tim.tb3.total + signed * 2 ^ 32
      if baseOk v then .ok ((d.setSlew 0).stepBase 3 (TimeBase.ofTotal v)) [] else .fail stBadArg
    | 2 =>
      if -(2 ^ 31) ≤ signed ∧ signed < 2 ^ 31 then .ok (d.setSlew (signed * 2 ^ 32)) [] else .fail stBadArg
    | 3 => .ok (d.setReg R.TIM_TB3_FREQ v0) []
    | _ => .fail stBadArg)) s

/-- TIM_TC_SET writes a slot and arms it in one step, or returns TOO_FAR with only that status and event changed
(R302, R303, R306). -/
def execTimTcSet (tag : Word) (args : List Word) (s : State) : Res :=
  onDev (fun d => d.mailbox 0x0903 false (args.length == 9) tag args (fun d =>
    let a (i : Nat) : Nat := (args.getD i 0).toNat
    let n := a 0
    let tgt : Nat := (a 4 + a 5 % 65536 * 2 ^ 32) * 1000000000 + a 6
    let diff : Int := (tgt : Int) - ((d.base (a 1)).linear : Int)
    if 16 ≤ n ∨ 4 ≤ a 1 ∨ 2 ≤ a 2 ∨ 2 ≤ a 3 ∨ 65536 ≤ a 5 ∨ 1000000000 ≤ a 6 ∨ 128 ≤ a 8 then .fail stBadArg
    else if !inWindow diff then .failWith stTooFar (d.tcRefuse n) []
    else
      let d := (((d.put ⟨R.TIM_TCn_CFG n, 1, 2⟩ (a 1)).put ⟨R.TIM_TCn_CFG n, 3, 1⟩ (a 2)).put ⟨R.TIM_TCn_CFG n, 4, 1⟩ (a 3))
      let d := ((d.setReg (R.TIM_TCn_TGT_SEC_LO n) (args.getD 4 0)).setReg (R.TIM_TCn_TGT_SEC_HI n) (args.getD 5 0))
      let d := d.setReg (R.TIM_TCn_TGT_NS n) (args.getD 6 0)
      let d := (d.setReg (R.TIM_TCn_PERIOD_LO n) (args.getD 7 0)).setReg (R.TIM_TCn_PERIOD_HI n) (args.getD 8 0)
      .ok (d.tcArm n tgt) [])) s

/-- TIM_PTP_INFO returns the PTP state of a port and domain; counters are not cleared (R319). -/
def execTimPtpInfo (tag : Word) (args : List Word) (s : State) : Res :=
  onDev (fun d => d.mailbox 0x0904 false (args.length == 2) tag args (fun d =>
    let p := (args.getD 0 0).toNat
    let dm := (args.getD 1 0).toNat
    if 2 ≤ p ∨ 2 ≤ dm then .fail stBadArg
    else if d.variant.netPorts ≤ p then .fail stUnitAbsent
    else
      let c := d.ptp p dm
      let m := c.master.getD {}
      let lost := d.fld ⟨R.TIM_STAMP_LOST, 16 * p, 16⟩
      .ok d (leBytes 10 m.source ++ leBytes 8 m.grandmaster ++ leBytes 4 m.clockClass ++
        leBytes 8 (ofSigned 64 c.offset) ++ leBytes 8 (ofSigned 64 (c.path.getD 0)) ++
        [0, 2, 3, 8, 9, 10, 11, 12, 13].flatMap (fun ty => leBytes 4 (tget (fun _ => 0) c.counts ty)) ++ leBytes 4 lost))) s

/-- TIM_TB0_SEC_SET: the seconds of TB0 at the next PPS_IN edge (R313). -/
def execTimTb0SecSet (tag : Word) (args : List Word) (s : State) : Res :=
  onDev (fun d => d.mailbox 0x0905 true (args.length == 2) tag args (fun d =>
    let v := word64 (args.getD 0 0) (args.getD 1 0)
    if 2 ^ 47 ≤ v then .fail stBadArg
    else if d.tb0Src ≠ 2 then .fail stBadState
    else .ok { d with tim := { d.tim with secSet := some v } } [])) s

/-- A time-compare slot reaches its target, when the difference of R301 is 0 or less (R303); a slot no longer armed fires nothing
(R34). -/
def execTcFire (n : Nat) (s : State) : Res :=
  onDev (fun d =>
    let n := n % 16
    if d.bit (tcArmed n) then
      let tgt := tget (fun _ => 0) d.tim.tgt n
      let d := d.passBase (d.tcBase n) ((d.base (d.tcBase n)).linear + d.tcDiff40 n tgt).toNat
      if d.tcDiff40 n tgt ≤ 0 then d.tcFire n else d
    else d) s

/-- A Sync is received (R308). -/
def execSync (w : NetWire) (domain seq source : Nat) (twoStep : Bool) (origin correction logInterval : Int) (lost : Bool)
    (s : State) : Res :=
  onDev (fun d => d.ptpIn w.port domain 0 w (fun d dm => d.sync w.port dm seq source twoStep origin correction logInterval lost)) s

/-- A Follow_Up is received (R307). -/
def execFollowUp (w : NetWire) (domain seq source : Nat) (origin correction : Int) (s : State) : Res :=
  onDev (fun d => d.ptpIn w.port domain 8 w (fun d dm => d.followUp w.port dm seq source origin correction)) s

/-- A Delay_Req leaves (R311). -/
def execDelayReq (port domain : Nat) (lost : Bool) (s : State) : Res := onDev (fun d => d.delayReq port domain lost) s

/-- A Delay_Resp is received (R313). -/
def execDelayResp (w : NetWire) (domain seq source : Nat) (receipt correction : Int) (s : State) : Res :=
  onDev (fun d => d.ptpIn w.port domain 9 w (fun d dm => d.delayResp w.port dm seq source receipt correction)) s

/-- A Pdelay_Req is received and answered (R311). -/
def execPdelayReq (w : NetWire) (domain : Nat) (correction turnaround8 : Int) (lost : Bool) (s : State) : Res :=
  onDev (fun d => d.ptpIn w.port domain 2 w (fun d dm => d.pdelayReq w.port dm correction turnaround8 lost)) s

/-- The device sends a Pdelay_Req (R307). -/
def execPdelayReqTimer (port domain : Nat) (lost : Bool) (s : State) : Res := onDev (fun d => d.pdelayTimer port domain lost) s

/-- A Pdelay_Resp is received (R307). -/
def execPdelayResp (w : NetWire) (domain seq : Nat) (twoStep : Bool) (receipt correction : Int) (lost : Bool) (s : State) :
    Res :=
  onDev (fun d => d.ptpIn w.port domain 3 w (fun d dm => d.pdelayRespIn w.port dm seq twoStep receipt correction lost)) s

/-- A Pdelay_Resp_Follow_Up is received (R307). -/
def execPdelayRespFollowUp (w : NetWire) (domain seq : Nat) (origin correction : Int) (s : State) : Res :=
  onDev (fun d => d.ptpIn w.port domain 10 w (fun d dm => d.pdelayFollowUp w.port dm seq origin correction)) s

/-- An Announce is received (R307). -/
def execAnnounce (w : NetWire) (domain : Nat) (a : AnnounceMsg) (s : State) : Res :=
  onDev (fun d => d.ptpIn w.port domain 11 w (fun d dm => d.announce w.port dm a)) s

/-- A management or signaling message is counted and not acted on (R307). -/
def execManagement (w : NetWire) (domain : Nat) (signaling : Bool) (s : State) : Res :=
  onDev (fun d => d.ptpIn w.port domain (if signaling then 12 else 13) w (fun d _ => d)) s

/-- The Sync interval that a missed measurement of base `b` is judged by: that of the last Sync received on the active port
(R314). -/
def Dev.syncNs (d : Dev) (b : Nat) : Nat := logNs (d.ptp (d.fld ⟨R.NET_STATUS, 0, 1⟩) b).logSync 4

/-- No measurement of a PTP source within four Sync intervals of the last one (R314). -/
def execHoldover (b : Nat) (s : State) : Res :=
  onDev (fun d =>
    match tget noneAt d.tim.meas b with
    | some t => if b < 2 ∧ d.ptpSteers b = true ∧ d.bit (holdoverBit b) = false then (d.expire t (d.syncNs b)).holdover b else d
    | none => d) s

/-- HOLDOVER_T in ns. -/
def Dev.holdoverNs (d : Dev) : Nat := d.fld ⟨R.TIM_SERVO_TIME, 8, 8⟩ * 100000000

/-- HOLDOVER_T since the last measurement ends LOCKED (R314). -/
def execHoldoverT (b : Nat) (s : State) : Res :=
  onDev (fun d =>
    match tget noneAt d.tim.meas b with
    | some t => if b < 2 ∧ d.bit (lockedBit b) = true then (d.expire t d.holdoverNs).unlock b else d
    | none => d) s

/-- A PPS_IN edge (R315). -/
def execPpsIn (s : State) : Res := onDev (fun d => d.ppsIn) s

/-- PPS_IN is TB0's source and no edge came within 1.1 s of the previous one: the event, and a missed measurement (R314, R315). -/
def execPpsInMiss (s : State) : Res :=
  onDev (fun d =>
    match d.tim.ppsAt with
    | some t =>
      if d.tb0Src = 2 then
        let d := d.expire t 1100000000
        ((d.setPpsAt none).timEvent 5).holdover 0
      else d
    | none => d) s

/-- PPS_OUT rises PPS_OFS ns after a second of PPS_SRC and stays high for PPS_W ms, when OUT_EN is 1 (R316). -/
def execPpsOut (s : State) : Res :=
  onDev (fun d =>
    if d.bit ⟨R.TIM_PPS_CFG, 0, 1⟩ then
      let b := d.fld ⟨R.TIM_PPS_CFG, 1, 2⟩
      let k := d.ppsSecond
      let d := d.passBase b (k * 1000000000 + d.ppsOfs).toNat
      (d.setMarked b k).emit (.ppsOut d.ppsWidth)
    else d) s

/-- A TB3 slew has absorbed its offset: TB3_SLEW reads 0 (R299). The time clock runs on until it has. -/
def execSlewAbsorbed (s : State) : Res :=
  onDev (fun d => if d.tim.slew = 0 then d else d.ticks ((d.tim.slew.natAbs + 3435972) / 3435973)) s

end Sys2Proof.Machine
end

