-- ==== Sys2Proof/Machine/Mem.lean ====
section
/-! DEFINITION. The stacked DRAM and its controllers: address decode, partitions and protection, the mirror, error
correction, poison, the freeze, the error log, request order and refresh, parity and recovery, and BAR2 (R363 to R384). -/

namespace Sys2Proof.Machine

/-! ### Addresses (R364, R367, R368) -/

/-- Where an address lies (Table 17-2). -/
structure Loc where
  stack : Nat
  pc : Nat
  sid : Nat
  bankGroup : Nat
  bank : Nat
  row : Nat
  column : Nat
deriving DecidableEq, Repr

/-- Table 17-2: address to location. -/
def decodeAddr (dual : Bool) (a : Nat) : Loc :=
  let hi := if dual then a / 2 ^ 14 else a / 2 ^ 13
  let l := a % 256 + hi % 2 ^ 23 * 256
  { stack := if dual then a / 256 % 2 else 0
    pc := if dual then (a / 2 ^ 9 % 32) ^^^ (a / 2 ^ 14 % 32) else (a / 2 ^ 8 % 32) ^^^ (a / 2 ^ 13 % 32)
    sid := l / 2 ^ 14 % 2, bankGroup := l / 2 ^ 10 % 4, bank := l / 2 ^ 12 % 4, row := l / 2 ^ 15, column := l % 1024 }

/-- Table 17-2: location to address. -/
def encodeAddr (dual : Bool) (x : Loc) : Nat :=
  let l := x.column + x.bankGroup * 2 ^ 10 + x.bank * 2 ^ 12 + x.sid * 2 ^ 14 + x.row * 2 ^ 15
  let hi := l / 256
  let sel := x.pc ^^^ (hi % 32)
  if dual then l % 256 + x.stack * 256 + sel * 2 ^ 9 + hi * 2 ^ 14 else l % 256 + sel * 2 ^ 8 + hi * 2 ^ 13

/-- Base and size in bytes of partition p (MEM_PARTp). -/
def Dev.part (d : Dev) (p : Nat) : Nat × Nat :=
  (d.fld ⟨R.MEM_PARTp_BASE p, 0, 17⟩ * 2 ^ 20, d.fld ⟨R.MEM_PARTp_SIZE p, 0, 18⟩ * 2 ^ 20)

/-- Does a range lie in a partition? -/
def Dev.inPart (d : Dev) (p a n : Nat) : Bool :=
  decide ((d.part p).1 ≤ a) && decide (a + n ≤ (d.part p).1 + (d.part p).2) && decide (0 < (d.part p).2)

/-- Does a range lie in a host partition? -/
def Dev.inHostPart (d : Dev) (a n : Nat) : Bool := (List.range 8).any (fun i => d.inPart (6 + i) a n)

/-- The partitions a requester may write (Table 17-4). -/
def reqParts : Nat → List Nat
  | 0x00 => [0]
  | 0x01 => [1, 3, 4, 5]
  | 0x02 => [1, 3, 4, 5]
  | 0x03 => [2]
  | 0x04 => [3, 4, 5]
  | 0x05 => [2]
  | 0x06 => [3, 4, 5]
  | 0x08 => [6, 7, 8, 9, 10, 11, 12, 13]
  | 0x09 => [3, 4, 5]
  | _ => []

/-- The addresses at which a range enters each 256-byte interleave granule it touches (Table 17-1), with its bytes there. -/
def granulesOf (a n : Nat) : List (Nat × Nat) :=
  if n = 0 then []
  else (List.range ((a + n - 1) / 256 - a / 256 + 1)).map (fun i =>
    let lo := max a ((a / 256 + i) * 256)
    (lo, min (a + n) ((a / 256 + i + 1) * 256) - lo))

/-- The training word of the channel of an address (Table 17-7). -/
def Dev.channelFld (d : Dev) (a bit : Nat) : Fld :=
  let x := decodeAddr d.variant.dual a
  ⟨R.MEM_TRAINs_c x.stack (x.pc / 2), bit, 1⟩

/-- Is the channel of an address in recovery (R381)? -/
def Dev.inRecovery (d : Dev) (a : Nat) : Bool := d.bit (d.channelFld a 2)

/-- Is the channel of an address under training: not trained yet, or retraining in recovery? -/
def Dev.inTraining (d : Dev) (a : Nat) : Bool := !d.bit (d.channelFld a 0) || d.inRecovery a

/-- A descriptor of a queue as the loader lays it: HEAD, TAIL, COUNT, LIMIT, TYPE; the rest is 0 (Tables 11-1, 11-2, 11-8). -/
def laidDesc (tracks q : Nat) : List Byte :=
  let ty := if q < tracks then 1 else if q < 1040384 then 0 else if q < 1044480 then 3 else if q < 1044484 then 2
    else if q = 1044484 then 4 else 0
  leBytes 8 (2 ^ 64 - 1) ++ leBytes 4 0 ++ leBytes 4 (if ty = 2 ∨ ty = 3 then 0x10000 else 0) ++ leBytes 1 ty ++ leBytes 15 0

/-- What an unlisted byte of DRAM reads as: within Shaft's areas, what the loader laid there: the descriptors, and the link words of the free
pool, each naming the next element; elsewhere what nothing has written (R222, R224). -/
def laidByte (l : Option ShaftLaid) (a : Nat) : Byte :=
  match l with
  | none => dramInit a
  | some l =>
    if l.desc ≤ a ∧ a < l.desc + 0x2000000 then (laidDesc l.tracks ((a - l.desc) / 32)).getD ((a - l.desc) % 32) 0
    else if l.link ≤ a ∧ a < l.link + 4 * l.elems then
      let i := (a - l.link) / 4
      (leBytes 4 (if i + 1 < l.elems then i + 1 else 0xFFFFFFFF)).getD ((a - l.link) % 4) 0
    else dramInit a

/-- What an unlisted byte of this DRAM reads as. -/
def MemUnit.unlisted (m : MemUnit) (a : Nat) : Byte := laidByte m.laid a

/-- The loader lays Shaft's areas: whatever stood there, and its code, is written over. -/
def Dev.layAreas (d : Dev) (l : ShaftLaid) : Dev :=
  let inside (a n : Nat) : Bool := (decide (l.desc < a + n) && decide (a < l.desc + 0x2000000)) ||
    (decide (l.link < a + n) && decide (a < l.link + 4 * l.elems))
  { d with mem := { d.mem with
    laid := some l
    cells := d.mem.cells.filter (fun c => !inside c.1 1 && c.2 != laidByte (some l) c.1)
    bad := d.mem.bad.filter (fun b => !inside (64 * b.1) 64) } }

/-- Bytes of DRAM as they stand, whatever their blocks' code says. -/
def Dev.rawRead (d : Dev) (a n : Nat) : List Byte := tgetMany d.mem.unlisted d.mem.cells a n

/-- CE_WB: corrected blocks are written back (R376). -/
def Dev.ceWb (d : Dev) : Bool := d.bit ⟨R.MEM_CFG, 1, 1⟩

/-- May a requester write these bytes? Firmware may write everything, the scrubber only write back a block as it was read, and the
training helpers a channel under training (R369, R376). -/
def Dev.mayWrite (d : Dev) (req a : Nat) (bs : List Byte) : Bool :=
  if req = 0x0B then true
  else if req = 0x0C then d.ceWb && a % 64 == 0 && bs.length == 64 && d.rawRead a 64 == bs
  else if req = 0x0D then (granulesOf a bs.length).all (fun g => d.inTraining g.1)
  else (reqParts req).any (fun p => d.inPart p a bs.length)

/-- The mirror of an address of the primary half: offset XOR 0x100 in the secondary half (R368). -/
def Dev.mirrorOf (d : Dev) (a : Nat) : Option Nat :=
  if d.variant.dual && d.inPart 4 a 1 then some ((d.part 5).1 + ((a - (d.part 4).1) ^^^ 0x100)) else none

/-! ### Events and the error log (R380) -/

/-- A MEM_EVENT bit sets; it interrupts when enabled (vector 43). -/
def Dev.memEvent (d : Dev) (bit : Nat) : Dev := d.sticky ⟨R.MEM_EVENT, bit, 1⟩ 43 (d.bit ⟨R.MEM_IRQ_EN, bit, 1⟩)

/-- FROZEN in MEM_STATUS: no request is served (R379). -/
def Dev.memFrozen (d : Dev) : Bool := d.bit ⟨R.MEM_STATUS, 1, 1⟩

def MemErr.corrected (e : MemErr) : Bool := e.ty == 1

/-- Remove the oldest corrected entry. -/
def dropOldestCe : List MemErr → List MemErr
  | [] => []
  | e :: es => if e.corrected then es else e :: dropOldestCe es

/-- MEM_LOG_STATUS follows the log. -/
def Dev.memLogStatus (d : Dev) : Dev :=
  (d.put ⟨R.MEM_LOG_STATUS, 0, 7⟩ d.mem.log.length).put ⟨R.MEM_LOG_STATUS, 8, 8⟩
    (d.mem.log.filter (fun e => !e.corrected)).length

/-- A new entry of the error log: each also writes a global log entry (R380). -/
def Dev.memLogAdd (d : Dev) (e : MemErr) (what : LogEvent) : Dev :=
  let d := ({ d with mem := { d.mem with log := d.mem.log ++ [e] } }).memLogStatus
  d.logPut 0x0C what [e.block * 64, e.syndrome]

/-- Log an error at a block (R380): a corrected one repeats at an entry of its block; a full log gives up its oldest
corrected entry; an uncorrectable one that finds none is only counted in LOST. LOG_FULL shows that the log was full. -/
def Dev.memLog (d : Dev) (ty req block syndrome symbol : Nat) (what : LogEvent) : Dev :=
  let e : MemErr := { block := block, ty := ty, req := req, syndrome := syndrome, symbol := symbol, t2 := d.now2 }
  if ty = 1 ∧ d.mem.log.any (fun x => x.corrected && x.block == block) then
    { d with mem := { d.mem with log := d.mem.log.map (fun x =>
        if x.corrected && x.block == block then { x with rep := min (x.rep + 1) (2 ^ 32 - 1) } else x) } }
  else if d.mem.log.length < 64 then d.memLogAdd e what
  else
    let d := d.memEvent 8
    if d.mem.log.any (fun x => x.corrected) then
      ({ d with mem := { d.mem with log := dropOldestCe d.mem.log } }).memLogAdd e what
    else if ty = 1 then d else d.bump ⟨R.MEM_LOG_STATUS, 16, 16⟩

/-- FATAL: GLB_STATUS bit 2 and producer 0x8 3. -/
def Dev.fatal (d : Dev) : Dev := (d.put ⟨R.GLB_STATUS, 2, 1⟩ 1).raise 0x8 3

/-! ### Cells -/

/-- Put bytes into DRAM. -/
def Dev.rawWrite (d : Dev) (a : Nat) (bs : List Byte) : Dev :=
  { d with mem := { d.mem with cells := tsetMany d.mem.unlisted d.mem.cells a bs } }

/-- The code state of a block. -/
def Dev.badAt (d : Dev) (block : Nat) : Option BadBlock := tget noneAt d.mem.bad block

def Dev.setBad (d : Dev) (block : Nat) (b : Option BadBlock) : Dev :=
  { d with mem := { d.mem with bad := tset noneAt d.mem.bad block b } }

/-- The blocks a range touches. -/
def blocksOf (a n : Nat) : List Nat := if n = 0 then [] else (List.range ((a + n - 1) / 64 - a / 64 + 1)).map (· + a / 64)

/-! ### Rows and traffic (R374, Table 17-7) -/

/-- The pseudo-channel of an address: 32 × stack + pc. -/
def Dev.pcOf (d : Dev) (a : Nat) : Nat :=
  let x := decodeAddr d.variant.dual a
  32 * x.stack + x.pc

/-- The bank of an address, as a key. -/
def Dev.bankOf (d : Dev) (a : Nat) : Nat :=
  let x := decodeAddr d.variant.dual a
  ((32 * x.stack + x.pc) * 2 + x.sid) * 16 + x.bankGroup * 4 + x.bank

/-- CLOSE_PAGE of a stack (R374). -/
def closePage (s : Nat) : Fld := ⟨R.MEM_Ss_STATUS s, 9, 1⟩

/-- An access leaves its row open, but for the states in which every row closes after an access (R374). -/
def Dev.openFor (d : Dev) (a : Nat) : Dev :=
  let x := decodeAddr d.variant.dual a
  let shut := d.bit (closePage x.stack) || d.inTraining a
  { d with mem := { d.mem with openRow := tset noneAt d.mem.openRow (d.bankOf a) (if shut then none else some x.row) } }

/-- Bytes that a stack moves now (Table 17-7). -/
def Dev.moved (d : Dev) (stack n : Nat) : Dev :=
  let (ms, now, before) := tget (fun _ => (0, 0, 0)) d.mem.traffic stack
  let t := d.now2 / 1000000
  let v := if t = ms then (ms, now + n, before) else (t, n, if t = ms + 1 then now else 0)
  { d with mem := { d.mem with traffic := tset (fun _ => (0, 0, 0)) d.mem.traffic stack v } }

/-- An access to one granule: its row, its bytes, and the transactions in flight on its stack, this one included (R374, Table 17-7). -/
def Dev.accessOne (d : Dev) (g : Nat × Nat) : Dev :=
  let stack := (decodeAddr d.variant.dual g.1).stack
  ((d.openFor g.1).moved stack g.2).keepMax ⟨R.MEM_Ss_PEAK stack, 0, 11⟩ (min 1024 (d.heldBy stack + 1))

/-- An access to a range. -/
def Dev.access (d : Dev) (a n : Nat) : Dev := (granulesOf a n).foldl Dev.accessOne d

/-! ### Reads (R375 to R379) -/

/-- How a read of a block ended. -/
inductive ReadEnd where
  | good | error | frozen
deriving DecidableEq, Repr

/-- An uncorrectable read that ends in an error response (R378): counted, raised and logged. -/
def Dev.errorResponse (d : Dev) (req block ty syndrome : Nat) : Dev :=
  ((d.bump ⟨R.MEM_UE_CNT, 0, 16⟩).memEvent 1).memLog ty req block syndrome 0xFF .memUe

/-- The freeze of a single-stack variant (R4, R379): BAR2 reads that wait complete with all ones (R346). -/
def Dev.freeze (d : Dev) (req block syndrome : Nat) : Dev :=
  let bar (r : MemReq) : Bool := r.req == 0x08 && !r.write
  let d := ((d.mem.wait ++ d.mem.stalled).filter bar).foldl (fun d r => d.emit (.barRead (List.replicate r.n 0xFF) false)) d
  let d := { d with mem := { d.mem with
    wait := d.mem.wait.filter (fun r => !bar r), stalled := d.mem.stalled.filter (fun r => !bar r),
    froze := some (req, block, syndrome) } }
  let d := (d.put ⟨R.MEM_STATUS, 1, 1⟩ 1).memEvent 6
  (d.memLog 2 req block syndrome 0xFF .memFrozen).fatal

/-- The state a fault found by a read leaves on its block: an uncorrectable block stays so until it is written whole. -/
def Dev.noteFault (d : Dev) (block : Nat) (f : DramFault) : Dev :=
  match f with
  | .lost s => if d.badAt block = none then d.setBad block (some (.lost s)) else d
  | _ => d

/-- A read of a block is corrected (R375), and the block is written back when CE_WB is set (R376). -/
def Dev.correct (d : Dev) (req block : Nat) (f : DramFault) : Dev :=
  match f with
  | .one symbol syndrome =>
    let d := ((d.bump ⟨R.MEM_CE_CNT, 0, 32⟩).memEvent 0).memLog 1 req block syndrome symbol .memCe
    if d.ceWb then d.access (block * 64) 64 else d
  | _ => d

/-- One block is read by a requester, `f` and `mf` being what the code finds there and in its mirror (R375 to R379). -/
def Dev.readBlock (d : Dev) (req block : Nat) (f mf : DramFault) : ReadEnd × Dev :=
  let d := d.noteFault block f
  match d.badAt block with
  | none => (.good, d.correct req block f)
  | some b =>
    let syndrome := match b with
      | .lost s => s
      | .poison => 0xFFFF
    let ty := match b with
      | .lost _ => 2
      | .poison => 3
    match d.mirrorOf (block * 64) with
    | some m =>
      let d := (d.noteFault (m / 64) mf).access (m / 64 * 64) 64
      if d.badAt (m / 64) = none then
        let d := d.correct req (m / 64) mf
        let d := ((d.rawWrite (block * 64) (d.rawRead (m / 64 * 64) 64)).setBad block none).access (block * 64) 64
        let d := (d.bump ⟨R.MEM_UE_CNT, 16, 16⟩).memEvent 2
        (.good, d.memLog 4 req block syndrome 0xFF .memMirror)
      else (.error, (d.memEvent 3).errorResponse req block 5 syndrome)
    | none =>
      if d.variant.dual || b = .poison then (.error, d.errorResponse req block ty syndrome)
      else (.frozen, d.freeze req block syndrome)

/-- Read the blocks of a range, none of them with a new error: those that end in an error response, or freeze the device. -/
def Dev.readBlocks (d : Dev) (req : Nat) : List Nat → List Nat × Dev
  | [] => ([], d)
  | b :: bs =>
    match d.readBlock req b .clean .clean with
    | (.good, d) => d.readBlocks req bs
    | (.error, d) =>
      let r := d.readBlocks req bs
      (b :: r.1, r.2)
    | (.frozen, d) => ([b], d)

/-- Bytes at `a` with those of a write over them. -/
def patchBytes (a : Nat) (bs : List Byte) (wa : Nat) (ws : List Byte) : List Byte :=
  bs.zipIdx.map (fun x => if wa ≤ a + x.2 ∧ a + x.2 < wa + ws.length then ws.getD (a + x.2 - wa) x.1 else x.1)

/-- The writes that the controllers hold or stall, oldest first, but for those that R369 drops. -/
def Dev.heldWrites (d : Dev) : List MemReq :=
  (d.mem.wait ++ d.mem.stalled).filter (fun r => r.write && d.mayWrite r.req r.addr r.bytes)

/-- The bytes of a range once every write that waits has been served: what a later read of it returns (R365). -/
def Dev.orderedRead (d : Dev) (a n : Nat) : List Byte :=
  d.heldWrites.foldl (fun bs r => patchBytes a bs r.addr r.bytes) (d.rawRead a n)

/-- Does a waiting write cover a block whole, so that a later read of it is good (R377)? -/
def Dev.healed (d : Dev) (block : Nat) : Bool :=
  d.heldWrites.any (fun r => decide (r.addr ≤ block * 64) && decide (block * 64 + 64 ≤ r.addr + r.bytes.length))

/-- A unit's read of DRAM, behind the writes that wait: the bytes, and the blocks that were unreadable. What their bytes are is free
(assumption 2). -/
def Dev.memReadBad (d : Dev) (req a n : Nat) : List Byte × List Nat × Dev :=
  let r := (d.access a n).readBlocks req ((blocksOf a n).filter (fun b => (d.badAt b).isSome && !d.healed b))
  let bs := r.2.orderedRead a n
  if r.1 = [] then (bs, [], r.2)
  else
    let (fs, d) := r.2.freshBytes n
    (bs.zipIdx.map (fun x => if r.1.contains ((a + x.2) / 64) then fs.getD x.2 x.1 else x.1), r.1, d)

/-- A unit's read of DRAM: the bytes, and whether any block of it was unreadable. -/
def Dev.memRead (d : Dev) (req a n : Nat) : List Byte × Bool × Dev :=
  let r := d.memReadBad req a n
  (r.1, !r.2.1.isEmpty, r.2.2)

/-- Is every block of a range readable? -/
def Dev.readable (d : Dev) (a n : Nat) : Bool := (blocksOf a n).all (fun b => (d.badAt b).isNone)

/-! ### Writes (R368, R369, R377) -/

/-- A block is written with a range that covers it whole or in part (R377). -/
def Dev.writeBlockCode (d : Dev) (req a n : Nat) (f : DramFault) (block : Nat) : Dev :=
  if a ≤ block * 64 ∧ block * 64 + 64 ≤ a + n then d.setBad block none
  else
    let d := d.noteFault block f
    match d.badAt block with
    | none => d.correct req block f
    | some .poison => d
    | some (.lost _) => ((d.setBad block (some .poison)).memEvent 4).memLog 3 req block 0xFFFF 0xFF .memPoison

/-- Bytes go into DRAM with the code of their blocks. -/
def Dev.writeRange (d : Dev) (req a : Nat) (bs : List Byte) (f : DramFault) : Dev :=
  ((blocksOf a bs.length).foldl (fun d b => d.writeBlockCode req a bs.length f b) d).rawWrite a bs

/-- The bytes of a primary-half write go to the mirror, each 256-byte half granule to its place (R368). -/
def Dev.mirrorBytes (d : Dev) : Nat → List Byte → Dev
  | _, [] => d
  | a, b :: bs =>
    match d.mirrorOf a with
    | some m => (d.rawWrite m [b]).mirrorBytes (a + 1) bs
    | none => d.mirrorBytes (a + 1) bs

/-- Whole mirror blocks written clear their code state as well. -/
def Dev.mirrorCodes (d : Dev) (a n : Nat) : Dev :=
  (blocksOf a n).foldl (fun d b =>
    match d.mirrorOf (b * 64) with
    | some m => if a ≤ b * 64 ∧ b * 64 + 64 ≤ a + n then d.setBad (m / 64) none else d
    | none => d) d

/-- A write outside the requester's partitions is dropped (R369). -/
def Dev.protDrop (d : Dev) (req a : Nat) : Dev :=
  ((d.bump ⟨R.MEM_PROT_CNT, 0, 32⟩).memEvent 5).memLog 6 req (a / 64) 0 0xFF .memProt

/-- A served write (R368, R369, R377). -/
def Dev.memWriteF (d : Dev) (req a : Nat) (bs : List Byte) (f : DramFault) : Dev :=
  if d.mayWrite req a bs then (((d.access a bs.length).writeRange req a bs f).mirrorBytes a bs).mirrorCodes a bs.length
  else d.protDrop req a

/-! ### Request order (R365, R366, R370 to R374) -/

/-- A row hit: the request's row is open in its bank. -/
def Dev.rowHit (d : Dev) (r : MemReq) : Bool :=
  tget noneAt d.mem.openRow (d.bankOf r.addr) == some (decodeAddr d.variant.dual r.addr).row

/-- The first request of a list that a test holds for, with the others in their order. -/
def takeFirst (p : MemReq → Bool) : List MemReq → Option (MemReq × List MemReq)
  | [] => none
  | r :: rs => if p r then some (r, rs) else (takeFirst p rs).map (fun x => (x.1, r :: x.2))

/-- An older request waits for the same block, which R365 serves first. -/
def older (q : List MemReq) (r : MemReq) : Bool :=
  match q with
  | [] => false
  | x :: xs => if x = r then false else if x.addr / 64 = r.addr / 64 then true else older xs r

/-- WR_HIGH: 0 treated as 1, above 64 as 64. -/
def Dev.wrHigh (d : Dev) : Nat := clampNat 1 64 (d.fld ⟨R.MEM_SCHED, 16, 8⟩)

/-- WR_LOW: below WR_HIGH, otherwise treated as WR_HIGH − 1. -/
def Dev.wrLow (d : Dev) : Nat := min (d.fld ⟨R.MEM_SCHED, 24, 8⟩) (d.wrHigh - 1)

/-- Whether writes are served now (R372): a drain starts at WR_HIGH writes, with no read waiting, or for an urgent write;
it ends at WR_LOW writes or when a read becomes urgent. -/
def Dev.writesNow (d : Dev) (pc : Nat) (q : List MemReq) : Bool :=
  let ws := (q.filter (fun r => r.write)).length
  let rs := q.filter (fun r => !r.write)
  if tget (fun _ => 0) d.mem.drain pc = 1 then decide (d.wrLow < ws) && !(rs.any (fun r => r.urgent)) || rs.isEmpty
  else decide (d.wrHigh ≤ ws) || rs.isEmpty || q.any (fun r => r.write && r.urgent)

/-- The scheduler's choice among the requests of a pseudo-channel (R365, R370, R372): urgent ones, then row hits, then all
others, the oldest first, within the direction being served. -/
def Dev.pick (d : Dev) (pc : Nat) : Option (MemReq × List MemReq) :=
  let mine := d.mem.wait.filter (fun r => d.pcOf r.addr == pc)
  let w := d.writesNow pc mine
  let ok (r : MemReq) : Bool := d.pcOf r.addr == pc && r.write == w && !older mine r
  (takeFirst (fun r => ok r && r.urgent) d.mem.wait).orElse fun _ =>
    (takeFirst (fun r => ok r && d.rowHit r) d.mem.wait).orElse fun _ =>
      (takeFirst ok d.mem.wait).orElse fun _ => takeFirst (fun r => d.pcOf r.addr == pc && !older mine r) d.mem.wait

/-- A request is served: a read completes with its response, a write takes effect. A BAR2 read answers with the bytes, with all ones
when it freezes the device, and with Completer Abort and a log entry on an uncorrectable error (R346). -/
def Dev.serve (d : Dev) (r : MemReq) : Dev :=
  if r.write then d.memWriteF r.req r.addr r.bytes r.meets
  else
    match (d.access r.addr r.n).readBlock r.req (r.addr / 64) r.meets r.mirror with
    | (.good, d) => d.emit (if r.req = 0x08 then .barRead (d.rawRead r.addr r.n) false else .memResponse r.addr false)
    | (.error, d) =>
      if r.req = 0x08 then (d.emit (.barRead [] true)).logPut 0x0C .bar2Error [r.addr] else d.emit (.memResponse r.addr true)
    | (.frozen, d) => if r.req = 0x08 then d.emit (.barRead (List.replicate r.n 0xFF) false) else d

/-- The stack of a request. -/
def Dev.stackOf (d : Dev) (a : Nat) : Nat := (decodeAddr d.variant.dual a).stack

/-- Does the request crossing of a stack stall: its controller holds 1,024 transactions, or others are stalled there already
(R30, R366)? -/
def Dev.stackFull (d : Dev) (stack : Nat) : Bool :=
  decide (1024 ≤ d.heldBy stack) || d.mem.stalled.any (fun r => d.stackOf r.addr == stack)

/-- Must a request wait in its pseudo-channel: the device is frozen, the channel in recovery, or others wait there (R379, R381)? -/
def Dev.mustWait (d : Dev) (a : Nat) : Bool :=
  d.memFrozen || d.inRecovery a || d.mem.wait.any (fun x => d.pcOf x.addr == d.pcOf a)

/-- A request comes to its stack controller, its arrival now: stalled at a full one, held where it must wait, served otherwise
(R365, R366). -/
def Dev.request (d : Dev) (r : MemReq) : Dev :=
  let stack := d.stackOf r.addr
  let r := { r with at_ := d.now2 }
  if d.stackFull stack then { d with mem := { d.mem with stalled := d.mem.stalled ++ [r] } }
  else if d.mustWait r.addr then
    let d := { d with mem := { d.mem with wait := d.mem.wait ++ [r] } }
    d.keepMax ⟨R.MEM_Ss_PEAK stack, 0, 11⟩ (d.heldBy stack)
  else d.serve r

/-- The stalled requests come to their controllers again, in order; those that still find no room stall again. -/
def Dev.takeStalled (d : Dev) : Dev :=
  d.mem.stalled.foldl Dev.request { d with mem := { d.mem with stalled := [] } }

/-- A unit's write to DRAM: each granule of it that must wait, or whose controller is full, is held behind the others. -/
def Dev.memWrite (d : Dev) (req a : Nat) (bs : List Byte) : Dev :=
  if d.memFrozen then d
  else
    let gs := granulesOf a bs.length
    if d.mayWrite req a bs && gs.any (fun g => d.mustWait g.1 || d.stackFull (d.stackOf g.1)) then
      gs.foldl (fun d g => d.request
        { write := true, req := req, addr := g.1, n := g.2, bytes := (bs.drop (g.1 - a)).take g.2, meets := .clean,
          mirror := .clean }) d
    else d.memWriteF req a bs .clean

/-! ### Refresh (R373) -/

/-- Close the row of one bank of a pseudo-channel (R374). -/
def Dev.closeBank (d : Dev) (pc bank : Nat) : Dev :=
  { d with mem := { d.mem with openRow := tset noneAt d.mem.openRow (32 * pc + bank) none } }

/-- Rows of all banks of a pseudo-channel close with a full round of refresh (R374, R381). -/
def Dev.refreshRows (d : Dev) (pc : Nat) : Dev :=
  { d with mem := { d.mem with openRow := d.mem.openRow.filter (fun e => e.1 / 32 != pc) } }

def Dev.owedOf (d : Dev) (pc : Nat) : Nat := tget (fun _ => 0) d.mem.owed pc
def Dev.setOwed (d : Dev) (pc n : Nat) : Dev := { d with mem := { d.mem with owed := tset (fun _ => 0) d.mem.owed pc n } }

/-- The bank that the next refresh of a pseudo-channel addresses: they take turns (DESIGN CHOICE, assumption 105). -/
def Dev.refBankOf (d : Dev) (pc : Nat) : Nat := tget (fun _ => 0) d.mem.refBank pc

/-- A refresh is issued: the row of its bank closes, and the next bank's turn comes. -/
def Dev.issueRefresh (d : Dev) (pc : Nat) : Dev :=
  let b := d.refBankOf pc
  let d := d.closeBank pc b
  { d with mem := { d.mem with refBank := tset (fun _ => 0) d.mem.refBank pc ((b + 1) % 32) } }

/-- The refreshes owed by a pseudo-channel are issued while the bank each addresses has no waiting request. -/
def Dev.issueOwed (d : Dev) (pc : Nat) : Nat → Dev
  | 0 => d
  | n + 1 =>
    if d.memFrozen || d.owedOf pc == 0 || d.mem.wait.any (fun r => d.bankOf r.addr == 32 * pc + d.refBankOf pc) then d
    else ((d.issueRefresh pc).setOwed pc (d.owedOf pc - 1)).issueOwed pc n

/-- tREFI of a stack in ns: halved while REFRESH_2X is set (R373). -/
def Dev.tRefi (d : Dev) (stack : Nat) : Nat := if d.bit ⟨R.MEM_Ss_STATUS stack, 8, 1⟩ then 1950 else 3900

/-- tREFI passes on a pseudo-channel (R373): one more refresh is owed; with eight owed already it is urgent, counted and issued before
every request. -/
def Dev.refresh (d : Dev) (stack pc : Nat) : Dev :=
  let key := 32 * stack + pc
  if d.memFrozen then d
  else
    let t := tget (fun _ => 0) d.mem.refAt key
    let d := d.expire t (d.tRefi stack)
    let d := { d with mem := { d.mem with refAt := tset (fun _ => 0) d.mem.refAt key (t + d.tRefi stack) } }
    let d := if 8 ≤ d.owedOf key then (d.bump ⟨R.MEM_Ss_URGENT_CNT stack, 16, 16⟩).issueRefresh key
      else d.setOwed key (d.owedOf key + 1)
    d.issueOwed key 8

/-- The stack's temperature, given in 1/16 °C and shown in whole °C (DEDUCED: its sensor, rounded down): above 85 °C it refreshes at the doubled rate (R373, Table 17-7). -/
def Dev.stackTemp (d : Dev) (stack : Nat) (x : Int) : Dev :=
  (d.put ⟨R.MEM_Ss_STATUS stack, 0, 8⟩ (ofSigned 8 (x / 16))).putBit ⟨R.MEM_Ss_STATUS stack, 8, 1⟩ (decide (85 * 16 < x))

/-- Serve every waiting request of a pseudo-channel in the scheduler's order (R370 to R372); the fuel is their number. -/
def Dev.servePc (d : Dev) (pc : Nat) : Nat → Dev
  | 0 => d
  | n + 1 =>
    if d.memFrozen then d else
      match d.pick pc with
      | none => d
      | some (r, rest) =>
        let w := d.writesNow pc (d.mem.wait.filter (fun x => d.pcOf x.addr == pc))
        let more := d.wrLow < (rest.filter (fun x => d.pcOf x.addr == pc && x.write)).length
        let d := { d with mem := { d.mem with
          wait := rest, drain := tset (fun _ => 0) d.mem.drain pc (if w && more then 1 else 0) } }
        (d.serve r).servePc pc n

/-! ### The freeze (R379) -/

/-- What a fabric unit does: nothing once the device is frozen, since every fabric requester stalls; a unit that meets the error which
freezes it stands where it was, with the freeze alone (DEDUCED, assumption 106). -/
def Dev.fabric (d : Dev) (f : Dev → Dev) : Dev :=
  if d.memFrozen then d
  else
    match (f d).memFrozen, (f d).mem.froze with
    | true, some (req, block, syndrome) => d.freeze req block syndrome
    | _, _ => f d

/-- A command that a fabric unit carries out. -/
def onFab (f : Dev → Dev) (s : State) : Res := onDev (fun d => d.fabric f) s

/-- A mailbox command that reads DRAM gets no answer while the device is frozen: it waits (R379). -/
def Dev.readsDram (d : Dev) (act : Dev → Act) : Act :=
  if d.memFrozen then .wait d
  else
    match act d with
    | .ok e b => if e.memFrozen then .wait e else .ok e b
    | .failWith st e b => if e.memFrozen then .wait e else .failWith st e b
    | r => r

/-! ### Parity and recovery (R381) -/

/-- A parity error: counted, raised and logged; the channel goes into recovery and the failed command waits to be retried. -/
def Dev.parity (d : Dev) (stack ch req addr : Nat) : Dev :=
  let d := ((d.bump ⟨R.MEM_PARITY_CNT, 0, 32⟩).memEvent 7).memLog 7 req (addr / 64) 0 0xFF .memParity
  d.put ⟨R.MEM_TRAINs_c stack ch, 2, 1⟩ 1

/-- The channel leaves recovery after its retrain and a round of refresh; what waited is served (R370 to R372). -/
def Dev.recoveryEnd (d : Dev) (stack ch : Nat) : Dev :=
  if d.bit ⟨R.MEM_TRAINs_c stack ch, 2, 1⟩ then
    let d := (d.put ⟨R.MEM_TRAINs_c stack ch, 2, 1⟩ 0).bump ⟨R.MEM_TRAINs_c stack ch, 24, 8⟩
    let pcs := [32 * stack + 2 * ch, 32 * stack + 2 * ch + 1]
    (pcs.foldl (fun d pc => ((d.setOwed pc 0).refreshRows pc).servePc pc d.mem.wait.length) d).takeStalled
  else d

/-! ### Meanings -/

/-- MEM_INFO returns registers 0x0000 to 0x0148 of Table 17-7; counters are not cleared. -/
def execMemInfo (tag : Word) (args : List Word) (s : State) : Res :=
  onDev (fun d => d.mailbox 0x0C01 false (args.length == 0) tag args (fun d =>
    .ok d (d.regsBytes (listedIn 0xC00000 0xC00148)))) s

/-- The bytes of an error log entry (Table 17-5). -/
def Dev.memErrBytes (d : Dev) (e : MemErr) : List Byte :=
  let x := decodeAddr d.variant.dual (e.block * 64)
  leBytes 8 (e.block * 64) ++ leBytes 1 e.ty ++ leBytes 1 e.req ++ leBytes 1 x.stack ++ leBytes 1 x.pc ++
    leBytes 1 (x.sid + 2 * x.bankGroup + 8 * x.bank) ++ leBytes 1 0 ++ leBytes 2 x.row ++ leBytes 2 e.syndrome ++
    leBytes 1 e.symbol ++ leBytes 1 0 ++ leBytes 8 e.t2 ++ leBytes 4 e.rep

/-- MEM_ERR_READ returns error log entries, oldest first; the log is not cleared (R384). -/
def execMemErrRead (tag : Word) (args : List Word) (s : State) : Res :=
  onDev (fun d => d.mailbox 0x0C02 false (args.length == 2) tag args (fun d =>
    let first := (args.getD 0 0).toNat
    let n := (args.getD 1 0).toNat
    if 64 ≤ first ∨ n = 0 ∨ 64 < n then .fail stBadArg
    else .ok d (((d.mem.log.drop first).take n).flatMap (fun e => d.memErrBytes e)))) s

/-- The partition that holds an address, 0xFF when none (R384). -/
def Dev.partOf (d : Dev) (a : Nat) : Nat := ((List.range 14).reverse.find? (fun p => d.inPart p a 1)).getD 0xFF

/-- MEM_DECODE returns the other side of Table 17-2 and the partition (R384). -/
def execMemDecode (tag : Word) (args : List Word) (s : State) : Res :=
  onDev (fun d => d.mailbox 0x0C03 false (args.length == 3 || args.length == 8) tag args (fun d =>
    let g (i : Nat) : Nat := (args.getD i 0).toNat
    let dual := d.variant.dual
    if g 0 = 0 ∧ args.length = 3 then
      let a := word64 (args.getD 1 0) (args.getD 2 0)
      if d.variant.dramBytes ≤ a then .fail stBadArg
      else
        let x := decodeAddr dual a
        .ok d ([x.stack, x.pc, x.sid, x.bankGroup, x.bank, x.row, x.column, d.partOf a].flatMap (leBytes 4))
    else if g 0 = 1 ∧ args.length = 8 then
      if 2 ≤ g 1 ∨ (g 1 = 1 ∧ dual = false) ∨ 32 ≤ g 2 ∨ 2 ≤ g 3 ∨ 4 ≤ g 4 ∨ 4 ≤ g 5 ∨ 65536 ≤ g 6 ∨ 1024 ≤ g 7 then
        .fail stBadArg
      else
        let a := encodeAddr dual
          { stack := g 1, pc := g 2, sid := g 3, bankGroup := g 4, bank := g 5, row := g 6, column := g 7 }
        .ok d (leBytes 8 a ++ leBytes 4 (d.partOf a))
    else .fail stBadArg)) s

/-- MEM_TRAIN_INFO returns a channel's training word, its lane repair map and the helper counts (R384). -/
def execMemTrainInfo (tag : Word) (args : List Word) (s : State) : Res :=
  onDev (fun d => d.mailbox 0x0C04 false (args.length == 2) tag args (fun d =>
    let st := (args.getD 0 0).toNat
    let ch := (args.getD 1 0).toNat
    if 2 ≤ st ∨ 16 ≤ ch then .fail stBadArg
    else if st = 1 ∧ d.variant.dual = false then .fail stUnitAbsent
    else .ok d (wordBytes (readReg d (R.MEM_TRAINs_c st ch)) ++
      (tget (fun _ => []) d.mem.helper (16 * st + ch)).flatMap (leBytes 4)))) s

/-- MEM_LOG_CLEAR empties the error log and clears LOST; owner session only (R384). -/
def execMemLogClear (tag : Word) (args : List Word) (s : State) : Res :=
  onDev (fun d => d.mailbox 0x0C05 true (args.length == 0) tag args (fun d =>
    .ok ((({ d with mem := { d.mem with log := [] } }).memLogStatus).put ⟨R.MEM_LOG_STATUS, 16, 16⟩ 0) [])) s

/-- The bytes of a host buffer (R347): by DMA from host memory, or read from a host partition when bit 63 of its address is
set; or the status that ends the command. -/
def Dev.hostBuf (d : Dev) (addr n : Nat) (dma : HostDma) : Nat × List Byte × Dev :=
  if addr / 2 ^ 63 % 2 = 1 then
    if d.inHostPart (addr % 2 ^ 37) n then
      let r := d.memRead 0x0B (addr % 2 ^ 37) n
      (if r.2.1 then stMemErr else stOk, r.1, r.2.2)
    else (stBadArg, [], d)
  else match dma with
    | .fault => (stHostFault, [], d)
    | .ok b => if b.length = n then (stOk, b, d) else (stHostFault, [], d)

/-- A BAR2 write takes effect inside a host partition only (R345, R369). -/
def execBar2Write (offset : Nat) (bytes : List Byte) (meets : DramFault) (s : State) : Res :=
  onDev (fun d =>
    if d.inHostPart offset bytes.length then
      d.request { write := true, req := 0x08, addr := offset, n := bytes.length, bytes := bytes, meets := meets, mirror := .clean }
    else ((d.protDrop 0x08 offset).bump ⟨R.HIF_BAR2_WERR, 0, 32⟩).sticky ⟨R.HIF_EVENT, 1, 1⟩ 1 true) s

/-- A BAR2 read returns DRAM contents, in its order (R365); beyond a single-stack variant's memory, or during a freeze, all ones
(R345, R346). -/
def execBar2Read (offset n : Nat) (meets mirror : DramFault) (s : State) : Res :=
  onDev (fun d =>
    if d.memFrozen ∨ (d.variant.dual = false ∧ 0x1000000000 ≤ offset) then
      d.emit (.barRead (List.replicate n 0xFF) false)
    else d.request { write := false, req := 0x08, addr := offset, n := n, bytes := [], meets := meets, mirror := mirror }) s

/-- A DRAM read (R365, R370, R375 to R379). -/
def execDramRead (requester addr n : Nat) (meets mirror : DramFault) (s : State) : Res :=
  onDev (fun d => d.request { write := false, req := requester, addr := addr, n := n, bytes := [], meets := meets, mirror := mirror }) s

/-- A DRAM write (R365, R368, R369, R377). -/
def execDramWrite (requester addr : Nat) (bytes : List Byte) (meets : DramFault) (s : State) : Res :=
  onDev (fun d => d.request
    { write := true, req := requester, addr := addr, n := bytes.length, bytes := bytes, meets := meets, mirror := .clean }) s

/-- AGE_LIMIT in ns: below 100 it is treated as 100 (Table 17-7). -/
def Dev.ageLimit (d : Dev) : Nat := max 100 (d.fld ⟨R.MEM_SCHED, 0, 16⟩)

/-- A waiting request has waited AGE_LIMIT and becomes urgent (R371). -/
def execUrgent (index : Nat) (s : State) : Res :=
  onDev (fun d =>
    match d.mem.wait[index]? with
    | none => d
    | some r =>
      if r.urgent then d else
        let d := d.expire r.at_ d.ageLimit
        ({ d with mem := { d.mem with wait := d.mem.wait.set index { r with urgent := true } } }).bump
          ⟨R.MEM_Ss_URGENT_CNT (d.stackOf r.addr), 0, 16⟩) s

/-- tREFI passes on a pseudo-channel (R373). -/
def execRefresh (stack pc : Nat) (s : State) : Res := onDev (fun d => d.refresh (stack % 2) (pc % 32)) s

/-- SCRUB_T in ns: 0 is treated as 1 h (Table 17-7). -/
def Dev.scrubNs (d : Dev) : Nat := max 1 (d.fld ⟨R.MEM_SCRUB, 0, 16⟩) * 3600000000000

/-- A scrub pass ends, SCRUB_T after it began (R376). -/
def Dev.scrubPass (d : Dev) : Dev :=
  let d := d.expire d.mem.scrubAt d.scrubNs
  let d := { d with mem := { d.mem with scrubAt := d.now2 } }
  d.setReg R.MEM_SCRUB_PASS (d.reg R.MEM_SCRUB_PASS + 1)

/-- The scrubber reads blocks, like any other requester, and corrects what it can; a completed pass is counted (R376). -/
def execScrub (found : List (Nat × DramFault)) (passEnds : Bool) (s : State) : Res :=
  onDev (fun d =>
    if d.bit ⟨R.MEM_CFG, 0, 1⟩ && !d.memFrozen then
      let d := (found.filter (fun e => decide (e.1 * 64 < d.variant.dramBytes))).foldl (fun d e => d.request
        { write := false, req := 0x0C, addr := e.1 * 64, n := 64, bytes := [], meets := e.2, mirror := .clean }) d
      if passEnds && !d.memFrozen then d.scrubPass else d
    else d) s

/-- A command or address parity error (R381). -/
def execParity (stack channel requester addr : Nat) (s : State) : Res :=
  onDev (fun d => d.parity (stack % 2) (channel % 16) requester addr) s

/-- A channel leaves recovery (R381). -/
def execRecoveryEnd (stack channel : Nat) (s : State) : Res :=
  onDev (fun d => d.recoveryEnd (stack % 2) (channel % 16)) s

end Sys2Proof.Machine
end

