-- ==== Sys2Proof/Machine/Claims.lean ====
section
/-! DEFINITION. Claims on shared resources (Table 20-7, R422 to R424). -/

namespace Sys2Proof.Machine

/-- How many resources a class has, and which uses Table 20-7 allows for an index. -/
def claimCount : Nat → Nat
  | 1 => 4 | 2 => 16 | 3 => 16 | 4 => 32 | 5 => 1048576 | 6 => 128 | 7 => 8 | _ => 0

/-- May resource `i` of a class be claimed for a use (Table 20-7)? -/
def claimUse (cls i use : Nat) : Bool :=
  match cls with
  | 1 => use == 1 || (use == 2 && i == 3)
  | 2 => use == 1 || use == 2 || (use == 3 && decide (8 ≤ i) && decide (i ≤ 10))
  | 3 => use == 1 || (use == 2 && decide (14 ≤ i))
  | 4 => decide (1 ≤ use) && decide (use ≤ 3)
  | 5 => use == (if i < 1040384 then 1 else if i < 1044480 then 2 else if i < 1044484 then 3 else if i = 1044484 then 4
      else 0) && decide (use ≠ 0)
  | 6 => use == 1
  | 7 => use == 1
  | _ => false

/-- Does a claim cover a resource? -/
def Claim.covers (c : Claim) (cls i : Nat) : Bool :=
  c.cls == cls && decide (c.first ≤ i) && decide (i < c.first + c.count)

/-- The claim on a resource, if any. -/
def Dev.claimOn (d : Dev) (cls i : Nat) : Option Claim := d.cfg.claims.find? (fun c => c.covers cls i)

/-- The use a resource is claimed for, 0 when unclaimed. -/
def Dev.claimedUse (d : Dev) (cls i : Nat) : Nat :=
  match d.claimOn cls i with
  | some c => c.use
  | none => 0

/-- May a compare channel run in a mode: a position alarm runs single, a trigger generator periodic or timed; a strobe
channel and an unclaimed one run in any mode (Table 20-7, R423, R424)? -/
def Dev.cmpModeOk (d : Dev) (n mode : Nat) : Bool :=
  match d.claimedUse 4 n with
  | 1 => mode != 1
  | 2 => mode == 0 || mode == 1
  | _ => true

/-- Is GPIO n claimed for Runnel (R280, R500)? -/
def Dev.gpioRunnel (d : Dev) (n : Nat) : Bool := d.claimedUse 2 n == 2

/-- Is GPIO n a host GPIO: unclaimed, or claimed as one (Table 20-7)? -/
def Dev.gpioHost (d : Dev) (n : Nat) : Bool := d.claimedUse 2 n == 0 || d.claimedUse 2 n == 1

end Sys2Proof.Machine
end

