-- ==== Sys2Proof/Machine/Mosaic.lean ====
section
/-! DEFINITION. What the units after the intake share: contexts and ports, the members of a mosaic, its seams, its grid, and
the layout of web history (R145, R160 to R163, R176, R179). -/

namespace Sys2Proof.Machine

/-! ### Contexts (Tables 5-7, 5-8) -/

def Dev.ctxEn (d : Dev) (c : Nat) : Bool := d.bit ⟨R.CTX_CFG c, 0, 1⟩
def Dev.ctxStripeLen (d : Dev) (c : Nat) : Nat := 16 * 2 ^ d.fld ⟨R.CTX_CFG c, 1, 2⟩
def Dev.ctxFormat (d : Dev) (c : Nat) : Nat := d.fld ⟨R.CTX_CFG c, 3, 2⟩
def Dev.ctxPort (d : Dev) (c : Nat) : Nat := d.fld ⟨R.CTX_CFG c, 8, 4⟩
def Dev.ctxVc (d : Dev) (c : Nat) : Nat := d.fld ⟨R.CTX_CFG c, 12, 2⟩
def Dev.ctxMosaic (d : Dev) (c : Nat) : Nat := d.fld ⟨R.CTX_CFG c, 14, 2⟩
def Dev.ctxTrig (d : Dev) (c : Nat) : Nat := d.fld ⟨R.CTX_CFG c, 16, 4⟩
def Dev.ctxWidth (d : Dev) (c : Nat) : Nat := d.fld ⟨R.CTX_WIDTH c, 0, 16⟩
def Dev.ctxRate (d : Dev) (c : Nat) : Nat := d.fld ⟨R.CTX_RATE c, 0, 20⟩
def Dev.ringBase (d : Dev) (c : Nat) : Nat := d.reg64 (R.CTX_RING_BASE_LO c)
def Dev.ringLines (d : Dev) (c : Nat) : Nat := d.fld ⟨R.CTX_RING_LINES c, 0, 24⟩
def Dev.ringStride (d : Dev) (c : Nat) : Nat := (d.reg (R.CTX_RING_STRIDE c)).toNat

/-- The enabled contexts of a port. -/
def Dev.portCtxs (d : Dev) (p : Nat) : List Nat :=
  (List.range d.variant.contexts).filter (fun c => d.ctxEn c && d.ctxPort c == p)

/-- The TRIG output that drives a port's camera: that of its enabled contexts (R98, R102). -/
def Dev.portTrig (d : Dev) (p : Nat) : Option Nat := (d.portCtxs p).head?.map d.ctxTrig

/-- PORT_STATE of a port (Table 3-5). -/
def Dev.portState (d : Dev) (p : Nat) : Nat := d.fld ⟨R.CAM_STATUS p, 0, 4⟩

/-- A context is blind by its port: DISABLED, in FAULT, or marked CTX_MISMATCH (R56, R97, R111). -/
def Dev.ctxDark (d : Dev) (c : Nat) : Bool :=
  let st := d.portState (d.ctxPort c)
  st == 0 || st == 10 || d.bit ⟨R.CAM_VLP_STATUS (d.ctxPort c), 4 + d.ctxVc c, 1⟩

/-! ### Mosaics (R160 to R163) -/

/-- A mosaic is enabled. -/
def Dev.mosEn (d : Dev) (m : Nat) : Bool := decide (m < 4) && d.bit ⟨R.SEAM_CFG m, 0, 1⟩

/-- OUT_COL0 and OUT_W of a context in force; OUT_W above 32,768 is treated as 32,768. -/
def Dev.outCol0 (d : Dev) (c : Nat) : Nat := d.actFld ⟨R.CORR_OUT_COL0 c, 0, 20⟩
def Dev.outW (d : Dev) (c : Nat) : Nat := min 32768 (d.actFld ⟨R.CORR_OUT_W c, 0, 17⟩)

/-- The mosaic's width in columns, the tiles across, and the column pitch. -/
def Dev.mosWidth (d : Dev) (m : Nat) : Nat := d.fld ⟨R.SEAM_WIDTH m, 0, 20⟩ + 1
def Dev.tilesX (d : Dev) (m : Nat) : Nat := (d.mosWidth m + 255) / 256
def Dev.colPitch (d : Dev) (m : Nat) : Nat := (d.reg (R.SEAM_PITCH m)).toNat

/-- Put a context into member order: ascending CORR_OUT_COL0, then ascending number (R160). -/
def Dev.memberIns (d : Dev) (c : Nat) : List Nat → List Nat
  | [] => [c]
  | x :: xs => if d.outCol0 c < d.outCol0 x then c :: x :: xs else x :: d.memberIns c xs

/-- The members of a mosaic in order: the enabled contexts whose MOSAIC is m (R160). -/
def Dev.members (d : Dev) (m : Nat) : List Nat :=
  ((List.range d.variant.contexts).filter (fun c => d.ctxEn c && d.ctxMosaic c == m)).foldl (fun l c => d.memberIns c l) []

/-- Start and width of the seams between n members (R162). -/
def Dev.seams (d : Dev) (m n : Nat) : List (Nat × Nat) :=
  (List.range (n - 1)).map (fun i => (d.fld ⟨R.SEAM_Si m i, 0, 20⟩, d.fld ⟨R.SEAM_Si m i, 20, 10⟩))

/-- The member that owns a column, counted from `i`; inside a ramp, its start and width as well: the next member then has it
too (R162). -/
def colOwner : List (Nat × Nat) → Nat → Nat → Nat × Option (Nat × Nat)
  | [], i, _ => (i, none)
  | (s, w) :: rest, i, c =>
    if c < s then (i, none) else if c < s + w then (i, some (s, w)) else colOwner rest (i + 1) c

/-- The blend of two samples in a ramp (R163). -/
def blend (s w c a b : Nat) : Nat :=
  let x := (2 * (c - s) + 1) * 32768 / w
  (a * (65536 - x) + b * x + 32768) / 65536

/-- The grid a context resamples to, as its registers in force give it (R145, Table 7-4): PITCH_CU 0 is treated as 1. -/
def Dev.ctxGrid (d : Dev) (c : Nat) : Grid :=
  ({ org := toSigned 64 (d.act64 (R.RS_GRID_ORG_LO c)), pitch := max 1 (d.actFld ⟨R.RS_PITCH c, 0, 24⟩),
     num := d.actFld ⟨R.RS_PITCH_REM c, 0, 16⟩, den := d.actFld ⟨R.RS_PITCH_REM c, 16, 16⟩ } : Grid).norm

/-- The grid of a mosaic: that of its member 0. -/
def Dev.mosGrid (d : Dev) (m : Nat) : Grid := d.ctxGrid ((d.members m).headD 0)

/-- The mean pitch of a grid as a fraction, count units: numerator and denominator. -/
def Grid.mean (g : Grid) : Nat × Nat := if g.den = 0 then (g.pitch, 1) else (g.pitch * g.den + g.num, g.den)

/-! ### Rounding -/

/-- a / b to the nearest integer, halves away from zero, for a positive b. -/
def roundAway (a b : Int) : Int := if a < 0 then -((2 * -a + b) / (2 * b)) else (2 * a + b) / (2 * b)

/-! ### Runs of columns -/

/-- The maximal runs of the numbers from `c` on whose flag is set. -/
def runsFrom : Nat → List Bool → List EdgeRun
  | _, [] => []
  | c, false :: bs => runsFrom (c + 1) bs
  | c, true :: bs =>
    match runsFrom (c + 1) bs with
    | ⟨lo, hi⟩ :: rest => if lo = c + 1 then ⟨c, hi⟩ :: rest else ⟨c, c⟩ :: ⟨lo, hi⟩ :: rest
    | [] => [⟨c, c⟩]

/-- A number lies in a run. -/
def EdgeRun.has (r : EdgeRun) (c : Nat) : Bool := decide (r.lo ≤ c) && decide (c ≤ r.hi)

/-- How many numbers two runs share. -/
def EdgeRun.shared (a b : EdgeRun) : Nat := min a.hi b.hi + 1 - max a.lo b.lo

/-- Two runs overlap or touch: they come within one of each other. -/
def EdgeRun.touches (a b : EdgeRun) : Bool := decide (a.lo ≤ b.hi + 1) && decide (b.lo ≤ a.hi + 1)

def EdgeRun.len (r : EdgeRun) : Nat := r.hi + 1 - r.lo

/-! ### Web history (R176, R179) -/

/-- HIST_STRIPES. -/
def Dev.histStripes (d : Dev) (m : Nat) : Nat := d.fld ⟨R.HIST_STRIPES m, 0, 24⟩

/-- The slot of a stripe: k mod HIST_STRIPES, from 0 for negative k too. -/
def Dev.histSlot (d : Dev) (m : Nat) (k : Int) : Nat := (k % (d.histStripes m : Int)).toNat

/-- The address of a tile. -/
def Dev.tileAddr (d : Dev) (m : Nat) (k : Int) (t : Nat) : Nat :=
  d.reg64 (R.HIST_BASE_LO m) + (d.histSlot m k * d.tilesX m + t) * 32768

/-- The address of a directory entry. -/
def Dev.dirAddr (d : Dev) (m : Nat) (k : Int) : Nat := d.reg64 (R.HIST_DIR_BASE_LO m) + d.histSlot m k * 256

/-- HIST_OLDEST_K and the last stripe emitted. -/
def Dev.oldestK (d : Dev) (m : Nat) : Int := d.sreg64 (R.SEAM_OLDEST_K_LO m)
def Dev.lastK (d : Dev) (m : Nat) : Int := d.sreg64 (R.SEAM_LAST_K_LO m)

/-- Bytes as 16-bit samples. -/
def samplesOf : List Byte → List Nat
  | a :: b :: rest => leNat [a, b] :: samplesOf rest
  | _ => []

/-- Read the directory entry of a stripe: its bytes when it reads K = k and k is intact (R179). -/
def Dev.dirRead (d : Dev) (req m : Nat) (k : Int) : Option (List Byte) × Dev :=
  let (bs, err, d) := d.memRead req (d.dirAddr m k) 256
  if !err && toSigned 64 (fieldAt bs 0 8) == k && decide (d.oldestK m ≤ k) && decide (d.histStripes m ≠ 0) then (some bs, d)
  else (none, d)

/-- The extents of a directory entry (Table 8-3). -/
def dirExts (bs : List Byte) : List EdgeRun :=
  (List.range (min 16 (byteAt bs 49))).map (fun i =>
    let v := fieldAt bs (128 + 8 * i) 8
    ⟨v % 2 ^ 20, v / 2 ^ 32 % 2 ^ 20⟩)

/-- Read samples of a row of a stripe, columns `c` to `c + n - 1` below the tiles' width, tile by tile: each tile's samples
and whether its read failed. -/
def Dev.rowRead (d : Dev) (req m : Nat) (k : Int) (row : Nat) : Nat → Nat → List (Nat × Bool) × Dev
  | 0, _ => ([], d)
  | t + 1, c0 =>
    let (bs, err, d') := d.memRead req (d.tileAddr m k c0 + 512 * row) 512
    let (rest, d') := d'.rowRead req m k row t (c0 + 1)
    ((samplesOf bs).map (fun v => (v, err)) ++ rest, d')

end Sys2Proof.Machine
end

