-- ==== Sys2Proof/Machine/Shaft.lean ====
section
/-! DEFINITION. Shaft: elements, queue descriptors, delivery rings, and the record builder (R222 to R243). The free elements
are handed out in ascending order, then as they came back; the free track queue handed out is the lowest (DESIGN CHOICE,
assumption 16). -/

namespace Sys2Proof.Machine

/-! ### Queues and elements (R222 to R224) -/

/-- A SHF_EVENT bit sets (vector 42). -/
def Dev.shfEvent (d : Dev) (bit : Nat) : Dev := d.sticky ⟨R.SHF_EVENT, bit, 1⟩ 42 true

def Dev.elemCnt (d : Dev) : Nat := (d.reg R.SHF_ELEM_CNT).toNat
def Dev.elemAddr (d : Dev) (i : Nat) : Nat := d.reg64 R.SHF_ELEM_BASE_LO + 128 * i
def Dev.linkAddr (d : Dev) (i : Nat) : Nat := d.reg64 R.SHF_LINK_BASE_LO + 4 * i
def Dev.descAddr (d : Dev) (q : Nat) : Nat := d.reg64 R.SHF_DESC_BASE_LO + 32 * q

/-- "no element" in a descriptor or a link word. -/
def noElem : Nat := 0xFFFFFFFF

/-- The queue numbers of Table 11-1. -/
def ringQueue (n : Nat) : Nat := 1040384 + n
def jobQueue (m : Nat) : Nat := 1044480 + m
def poolQueue : Nat := 1044484

/-- A queue descriptor (Table 11-2). -/
def descBytes (elems : List Nat) (limit ty state owner alive openT aux : Nat) : List Byte :=
  leBytes 4 (elems.headD noElem) ++ leBytes 4 (elems.getLastD noElem) ++ leBytes 4 elems.length ++ leBytes 4 limit ++
  leBytes 1 ty ++ leBytes 1 state ++ leBytes 1 owner ++ leBytes 1 alive ++ leBytes 8 openT ++ leBytes 4 aux

/-- Shaft writes a descriptor, a link word, an element. -/
def Dev.descWrite (d : Dev) (q : Nat) (bs : List Byte) : Dev := d.memWrite 0x05 (d.descAddr q) bs
def Dev.linkWrite (d : Dev) (i next : Nat) : Dev := d.memWrite 0x05 (d.linkAddr i) (leBytes 4 next)
def Dev.elemWrite (d : Dev) (i : Nat) (bs : List Byte) : Dev := d.memWrite 0x05 (d.elemAddr i) bs

/-- An element of a layout the spec leaves open. -/
def Dev.elemFill (d : Dev) (i kind : Nat) (vals : List Int) : Dev :=
  d.elemWrite i ((List.range 128).map (Config.elementByte kind vals))

/-- A queue's descriptor follows its elements; that of a retired queue stays as it is (R241). -/
def Dev.queueWrite (d : Dev) (q : Nat) (bs : List Byte) : Dev := if d.shf.retired.contains q then d else d.descWrite q bs

/-- The link words of a queue's elements, each with the next element. -/
def linksOf (elems : List Nat) : List (Nat × Nat) := elems.zip (elems.drop 1 ++ [noElem])

/-- A queue's elements change: Shaft writes the link words that differ. -/
def Dev.relink (d : Dev) (old new : List Nat) : Dev :=
  ((linksOf new).filter (fun p => !(linksOf old).contains p)).foldl (fun d p => d.linkWrite p.1 p.2) d

/-- Free elements now. -/
def Dev.elemsFree (d : Dev) : Nat := d.elemCnt - d.shf.fresh + d.shf.freed.length

/-- First and last element of the free pool. -/
def Dev.poolHead (d : Dev) : Nat := if d.shf.fresh < d.elemCnt then d.shf.fresh else d.shf.freed.headD noElem
def Dev.poolTail (d : Dev) : Option Nat :=
  match d.shf.freed.getLast? with
  | some i => some i
  | none => if d.shf.fresh < d.elemCnt then some (d.elemCnt - 1) else none

/-- The descriptor of the free pool. -/
def Dev.poolDesc (d : Dev) : List Byte :=
  leBytes 4 d.poolHead ++ leBytes 4 (d.poolTail.getD noElem) ++ leBytes 4 d.elemsFree ++ leBytes 4 0 ++ leBytes 1 4 ++ leBytes 15 0

/-- SHF_FREE_ELEMS and the pool's descriptor follow the pool. -/
def Dev.poolShow (d : Dev) : Dev :=
  (d.setReg R.SHF_FREE_ELEMS (BitVec.ofNat 32 d.elemsFree)).queueWrite poolQueue d.poolDesc

/-! ### Memory errors (R241) -/

/-- An uncorrectable error in Shaft memory is counted and logged. -/
def Dev.shfMemErr (d : Dev) (what : Nat) : Dev :=
  ((d.bump ⟨R.SHF_MEMERR_CNT, 0, 32⟩).shfEvent 4).logPut 0x06 .shaftMemErr [what]

def Dev.asyJobs (d : Dev) (m : Nat) : List AsyJob := tget (fun _ => []) d.asy.jobs m

/-- ASY_STATUS counts the waiting jobs of every mosaic. -/
def Dev.jobsShow (d : Dev) : Dev :=
  d.put ⟨R.ASY_STATUS, 0, 16⟩ (min 65535 ((List.range 4).foldl (fun n i => n + (d.asyJobs i).length) 0))

/-- What a retired queue held is lost to the pool: a ring's records, a job queue's jobs, the pool's elements. A track's queue is the
settling engine's to close. -/
def Dev.queueLost (d : Dev) (q : Nat) : Dev :=
  if q = poolQueue then
    { d with shf := { d.shf with fresh := d.elemCnt, freed := [] } }.setReg R.SHF_FREE_ELEMS 0
  else if 1044480 ≤ q then
    { d with asy := { d.asy with jobs := tset (fun _ => []) d.asy.jobs (q - 1044480) [] } }.jobsShow
  else if 1040384 ≤ q then
    let n := q - 1040384
    { d with shf := { d.shf with rings := tset (fun _ => []) d.shf.rings n [], placed := d.shf.placed.filter (fun x => x != n) } }.put
      ⟨R.DR_n_STATUS n, 0, 24⟩ 0
  else d

/-- An error in a descriptor or a link word retires the queue until reset. -/
def Dev.retire (d : Dev) (q : Nat) : Dev :=
  let d := ({ d with shf := { d.shf with retired := q :: d.shf.retired } }.descWrite q (descBytes [] 0 5 0 0 0 0 0)).shfMemErr q
  d.queueLost q

/-- Read link words: whether one of them is unreadable. -/
def Dev.linksRead (d : Dev) : List Nat → Bool × Dev
  | [] => (false, d)
  | i :: is =>
    match d.memRead 0x05 (d.linkAddr i) 4 with
    | (_, true, d) => (true, d)
    | (_, false, d) => d.linksRead is

/-- Shaft reads a queue's descriptor and link words of it: an uncorrectable error retires the queue. Answers whether the queue is in
service. -/
def Dev.queueOk (d : Dev) (q : Nat) (links : List Nat) : Bool × Dev :=
  if d.shf.retired.contains q then (false, d) else
  match d.memRead 0x05 (d.descAddr q) 32 with
  | (_, true, d) => (false, d.retire q)
  | (_, false, d) =>
    match d.linksRead links with
    | (true, d) => (false, d.retire q)
    | (false, d) => (true, d)

/-- Shaft reads an element: whether it is unreadable, which is counted. -/
def Dev.elemRead (d : Dev) (i : Nat) : List Byte × Bool × Dev :=
  match d.memRead 0x05 (d.elemAddr i) 128 with
  | (bs, err, d) => (bs, err, if err then d.shfMemErr i else d)

/-- Take a free element: the pool's descriptor and the link word of its first element are read. -/
def Dev.elemAlloc (d : Dev) : Option Nat × Dev :=
  if d.elemsFree = 0 then (none, d)
  else
    match d.queueOk poolQueue [d.poolHead] with
    | (false, d) => (none, d)
    | (true, d) =>
      let i := d.poolHead
      if d.shf.fresh < d.elemCnt then (some i, { d with shf := { d.shf with fresh := d.shf.fresh + 1 } }.poolShow)
      else (some i, { d with shf := { d.shf with freed := d.shf.freed.drop 1 } }.poolShow)

/-- Give elements back, at the pool's tail; to a retired pool they are lost. -/
def Dev.elemsGive (d : Dev) (is : List Nat) : Dev :=
  if is = [] then d
  else
    match d.queueOk poolQueue [] with
    | (false, d) => d
    | (true, d) =>
      let tail := d.poolTail.toList
      ({ d.relink tail (tail ++ is) with shf := { d.shf with freed := d.shf.freed ++ is } }).poolShow

/-! ### Delivery rings (R236 to R240) -/

def Dev.ringElems (d : Dev) (n : Nat) : List Nat := tget (fun _ => []) d.shf.rings n

/-- DEST: 3 is treated as 0, and a ring that nothing claims for delivery carries no copy (Tables 11-8, 20-7). -/
def Dev.ringDest (d : Dev) (n : Nat) : Nat :=
  if d.claimedUse 5 (ringQueue n) = 2 then d.fld ⟨R.DR_n_CFG n, 0, 2⟩ % 3 else 0

def Dev.ringEngine (d : Dev) (n : Nat) : Nat := d.fld ⟨R.DR_n_CFG n, 2, 4⟩
def Dev.ringLimit (d : Dev) (n : Nat) : Nat := max 1 (d.fld ⟨R.DR_n_LIMIT n, 0, 24⟩)
def Dev.ringAlive (d : Dev) (n : Nat) : Nat := d.fld ⟨R.DR_n_STATUS n, 24, 8⟩

/-- A DMA engine runs: RUNNING in its status. -/
def Dev.engineRunning (d : Dev) (e : Nat) : Bool := d.bit ⟨R.HIF_DMAe_STATUS e, 0, 1⟩

/-- A ring's descriptor and status follow its elements. -/
def Dev.ringShow (d : Dev) (n : Nat) : Dev :=
  let es := d.ringElems n
  (d.put ⟨R.DR_n_STATUS n, 0, 24⟩ es.length).queueWrite (ringQueue n)
    (descBytes es (d.fld ⟨R.DR_n_LIMIT n, 0, 24⟩) 3 0 (d.ringDest n) (d.ringAlive n) (tget (fun _ => 0) d.shf.lost n) 0)

def Dev.setRing (d : Dev) (n : Nat) (es : List Nat) : Dev :=
  { d with shf := { d.shf with rings := tset (fun _ => []) d.shf.rings n es } }

/-- A copy is not placed: it counts as dropped or as skipped, and the next copy placed carries LOSS (R237, R238). -/
def Dev.ringLose (d : Dev) (n : Nat) (skipped : Bool) : Dev :=
  let d := { d with shf := { d.shf with loss := tset (fun _ => false) d.shf.loss n true
                                        lost := tset (fun _ => 0) d.shf.lost n (min (2 ^ 64 - 1)
                                          (tget (fun _ => 0) d.shf.lost n + 1)) } }.ringShow n
  if skipped then d.bump ⟨R.DR_n_DROP n, 16, 16⟩
  else ((d.bump ⟨R.DR_n_DROP n, 0, 16⟩).shfEvent 3).raise 0x4 6

/-- Bytes with one replaced. -/
def setByte (bs : List Byte) (i v : Nat) : List Byte := bs.set i (BitVec.ofNat 8 v)

/-- The copy of a record that a ring takes: ALIVE, LOSS and the CRC (R237). -/
def copyBytes (bs : List Byte) (alive : Nat) (loss : Bool) : List Byte :=
  let bs := setByte bs 4 alive
  let bs := if loss then setByte bs 2 (byteAt bs 2 % 32 + 32 + byteAt bs 2 / 64 * 64) else bs
  bs ++ leBytes 4 (crc32c bs)

/-- Place a copy of a record (its bytes 0 to 123) in a ring, in the element that is held if there is one; the element that
is held afterwards (R236 to R238). -/
def Dev.ringPlace (d : Dev) (n : Nat) (bs : List Byte) (held : Option Nat) : Option Nat × Dev :=
  let dest := d.ringDest n
  if dest = 0 ∨ (dest = 2 ∧ !d.engineRunning (d.ringEngine n)) then (held, d.ringLose n true)
  else if d.ringLimit n ≤ (d.ringElems n).length then (held, d.ringLose n false)
  else
    match d.queueOk (ringQueue n) (d.ringElems n).getLast?.toList with
    | (false, d) => (held, d.ringLose n false)
    | (true, d) =>
      match (match held with
        | some i => (some i, d)
        | none => d.elemAlloc) with
      | (none, d) => (none, d.ringLose n false)
      | (some i, d) =>
        let alive := d.ringAlive n
        let d := d.elemWrite i (copyBytes bs alive (tget (fun _ => false) d.shf.loss n))
        let d := d.relink (d.ringElems n) (d.ringElems n ++ [i])
        let d := d.setRing n (d.ringElems n ++ [i])
        let d := { d with shf := { d.shf with loss := tset (fun _ => false) d.shf.loss n false, placed := d.shf.placed ++ [n] } }
        (none, (d.put ⟨R.DR_n_STATUS n, 24, 8⟩ ((alive + 1) % 256)).ringShow n)

/-- A consumer reports the record at a ring's head delivered: its element returns to the pool (R239), and a trial has seen
a record delivered (Table 21-5). -/
def Dev.ringPop (d : Dev) (n : Nat) : Dev :=
  match d.ringElems n with
  | [] => d
  | i :: rest =>
    let d := d.trialNote 4
    match d.queueOk (ringQueue n) [i] with
    | (false, d) => d
    | (true, d) =>
    let d := d.setRing n rest
    (({ d with shf := { d.shf with placed := d.shf.placed.erase n } }).elemsGive [i]).ringShow n

/-! ### The datagrams of the record stream (R336, R337) -/

/-- Is a port enabled: present, and its NETx_EN set (R320, R325)? -/
def Dev.netEn (d : Dev) (p : Nat) : Bool := decide (p < d.variant.netPorts) && d.bit ⟨R.NET_CFG, p, 1⟩

def Dev.netActive (d : Dev) : Option Nat :=
  if d.bit ⟨R.NET_STATUS, 1, 1⟩ then some (d.fld ⟨R.NET_STATUS, 0, 1⟩) else none

/-- The port that takes records from the rings: the new port from a switchover's arrival point on. -/
def Dev.netSender (d : Dev) : Option Nat :=
  match d.net.switch with
  | some (p, _) => some p
  | none => d.netActive

/-- BATCH_MAX: 0 treated as 1, above 11 as 11; BATCH_T in ns: 0 treated as 1 µs, above 500 µs as 500. -/
def Dev.batchMax (d : Dev) : Nat := clampNat 1 11 (d.fld ⟨R.NET_BATCH, 0, 4⟩)
def Dev.batchT (d : Dev) : Nat := clampNat 1 500 (d.fld ⟨R.NET_BATCH, 16, 9⟩) * 1000

/-- The ring of every record that the port's datagrams hold, oldest first. -/
def NetPort.rings (x : NetPort) : List Nat :=
  x.fifo.flatMap (fun f => f.elems.map (fun _ => f.ring)) ++
  match x.cur with
  | some c => c.elems.map (fun _ => c.ring)
  | none => []

/-- The ring whose head record, of those not yet taken into a datagram of the port, was placed earliest (R336). -/
def Dev.netHead (d : Dev) (p : Nat) : Option Nat :=
  ((d.netPort p).rings.foldl (fun l n => l.erase n) d.shf.placed).find? (fun n => d.ringDest n == 1)

/-- Records of a ring that the port's datagrams do not hold yet. -/
def Dev.netWaiting (d : Dev) (p n : Nat) : List Nat := (d.ringElems n).drop ((d.netPort p).rings.filter (· == n)).length

/-- The bytes of records, read as a datagram takes them. -/
def Dev.readElems (d : Dev) : List Nat → List (List Byte) × Dev
  | [] => ([], d)
  | i :: is =>
    let (bs, _, d) := d.memRead 0x05 (d.elemAddr i) 128
    let (more, d) := Dev.readElems d is
    (bs :: more, d)

def Dev.setCur (d : Dev) (p : Nat) (c : NetOpen) : Dev := d.setNetPort p { d.netPort p with cur := some c }

/-- The port takes the records that wait: more of its ring into the datagram it fills, or a first one of the earliest ring. -/
def Dev.netJoin (d : Dev) (p : Nat) : Dev :=
  match (d.netPort p).cur with
  | some c =>
    if c.due then d
    else d.setCur p { c with elems := c.elems ++ (d.netWaiting p c.ring).take (d.batchMax - c.elems.length) }
  | none =>
    match d.netHead p with
    | none => d
    | some n => d.setCur p { ring := n, elems := (d.netWaiting p n).take d.batchMax, t := d.now2 }

/-- A datagram that is full, or whose BATCH_T has passed, goes to the transmit FIFO, which holds at most four (R329, R337). -/
def Dev.netClose (d : Dev) (p : Nat) : Dev :=
  match (d.netPort p).cur with
  | none => d
  | some c =>
    if (c.due || decide (d.batchMax ≤ c.elems.length)) && decide ((d.netPort p).fifo.length < 4) then
      let (recs, d) := d.readElems c.elems
      d.setNetPort p { d.netPort p with cur := none, fifo := (d.netPort p).fifo ++ [{ ring := c.ring, elems := c.elems, recs := recs }] }
    else d

/-- The port that sends takes records, and closes datagrams while the FIFO has room. -/
def Dev.netFill (d : Dev) (p : Nat) : Dev :=
  if d.netSender = some p ∧ d.inspReady ∧ d.netLink p then
    (List.range 5).foldl (fun d _ => (d.netJoin p).netClose p) d
  else d

/-- The sending port, if there is one, takes the records placed. -/
def Dev.netFeed (d : Dev) : Dev :=
  match d.netSender with
  | some p => d.netFill p
  | none => d

/-- The datagram that the port fills closes with the records it has. -/
def Dev.netDue (d : Dev) (p : Nat) : Dev :=
  match (d.netPort p).cur with
  | some c => (d.setCur p { c with due := true }).netFill p
  | none => d

/-! ### The record builder (R231 to R237) -/

/-- The fields of a record that do not depend on its building (Table 11-4). -/
structure RecDraft where
  ty : Nat
  flags : Nat := 0
  mos : Nat
  stamp : Stamp
  mdCu : Int := 0
  mdUm : Int := 0
  cdUm : Int := 0
  bbMd : Nat := 0
  bbCd : Nat := 0
  area : Nat := 0
  body : List Byte := []

/-- Bytes 16 to 119 of a record. -/
def RecDraft.mid (r : RecDraft) : List Byte :=
  r.stamp.bytes ++ leBytes 4 0 ++ leBytes 8 (ofSigned 64 r.mdCu) ++ leBytes 8 (ofSigned 64 r.mdUm) ++
  leBytes 4 (ofSigned 32 r.cdUm) ++ leBytes 4 (min r.bbMd 0xFFFFFFFF) ++ leBytes 4 (min r.bbCd 0xFFFFFFFF) ++
  leBytes 4 (min r.area 0xFFFFFFFF) ++ (r.body ++ List.replicate (56 - r.body.length) 0).take 56

/-- Bytes 0 to 3: TYPE, VER 1 on time base 0, and RFLAGS. -/
def RecDraft.head (r : RecDraft) : List Byte := leBytes 1 r.ty ++ leBytes 1 1 ++ leBytes 2 r.flags

/-- MD_UM of a position by a mosaic's COUNTS_PER_M (R233). With COUNTS_PER_M 0 the spec states no value: it is free. -/
def Dev.mdUm (d : Dev) (m : Nat) (md : Int) : Int × Dev :=
  let cpm := (d.reg (R.REC_MOSm_CPM m)).toNat
  if cpm = 0 then
    let (v, d) := d.drawNat
    (toSigned 64 v, d)
  else (roundAway (md * 1000000) cpm, d)

/-- Bytes 0 to 123 of a complete record: STREAM_SEQ and the mark of an unlocked TB0 written (R232, R235). -/
def Dev.recFill (d : Dev) (bs : List Byte) : List Byte :=
  let bs := bs.take 8 ++ leBytes 8 (d.reg64 R.REC_SEQ_LO) ++ bs.drop 16
  if d.tb0Locked then bs else setByte bs 2 (byteAt bs 2 % 64 + 64 + byteAt bs 2 / 128 * 128)

/-- A record is complete: it takes STREAM_SEQ, is counted, and a copy goes to each enabled ring of its route (R235, R236).
`bs` are its bytes 0 to 123 with STREAM_SEQ still open. -/
def Dev.recBuild (d : Dev) (route : Nat) (bs : List Byte) (held : Option Nat) : Dev :=
  let seq := d.reg64 R.REC_SEQ_LO
  let bs := d.recFill bs
  let d := d.setReg64 R.REC_SEQ_LO (seq / 2 ^ 52 * 2 ^ 52 + (seq % 2 ^ 52 + 1) % 2 ^ 52)
  let d := d.bump ⟨R.REC_CNT, 0, 32⟩
  let (held, d) := if d.bit ⟨route, 12, 1⟩ then d.ringPlace (d.fld ⟨route, 0, 12⟩) bs held else (held, d)
  let (held, d) := if d.bit ⟨route, 28, 1⟩ then d.ringPlace (d.fld ⟨route, 16, 12⟩) bs held else (held, d)
  match held with
  | none => d.netFeed
  | some i => (d.elemsGive [i]).netFeed

/-- The route of a record: its mosaic's, or the system route for PORT_HEALTH, STATUS and records without a mosaic (R236). -/
def routeOf (ty mos : Nat) : Nat := if ty = 5 ∨ ty = 6 ∨ 4 ≤ mos then R.REC_SYS_ROUTE else R.REC_MOSm_ROUTE mos

/-- Bytes 0 to 123 of a record that has no track (R231): class 0xFF, confidence 0, no patch. -/
def RecDraft.whole (r : RecDraft) : List Byte :=
  r.head ++ leBytes 1 0 ++ leBytes 1 r.mos ++ leBytes 1 0xFF ++ leBytes 1 0 ++ leBytes 8 0 ++ r.mid ++ leBytes 4 0xFFFFFFFF

/-- Build a record that has no track (R231). -/
def Dev.recNew (d : Dev) (r : RecDraft) : Dev := d.recBuild (routeOf r.ty r.mos) r.whole none

/-- Complete the pre-record of a summary element: class, confidence, cause, padding, patch reference (R231, R232, R241). -/
def Dev.recComplete (d : Dev) (summ m cls conf cause : Nat) (padded memErr : Bool) (ref : Nat) : Dev :=
  match d.elemRead summ with
  | (bs, err, d) =>
    let f := fieldAt bs 2 2
    let f := f ||| (if err || memErr then 2 else 0) ||| (if padded then 8 else 0) ||| (cause * 256)
    d.recBuild (R.REC_MOSm_ROUTE m)
      (bs.take 2 ++ leBytes 2 f ++ leBytes 1 0 ++ (bs.drop 5).take 1 ++ leBytes 1 cls ++ leBytes 1 conf ++ leBytes 8 0 ++
        (bs.drop 16).take 104 ++ leBytes 4 ref) (some summ)

/-- Write a pre-record into a summary element: the bytes still open stay as they are (R229). -/
def Dev.preRecord (d : Dev) (summ : Nat) (r : RecDraft) : Dev :=
  ((d.elemWrite summ r.head).memWrite 0x05 (d.elemAddr summ + 5) (leBytes 1 r.mos)).memWrite 0x05 (d.elemAddr summ + 16) r.mid

/-! ### Patch jobs (R201, R215, R229, R230) -/

def Dev.jobLimit (d : Dev) : Nat := max 1 (d.fld ⟨R.SHF_JOB_LIMIT, 0, 24⟩)

/-- The patch job queue of a mosaic changes: its links, its descriptor and ASY_STATUS follow. -/
def Dev.setJobs (d : Dev) (m : Nat) (js : List AsyJob) : Dev :=
  let d := d.relink ((d.asyJobs m).map (·.elem)) (js.map (·.elem))
  let d := { d with asy := { d.asy with jobs := tset (fun _ => []) d.asy.jobs m js } }.jobsShow
  d.queueWrite (jobQueue m) (descBytes (js.map (·.elem)) (d.reg R.SHF_JOB_LIMIT).toNat 2 0 m 0 0 0)

/-- An ASY_EVENT bit sets (vector 41). -/
def Dev.asyEvent (d : Dev) (bit : Nat) : Dev := d.sticky ⟨R.ASY_EVENT, bit, 1⟩ 41 true

/-- Is Assay on for a mosaic: present, ASY_EN, and the active MOS_ASY_EN (R201)? -/
def Dev.asyOn (d : Dev) (m : Nat) : Bool :=
  d.variant.assay && d.bit ⟨R.ASY_CTRL, 0, 1⟩ && d.actFld ⟨R.ASY_MOSm_CFG m, 0, 1⟩ == 1

/-- Assay's settings of a mosaic in force, its network, and the fields of a patch centred at a position: mosaic, centre line and centre
column (R202). -/
def Dev.asyFld (d : Dev) (m lo w : Nat) : Nat := d.actFld ⟨R.ASY_MOSm_CFG m, lo, w⟩
def Dev.asyNet (d : Dev) (n : Nat) : Option AsyNet := tget noneAt d.asy.nets n
def Dev.patchCentres (d : Dev) (m : Nat) (md cd : Int) (net : AsyNet) : List (Nat × Int × Int) :=
  (List.range (netFields net.blob)).map (fun f =>
    let fm := if f = 0 then m else d.asyFld m (4 + 2 * (f - 1)) 2
    let ofsM : Int := if f = 0 then 0 else toSigned 32 (d.act (R.ASY_MOSm_OFS_MDf m (f - 1))).toNat
    let ofsC : Int := if f = 0 then 0 else toSigned 32 (d.act (R.ASY_MOSm_OFS_CDf m (f - 1))).toNat
    let g := d.mosGrid fm
    let (n, k) := g.mean
    (fm, roundDiv ((md + ofsM - g.org) * (k : Int)) (n : Int), (cd + ofsC) * 1000 / (d.colPitch fm : Int)))

/-- A record is issued UNASSAYED (R215): counted under its cause, except cause OFF (5), and raised. -/
def Dev.unassayed (d : Dev) (summ m cause : Nat) (padded memErr : Bool) : Dev :=
  let d := if cause = 5 then d else d.bump ⟨R.ASY_UNA_CNT, 8 * (cause - 1), 8⟩
  let d := if d.variant.assay then (d.asyEvent 0).raise 0x4 0 else d
  d.recComplete summ m 0xFF 0 cause padded memErr 0xFFFFFFFF

/-- The job of a kept track: queued, refused, or its record built at once (R201, R229, R230). -/
def Dev.jobNew (d : Dev) (m summ : Nat) (md cd : Int) (id piece : Nat) : Dev :=
  if !d.asyOn m then d.unassayed summ m 5 false false
  else
    let refused (d : Dev) := ((d.shfEvent 2).raise 0x4 5).unassayed summ m 4 false false
    if d.jobLimit ≤ (d.asyJobs m).length then refused d
    else
      match d.queueOk (jobQueue m) ((d.asyJobs m).getLast?.map (·.elem)).toList with
      | (false, d) => refused d
      | (true, d) =>
        match d.elemAlloc with
        | (none, d) => refused d
        | (some i, d) =>
          let j : AsyJob := { elem := i, summ := summ, queueT := d.now2, md := md, cd := cd, id := id, piece := piece }
          let slot := d.asyFld m 1 2
          let places := match d.asyNet slot with
            | none => []
            | some net => (d.patchCentres m md cd net).flatMap (fun f => [f.2.1, f.2.2])
          let d := d.elemFill i 2 ([(summ : Int), (d.now2 : Int), (slot : Int)] ++ places)
          d.setJobs m (d.asyJobs m ++ [j])

/-- The loader lays the descriptors and the link array, and writes the descriptors of the pool, the job queues and the rings that the
image claims (R222, R224). -/
def Dev.layShaft (d : Dev) : Dev :=
  let d := d.layAreas { desc := d.descAddr 0, link := d.linkAddr 0, elems := d.elemCnt, tracks := d.fld ⟨R.SHF_TRACK_CNT, 0, 21⟩ }
  let d := (List.range 4).foldl (fun d m => d.setJobs m (d.asyJobs m)) d.poolShow
  let rings := (d.cfg.claims.filter (fun c => c.cls == 5 && c.use == 2)).flatMap (fun c =>
    (List.range c.count).map (fun i => c.first + i - ringQueue 0))
  rings.foldl (fun d n => d.ringShow n) d

/-! ### Commands (R243, R240) -/

/-- 0x0601 SHF_INFO. -/
def execShfInfo (tag : Word) (args : List Word) (s : State) : Res :=
  onDev (fun d => d.mailbox 0x0601 false (args.length == 0) tag args fun d => .ok d (d.regsBytes (listedIn 0x600000 0x600050))) s

/-- The elements of a queue from its head: a track's fragments, a job queue, a ring, or the free pool. -/
def Dev.queueElems (d : Dev) (q n : Nat) : List Nat :=
  if q < 1040384 then
    match d.lode.tracks.find? (fun t => t.q == q) with
    | some t => t.elems.take n
    | none => []
  else if q < 1044480 then (d.ringElems (q - 1040384)).take n
  else if q < 1044484 then ((d.asyJobs (q - 1044480)).map (·.elem)).take n
  else if q = poolQueue then ((List.range (min n (d.elemCnt - d.shf.fresh))).map (· + d.shf.fresh) ++ d.shf.freed).take n
  else []

/-- A queue's descriptor as Shaft holds it (Table 11-2). -/
def Dev.queueDesc (d : Dev) (q : Nat) : List Byte :=
  if d.shf.retired.contains q then descBytes [] 0 5 0 0 0 0 0
  else if q < 1040384 then
    match d.lode.tracks.find? (fun t => t.q == q) with
    | some t => descBytes t.elems 0 1 (if t.marked then 2 else 1) t.mos 0 t.openT t.summ
    | none => if q < d.fld ⟨R.SHF_TRACK_CNT, 0, 21⟩ then descBytes [] 0 1 0 0 0 0 0 else descBytes [] 0 0 0 0 0 0 0
  else if q < 1044480 then
    let n := q - 1040384
    descBytes (d.ringElems n) (d.fld ⟨R.DR_n_LIMIT n, 0, 24⟩) 3 0 (d.ringDest n) (d.ringAlive n)
      (tget (fun _ => 0) d.shf.lost n) 0
  else if q < 1044484 then
    descBytes ((d.asyJobs (q - 1044480)).map (·.elem)) (d.reg R.SHF_JOB_LIMIT).toNat 2 0 (q - 1044480) 0 0 0
  else if q = poolQueue then d.poolDesc
  else descBytes [] 0 0 0 0 0 0 0

/-- 0x0602 SHF_QUEUE_READ. -/
def execShfQueueRead (tag : Word) (args : List Word) (s : State) : Res :=
  onDev (fun d => d.mailbox 0x0602 false (args.length == 2) tag args fun d => d.readsDram fun d =>
    let q := (args.getD 0 0).toNat
    let n := (args.getD 1 0).toNat
    if 1048576 ≤ q ∨ 16 < n then .fail stBadArg
    else
      let d := (d.queueOk q (d.queueElems q n)).2
      let r := (d.queueElems q n).foldl (fun (x : List Byte × Dev) i =>
        let (b, _, d) := x.2.elemRead i
        (x.1 ++ b, d)) ([], d)
      .ok r.2 (r.2.queueDesc q ++ r.1)) s

/-- Does the image claim a ring for delivery (R242)? -/
def Dev.ringClaimed (d : Dev) (n : Nat) : Bool := d.cfg.claims.any (fun c => !c.host && c.covers 5 (ringQueue n) && c.use == 2)

/-- 0x0603 DR_CONFIG: under R240 the setting is whole from here on. -/
def execDrConfig (tag : Word) (args : List Word) (s : State) : Res :=
  onDev (fun d => d.mailbox 0x0603 false (args.length == 4) tag args fun d =>
    let n := (args.getD 0 0).toNat
    let dest := (args.getD 1 0).toNat
    let eng := (args.getD 2 0).toNat
    let lim := (args.getD 3 0).toNat
    if 4096 ≤ n ∨ 3 ≤ dest ∨ 16 ≤ eng ∨ 2 ^ 24 ≤ lim then .fail stBadArg
    else if !d.ringClaimed n then .fail stConflict
    else
      let d := (d.put ⟨R.DR_n_CFG n, 0, 2⟩ dest).put ⟨R.DR_n_CFG n, 2, 4⟩ eng
      .ok ((d.put ⟨R.DR_n_LIMIT n, 0, 24⟩ lim).ringShow n) []) s

end Sys2Proof.Machine
end

