-- ==== Sys2Proof/Machine/Tracks.lean ====
section
/-! DEFINITION. Tracks: accumulators, track features (R196, R197), opening, joining and merging in Shaft (R225 to R228), closure
(R190, R229), cuts (R191) and force-closing (R226, R227). -/

namespace Sys2Proof.Machine

/-! ### Accumulators (Table 9-2) -/

/-- The same pixels with their lines counted from `n` lines further up. -/
def Accum.shift (x : Accum) (n : Nat) : Accum :=
  { x with j0 := x.j0 - n, sj := x.sj + n * x.a, sjj := x.sjj + 2 * n * x.sj + n * n * x.a, sjc := x.sjc + n * x.sc }

/-- Two sets of pixels together. -/
def Accum.add (x y : Accum) : Accum :=
  if x.a = 0 then y
  else if y.a = 0 then x
  else
    let j0 := if x.j0 ≤ y.j0 then x.j0 else y.j0
    let p := x.shift (x.j0 - j0).toNat
    let q := y.shift (y.j0 - j0).toNat
    { a := p.a + q.a, seeds := p.seeds + q.seeds, j0 := j0, j1 := if p.j1 ≤ q.j1 then q.j1 else p.j1,
      c0 := min p.c0 q.c0, c1 := max p.c1 q.c1, sj := p.sj + q.sj, sc := p.sc + q.sc, sjj := p.sjj + q.sjj,
      scc := p.scc + q.scc, sjc := p.sjc + q.sjc, sd := p.sd + q.sd, sv := p.sv + q.sv, svv := p.svv + q.svv,
      vmin := min p.vmin q.vmin, vmax := max p.vmax q.vmax, dpeak := max p.dpeak q.dpeak, ps := p.ps + q.ps,
      lf := p.lf ||| q.lf, adj := p.adj ||| q.adj }

/-- MD_LINES and CD_COLS (Table 9-4). -/
def Accum.lines (x : Accum) : Nat := if x.a = 0 then 0 else (x.j1 - x.j0 + 1).toNat
def Accum.cols (x : Accum) : Nat := if x.a = 0 then 0 else x.c1 - x.c0 + 1

/-! ### Rounding of irrational features -/

/-- The greatest number below 2^b that meets a condition met by every lesser one; 0 when none does. -/
def greatest (p : Nat → Bool) : Nat → Nat → Nat
  | 0, acc => acc
  | b + 1, acc => greatest p b (if p (acc + 2 ^ b) then acc + 2 ^ b else acc)

/-- The fixed point of the angle computations: 320 fractional bits. -/
def fx : Nat := 2 ^ 320

/-- tan(x/2) from tan(x), fixed point. -/
def halfTan (t : Nat) : Nat := t * fx / (fx + greatest (fun s => decide (s * s ≤ fx * fx + t * t)) 322 0)

/-- The terms of the arctangent series from term `i` on: `p` is the power t^(2i+1). -/
def atanTerms (t : Nat) : Nat → Nat → Nat → Int
  | 0, _, _ => 0
  | n + 1, i, p => ((p / (2 * i + 1) : Nat) : Int) - atanTerms t n (i + 1) (p * t / fx * t / fx)

/-- arctan(a/b) for a ≤ b, radians, fixed point. -/
def atanFx (a b : Nat) : Int :=
  let t := halfTan (halfTan (halfTan (a * fx / b)))
  8 * atanTerms t 56 0 t

/-- π, fixed point. -/
def piFx : Int := 4 * atanFx 1 1

/-- Half the angle of the vector (x, y), in 0.01°, to the nearest, in (−9000, 9000] (R196). -/
def halfAngle (y x : Int) : Int :=
  if x = 0 ∧ y = 0 then 0
  else
    let a := x.natAbs
    let b := y.natAbs
    let f := if b ≤ a then atanFx b a else piFx / 2 - atanFx a b
    let f := if x < 0 then piFx - f else f
    let r := roundAway (f * 9000) piFx
    if y < 0 then (if r = 9000 then 9000 else -r) else r

/-! ### Features (R196, R197, Table 9-4) -/

/-- Scaled second moments over a common factor: m_yy, m_xx and m_xy. `pn / pd` is P_MD and `cp` P_CD. -/
def moments (x : Accum) (pn pd cp : Nat) : Int × Int × Int :=
  let njj : Int := (x.sjj * x.a : Nat) - (x.sj * x.sj : Nat)
  let ncc : Int := (x.scc * x.a : Nat) - (x.sc * x.sc : Nat)
  let njc : Int := (x.sjc * x.a : Nat) - (x.sj * x.sc : Nat)
  (njj * (pn * pn : Nat), ncc * (cp * cp * pd * pd : Nat), njc * (pn * cp * pd : Nat))

/-- ELONG: √(λ1/λ2), u8.8; 0xFFFF when λ2 is 0. -/
def elong (y x z : Int) : Nat :=
  let det := x * y - z * z
  let s := x + y
  let q := (y - x) * (y - x) + 4 * z * z
  if det ≤ 0 then 0xFFFF
  else
    -- n is reached when (2n - 1)√det ≤ 256(s + √q)
    greatest (fun n =>
      let m : Int := 2 * (n : Int) - 1
      let l := m * m * det - 65536 * (s * s + q)
      decide (l ≤ 0) || decide (l * l ≤ 131072 * s * (131072 * s) * q)) 16 0

/-- STD_V: √(SVV/A − (SV/A)²). -/
def stdV (x : Accum) : Nat :=
  let v : Int := (x.svv * x.a : Nat) - (x.sv * x.sv : Nat)
  greatest (fun n => decide (((2 * n - 1) * x.a : Nat) * ((2 * n - 1) * x.a : Nat) ≤ 4 * v)) 16 0

/-- a / b to the nearest, halves up, held to w bits; all ones when b is 0. -/
def ratio (w a b : Nat) : Nat := if b = 0 then 2 ^ w - 1 else min (2 ^ w - 1) ((2 * a + b) / (2 * b))

/-- COMPACT: 4π × A / PERIM², u2.14. -/
def compact (a perim : Nat) : Nat := ratio 16 (16384 * 4 * a * piFx.toNat) (perim * perim * fx)

/-- TFLAGS of a closing track: `how` holds the bits that its closure sets. -/
def Track.flags (t : Track) (how : Nat) : Nat :=
  (if t.bright then 1 else 0) + t.acc.lf / 8 % 2 * 2 + (if t.memErr || t.acc.lf / 64 % 2 == 1 then 4 else 0) +
  t.acc.lf % 2 * 8 + t.acc.adj % 2 * 16 + t.acc.adj / 2 % 2 * 32 + how + (if t.ovf then 512 else 0)

/-- P_MD in nanometres as a fraction: the mean pitch by COUNTS_PER_M. -/
def Dev.pMd (d : Dev) (m : Nat) : Nat × Nat :=
  let (n, k) := (d.mosGrid m).mean
  (n * 1000000000, k * (d.reg (R.REC_MOSm_CPM m)).toNat)

/-- The feature block of a track (Table 9-4). -/
def Dev.features (d : Dev) (t : Track) (how : Nat) : List Byte :=
  let x := t.acc
  let (pn, pd) := d.pMd t.mos
  let (yy, xx, xy) := moments x pn pd (d.colPitch t.mos)
  let perim := x.ps + t.sides
  leBytes 4 (min x.lines 0xFFFFFFFF) ++ leBytes 4 x.cols ++ leBytes 4 (min perim 0xFFFFFFFF) ++ leBytes 2 (ratio 16 x.sd x.a) ++
  leBytes 2 x.dpeak ++ leBytes 2 x.vmin ++ leBytes 2 x.vmax ++ leBytes 2 (stdV x) ++
  leBytes 2 (ofSigned 16 (halfAngle (2 * xy) (yy - xx))) ++ leBytes 2 (elong yy xx xy) ++
  leBytes 2 (ratio 16 (65536 * x.a) (x.lines * x.cols)) ++ leBytes 2 (compact x.a perim) ++ leBytes 2 (t.flags how) ++
  leBytes 4 (min x.seeds 0xFFFFFFFF) ++ leBytes 4 (min t.frags 0xFFFFFFFF) ++ leBytes 6 t.id ++ leBytes 2 (min t.piece 0xFFFF) ++
  leBytes 8 (ofSigned 64 ((d.mosGrid t.mos).at x.j0))

/-- MD position of a track (R197): GRID_ORG + (J0 + j̄) × PITCH, to the nearest count unit. -/
def Dev.trackMd (d : Dev) (t : Track) : Int :=
  let g := d.mosGrid t.mos
  let (n, k) := g.mean
  g.org + roundAway ((t.acc.j0 * (t.acc.a : Int) + (t.acc.sj : Int)) * (n : Int)) ((t.acc.a * k : Nat) : Int)

/-- CD of a track in µm (R197): ⌊(c̄ + 0.5) × COL_PITCH / 1,000⌋. -/
def Dev.trackCd (d : Dev) (t : Track) : Nat := (2 * t.acc.sc + t.acc.a) * d.colPitch t.mos / (2 * t.acc.a * 1000)

/-- TB0 time at an MD position: linear between T_FIRST and T_LAST of the stripe that holds a line, rounded down (R233). When
that stripe is no longer in history the spec states no value: it is free. -/
def Dev.lineTime (d : Dev) (m : Nat) (line md : Int) : Stamp × Dev :=
  match d.dirRead 0x05 m (line / 64) with
  | (some bs, d) =>
    let m0 := toSigned 64 (fieldAt bs 8 8)
    let m1 := toSigned 64 (fieldAt bs 16 8)
    let t0 : Int := (((fieldAt bs 24 6 * 1000000000 + fieldAt bs 30 4) * 65536 + fieldAt bs 34 2 : Nat) : Int)
    let t1 : Int := (((fieldAt bs 36 6 * 1000000000 + fieldAt bs 42 4) * 65536 + fieldAt bs 46 2 : Nat) : Int)
    let v := if m1 = m0 then t0 else t0 + (t1 - t0) * (md - m0) / (m1 - m0)
    ((TimeBase.ofTotal (v * 65536)).stamp, d)
  | (none, d) =>
    let (v, d) := d.drawNat
    ((TimeBase.ofTotal ((v : Int) * 65536)).stamp, d)

/-! ### Queues of tracks (R225, R226) -/

/-- Track queues in service and free. -/
def Dev.trackCnt (d : Dev) : Nat := min 1040384 (d.fld ⟨R.SHF_TRACK_CNT, 0, 21⟩)
def Dev.tracksFree (d : Dev) : Nat :=
  d.trackCnt - d.lode.tracks.length - (d.shf.retired.filter (fun q => decide (q < d.trackCnt) &&
    !(d.lode.tracks.any (fun t => t.q == q)))).length

/-- The lowest free track queue from `q` on. -/
def Dev.freeQueue (d : Dev) (q : Nat) : Nat → Nat
  | 0 => q
  | n + 1 => if d.shf.retired.contains q || d.lode.tracks.any (fun t => t.q == q) then d.freeQueue (q + 1) n else q

def Dev.openTracks (d : Dev) (m : Nat) : List Track := d.lode.tracks.filter (fun t => t.mos == m)

/-- The registers that count tracks follow them. -/
def Dev.tracksShow (d : Dev) (m : Nat) : Dev :=
  (d.put ⟨R.SHF_FREE_TRACKS, 0, 21⟩ d.tracksFree).put ⟨R.LODE_STATUS m, 8, 24⟩ (min (2 ^ 24 - 1) (d.openTracks m).length)

/-- The open tracks change: SHF_OPEN_PEAK keeps the most there were, those before the change among them (R242). -/
def Dev.setTracks (d : Dev) (ts : List Track) : Dev :=
  let was := d.shf.openNow
  { d with lode := { d.lode with tracks := ts }, shf := { d.shf with openNow := ts.length } }.keepMax ⟨R.SHF_OPEN_PEAK, 0, 21⟩
    (max was ts.length)

/-- A track with this queue changes. -/
def Dev.putTrack (d : Dev) (t : Track) : Dev := d.setTracks (d.lode.tracks.map (fun u => if u.q = t.q then t else u))

def Dev.trackOf (d : Dev) (q : Nat) : Option Track := d.lode.tracks.find? (fun t => t.q == q)

/-- The accumulators of a track or fragment as a list of numbers. -/
def Accum.vals (x : Accum) : List Int :=
  [x.j0, x.j1] ++ [x.a, x.seeds, x.c0, x.c1, x.sj, x.sc, x.sjj, x.scc, x.sjc, x.sd, x.sv, x.svv, x.vmin, x.vmax, x.dpeak, x.ps,
    x.lf, x.adj].map Int.ofNat

/-- Shaft writes a track's descriptor and summary element. -/
def Dev.trackWrite (d : Dev) (t : Track) : Dev :=
  (d.queueWrite t.q (descBytes t.elems 0 1 (if t.marked then 2 else 1) t.mos 0 t.openT t.summ)).elemFill t.summ 0
    (t.acc.vals ++ [(t.flags 0 : Int), (t.id : Int), (t.piece : Int)])

/-! ### Closure (R190, R229) -/

def lodeInit (_ : Nat) : LodeMos := {}
def Dev.lodeMos (d : Dev) (m : Nat) : LodeMos := tget lodeInit d.lode.mos m
def Dev.setLodeMos (d : Dev) (m : Nat) (x : LodeMos) : Dev :=
  { d with lode := { d.lode with mos := tset lodeInit d.lode.mos m x } }

/-- The ten banked settings words of a mosaic. -/
def lodeBanked (m : Nat) : List Nat := (List.range 10).map (fun i => R.LODE_THR_DARK m + 4 * i)
def setW (set : List Word) (i lo w : Nat) : Nat := getBits (set.getD i 0) lo w

/-- The settings by which a mosaic's tracks are judged: those of the last emission settled, which a commit that only a later emission
takes does not touch (R198); the active copy before the first. -/
def Dev.judgedBy (d : Dev) (m : Nat) : List Word :=
  let w := (d.lodeMos m).judged
  if w = [] then (lodeBanked m).map d.act else w

/-- MIN_AREA, MIN_MD, MIN_CD and MAX_MD_LINES (Table 9-6). -/
def minArea (s : List Word) : Nat := setW s 6 0 24
def minMd (s : List Word) : Nat := setW s 7 0 16
def minCd (s : List Word) : Nat := setW s 7 16 16
def maxMdLines (s : List Word) : Nat := setW s 8 0 24

/-- How R190 decides: kept, discarded without a seed, discarded below size. -/
inductive Verdict where
  | kept | noSeed | small
deriving DecidableEq, Repr

def Dev.verdict (d : Dev) (t : Track) : Verdict :=
  let s := d.judgedBy t.mos
  if t.acc.seeds = 0 then .noSeed
  else if t.acc.a < minArea s then .small
  else if t.acc.lines < minMd s ∧ t.acc.cols < minCd s then .small
  else .kept

/-- A LODE_EVENT bit sets (vector 40). -/
def Dev.lodeEvent (d : Dev) (m bit : Nat) : Dev := d.sticky ⟨R.LODE_EVENT m, bit, 1⟩ 40 true

/-- A kept piece becomes a pre-record and a patch job (R201, R229, R233). -/
def Dev.keepTrack (d : Dev) (t : Track) (how : Nat) : Dev :=
  let md := d.trackMd t
  let cd := d.trackCd t
  let line := roundAway (t.acc.j0 * (t.acc.a : Int) + (t.acc.sj : Int)) (t.acc.a : Int)
  let (um, d) := d.mdUm t.mos md
  let (at_, d) := d.lineTime t.mos line md
  let (pn, pd) := d.pMd t.mos
  let (bbMd, d) := if pd = 0 then d.drawNat else (t.acc.lines * pn / (pd * 1000), d)
  let f := t.flags how
  let r : RecDraft := { ty := if how / 64 % 2 = 1 then 2 else 1, mos := t.mos, stamp := at_, mdCu := md, mdUm := um, cdUm := cd,
                        flags := f / 2 % 2 + f / 4 % 2 * 2 + (if t.marked then 4 else 0) + f / 8 % 2 * 16,
                        bbMd := bbMd, bbCd := t.acc.cols * d.colPitch t.mos / 1000, area := t.acc.a, body := d.features t how }
  ((d.bump ⟨R.LODE_CLOSE_CNT t.mos, 0, 32⟩).preRecord t.summ r).jobNew t.mos t.summ md cd t.id (min t.piece 0xFFFF)

/-- Accumulators read from an unreadable summary element: their values are free. -/
def Dev.freeAccum (d : Dev) : Accum × Dev :=
  let vs := (List.range 20).foldl (fun (x : List Nat × Dev) _ => ((x.2.drawNat).1 :: x.1, (x.2.drawNat).2)) ([], d)
  let n (i : Nat) : Nat := vs.1.getD i 0
  ({ a := n 0, seeds := n 1, j0 := (n 2 : Int) - (n 3 : Int), j1 := (n 2 : Int) - (n 3 : Int) + (n 4 : Int), c0 := n 5, c1 := n 5 + n 6,
     sj := n 7, sc := n 8, sjj := n 9, scc := n 10, sjc := n 11, sd := n 12, sv := n 13, svv := n 14, vmin := n 15, vmax := n 16,
     dpeak := n 17, ps := n 18, lf := n 19 % 256, adj := n 19 / 256 % 4 }, vs.2)

/-- The summary element of an open track is read: in error its accumulators are free, and the track's record carries MEM_ERR (R241). -/
def Dev.summRead (d : Dev) (t : Track) : Track × Dev :=
  match d.elemRead t.summ with
  | (_, false, d) => (t, d)
  | (_, true, d) =>
    let (acc, d) := d.freeAccum
    ({ t with acc := acc, memErr := true }, d)

/-- The queue of an open track is read. An error retires it: its elements are lost to the pool, and the track closes as at a force-close, its
record with MEM_ERR (R241). -/
def Dev.trackRead (d : Dev) (t : Track) (links : List Nat) : Track × Dev :=
  match d.queueOk t.q links with
  | (true, d) => (t, d)
  | (false, d) => (if t.marked && t.elems.isEmpty && t.memErr then t else { t with elems := [], marked := true, memErr := true }, d)

/-- Close an open track: its lower-edge runs count their sides, its fragment elements and its queue are freed, and it is kept
or discarded. `how` holds the TFLAGS bits that the closure sets (CONTINUED 64, STILL_CLOSED 128, HOST_CLOSED 256). -/
def Dev.closeTrack (d : Dev) (t : Track) (how : Nat) : Dev :=
  let (t, d) := d.trackRead t []
  let (t, d) := d.summRead t
  let x := d.lodeMos t.mos
  let lows := x.lower.filter (fun r => r.own && r.q == t.q)
  let t := { t with sides := t.sides + lows.foldl (fun n r => n + r.run.len) 0 }
  let d := d.setLodeMos t.mos { x with lower := x.lower.filter (fun r => r.q != t.q) }
  let d := d.setTracks (d.lode.tracks.filter (fun u => u.q != t.q))
  let d := d.elemsGive t.elems
  let d := d.queueWrite t.q (descBytes [] 0 1 0 0 0 0 0)
  let d := d.tracksShow t.mos
  let v := if how / 64 % 2 = 1 then Verdict.kept else d.verdict t
  let d := if t.marked then
      ((d.bump ⟨R.SHF_TRUNC_CNT, if v = .kept then 0 else 16, 16⟩).shfEvent 0).raise 0x4 3
    else d
  match v with
  | .kept => d.keepTrack t how
  | .noSeed => (d.bump ⟨R.LODE_DISCARD_CNT t.mos, 16, 16⟩).elemsGive [t.summ]
  | .small => (d.bump ⟨R.LODE_DISCARD_CNT t.mos, 0, 16⟩).elemsGive [t.summ]

/-- Close every listed track that is still open. -/
def Dev.closeAll (d : Dev) (ts : List Track) (how : Nat) : Dev :=
  ts.foldl (fun d t => match d.trackOf t.q with
    | some u => d.closeTrack u how
    | none => d) d

/-! ### Reserves and force-closing (R226, R227) -/

/-- The earlier of two tracks: OPEN_T, then the lower mosaic, then the lower DEFECT_ID. -/
def Track.before (a b : Track) : Bool :=
  decide (a.openT < b.openT) || (a.openT == b.openT && (decide (a.mos < b.mos) || (a.mos == b.mos && decide (a.id < b.id))))

/-- The earliest open track that is not marked. -/
def Dev.earliest (d : Dev) : Option Track :=
  d.lode.tracks.foldl (fun best t => if t.marked then best else match best with
    | none => some t
    | some b => if t.before b then some t else best) none

/-- Mark one track for force-close; outside a settlement of its mosaic it closes at once (R227). -/
def Dev.markOne (d : Dev) : Dev :=
  match d.earliest with
  | none => d
  | some t =>
    let t := { t with marked := true }
    let d := d.putTrack t
    if d.lode.settling = some t.mos then d.trackWrite t else d.closeTrack t 0

/-- An allocation for a track has been made: it marks one track when it leaves either reserve short (R226). A queue taken with
its summary element is one allocation, a fragment element another. Assumption 50, DEDUCED. -/
def Dev.allocated (d : Dev) : Dev :=
  if d.tracksFree < d.fld ⟨R.SHF_RESERVE, 0, 16⟩ ∨ d.elemsFree < d.fld ⟨R.SHF_RESERVE, 16, 16⟩ * 64 then d.markOne else d

/-- Take an element for a track. -/
def Dev.trackElem (d : Dev) : Option Nat × Dev :=
  match d.elemAlloc with
  | (none, d) => (none, d)
  | (some i, d) => (some i, d.allocated)

/-- Open a track (R225): its queue and summary element, or none when the set is dropped (R228). -/
def Dev.openTrack (d : Dev) (m id piece : Nat) (bright : Bool) : Option Nat × Dev :=
  if d.tracksFree = 0 ∨ d.elemsFree = 0 then
    (none, ((d.bump ⟨R.SHF_TRACK_DROP, 0, 32⟩).shfEvent 1).raise 0x4 4)
  else
    let q := d.freeQueue 0 (d.lode.tracks.length + d.shf.retired.length)
    match d.elemAlloc with
    | (none, d) => (none, d)
    | (some i, d) =>
      let t : Track := { q := q, mos := m, openT := d.now2, id := id, piece := piece, bright := bright, summ := i }
      let d := (d.setTracks (d.lode.tracks ++ [t])).trackWrite t
      let d := d.allocated
      (some q, d.tracksShow m)

/-- A fragment joins the track of a queue (R225, R228): a fragment element at its tail while elements last, its accumulators
into the summary. A queue that a memory error retires closes with the next settlement step 5 (R241). -/
def Dev.joinTrack (d : Dev) (q : Nat) (f : Fragment) (k : Int) (memErr ovf : Bool) : Dev :=
  match d.trackOf q with
  | none => d
  | some t =>
    let (t, d) := d.trackRead t t.elems.getLast?.toList
    let (t, d) := d.summRead t
    match (if d.shf.retired.contains q then (none, d) else d.trackElem) with
    | (e, d) =>
      let d := match e with
        | none => d
        | some i => (d.elemFill i 1 (f.acc.vals ++ [(f.band : Int), k])).relink t.elems (t.elems ++ [i])
      let marked := match d.trackOf q with
        | some u => u.marked || t.marked
        | none => t.marked
      let t := { t with acc := t.acc.add f.acc, frags := t.frags + 1, memErr := t.memErr || memErr, ovf := t.ovf || ovf,
                        marked := marked, elems := t.elems ++ e.toList }
      (d.putTrack t).trackWrite t

/-- Merge a track into the survivor (R189, R225): its fragments are spliced onto the survivor's tail, its summary is added,
and its queue and summary element are freed. A retired queue splices nothing (R241). -/
def Dev.mergeTrack (d : Dev) (keep gone : Nat) : Dev :=
  match d.trackOf keep, d.trackOf gone with
  | some t, some u =>
    let (t, d) := d.trackRead t t.elems.getLast?.toList
    let (u, d) := d.trackRead u []
    let (t, d) := d.summRead t
    let (u, d) := d.summRead u
    let chain := if d.shf.retired.contains keep then [] else t.elems ++ u.elems
    let d := if d.shf.retired.contains keep then d else d.relink (t.elems ++ [noElem] ++ u.elems) chain
    let t := { t with acc := t.acc.add u.acc, sides := t.sides + u.sides, frags := t.frags + u.frags, elems := chain,
                      memErr := t.memErr || u.memErr, ovf := t.ovf || u.ovf, marked := t.marked || u.marked }
    let d := ((d.setTracks (d.lode.tracks.filter (fun x => x.q != gone))).putTrack t).elemsGive
      (u.summ :: (if d.shf.retired.contains keep then u.elems else []))
    let d := d.queueWrite gone (descBytes [] 0 1 0 0 0 0 0)
    let x := d.lodeMos t.mos
    let d := d.setLodeMos t.mos { x with lower := x.lower.map (fun r => if r.q = gone then { r with q := keep } else r) }
    ((d.trackWrite t).bump ⟨R.LODE_MERGE_CNT t.mos, 0, 32⟩).tracksShow t.mos
  | _, _ => d

end Sys2Proof.Machine
end

