-- ==== Sys2Proof/Machine/Assay.lean ====
section
/-! DEFINITION. Assay: network slots, patches, the taking of jobs, results, deadlines, memory errors, kept patches, commits and
commands (R201 to R221). -/

namespace Sys2Proof.Machine

/-! ### Settings and slots (R207, R219) -/

/-- The banked registers of a mosaic. -/
def asyBanked (m : Nat) : List Nat :=
  [R.ASY_MOSm_CFG m, R.ASY_MOSm_KEEP_LO m, R.ASY_MOSm_KEEP_HI m] ++
  (List.range 3).flatMap (fun f => [R.ASY_MOSm_OFS_MDf m f, R.ASY_MOSm_OFS_CDf m f])

def slotLoaded (n : Nat) : Fld := ⟨R.ASY_STATUS, 16 + n, 1⟩
def slotReloading (n : Nat) : Fld := ⟨R.ASY_STATUS, 20 + n, 1⟩
def asyCommit (m : Nat) : Fld := ⟨R.ASY_CTRL, 8 + m, 1⟩

/-- Where the copy of a slot's blob lies in DRAM. -/
def Dev.netPlace (d : Dev) (n : Nat) : Nat := d.asy.place + n * netArea

/-- A slot's registers follow its content. -/
def Dev.setNet (d : Dev) (n : Nat) (x : Option AsyNet) : Dev :=
  let d := { d with asy := { d.asy with nets := tset noneAt d.asy.nets n x } }
  match x with
  | none => ((d.put (slotLoaded n) 0).setReg (R.ASY_NETn_INFO n) 0).setReg (R.ASY_NETn_BILL n) 0
  | some x =>
    let b := x.blob
    ((d.put (slotLoaded n) 1).setReg (R.ASY_NETn_INFO n) (BitVec.ofNat 32 (netLayers b + blobByte b 7 * 32 +
      (netFields b - 1) * 128 + (netClasses b - 1) * 512))).setReg (R.ASY_NETn_BILL n)
        (BitVec.ofNat 32 (min 0xFFFFFFFF ((netBill b + 1023) / 1024)))

/-- A network is loaded into a slot: into weight SRAM, and its copy into DRAM, with the mirror on dual-stack variants (R207, R217, R368). -/
def Dev.netLoaded (d : Dev) (req n : Nat) (x : AsyNet) : Dev := (((d.setNet n (some x)).memWrite req (d.netPlace n) x.blob).put
  (slotReloading n) 0).asyEvent 3

/-- The lowest 64-byte-aligned free address of weight SRAM that fits `n` bytes (R207). -/
def Dev.sramFit (d : Dev) (n : Nat) : Option Nat :=
  let used := (List.range 4).filterMap (fun i => (d.asyNet i).map (fun x => (x.sram, netParams x.blob)))
  let starts := 0 :: used.map (fun u => (u.1 + u.2 + 63) / 64 * 64)
  let ok (a : Nat) : Bool := decide (a + n ≤ 8388608) && used.all (fun u => decide (a + n ≤ u.1) || decide (u.1 + u.2 ≤ a))
  (starts.filter ok).min?

/-- Is a slot named by a mosaic that is on, or by a pending commit (R207)? -/
def Dev.slotHeld (d : Dev) (n : Nat) : Bool :=
  (List.range 4).any (fun m => (d.asyFld m 0 1 == 1 && d.asyFld m 1 2 == n) ||
    (d.bit (asyCommit m) && d.fld ⟨R.ASY_MOSm_CFG m, 1, 2⟩ == n))

/-- R219: a shadow copy that names an empty slot or a field mosaic that is not enabled is rejected. -/
def Dev.asyShadowOk (d : Dev) (m : Nat) : Bool :=
  match d.asyNet (d.fld ⟨R.ASY_MOSm_CFG m, 1, 2⟩) with
  | none => false
  | some x => (List.range (netFields x.blob - 1)).all (fun f => d.mosEn (d.fld ⟨R.ASY_MOSm_CFG m, 4 + 2 * f, 2⟩))

/-- A pending commit applies, or is rejected (R219). -/
def Dev.asyApply (d : Dev) (m : Nat) : Dev :=
  if d.bit (asyCommit m) then
    let d := d.put (asyCommit m) 0
    if d.asyShadowOk m then (d.applyRegs (asyBanked m)).asyEvent 4 else d.asyEvent 5
  else d

/-- A commit is requested; where Assay is off for the mosaic it applies at once. -/
def Dev.asyRequest (d : Dev) (m : Nat) : Dev :=
  let d := d.put (asyCommit m) 1
  if d.asyFld m 0 1 = 1 then d else d.asyApply m

/-! ### Patches (R202 to R204) -/

/-- Mosaic, first line and first column of each field of a job. -/
def Dev.jobFields (d : Dev) (m : Nat) (j : AsyJob) (net : AsyNet) : List (Nat × Int × Int) :=
  let half : Int := (netN net.blob : Int) / 2
  (d.patchCentres m j.md j.cd net).map (fun f => (f.1, f.2.1 - half, f.2.2 - half))

/-- The line after the last one a mosaic has emitted; none before its first emission. -/
def Dev.emittedTo (d : Dev) (m : Nat) : Option Int :=
  ((tget (fun _ => ({} : SeamMos)) d.seam.mos m).hist.head?).map (fun s => 64 * s.k + s.next)

/-- A job is ready when every field's mosaic has emitted the patch's last line, or PAD_WAIT has passed (R203). -/
def Dev.jobReady (d : Dev) (m : Nat) (j : AsyJob) : Bool :=
  match d.asyNet (d.asyFld m 1 2) with
  | none => false
  | some net => j.padded || (d.jobFields m j net).all (fun f =>
      match d.emittedTo f.1 with
      | none => false
      | some e => decide (f.2.1 + netN net.blob ≤ e))

/-- How the reading of a patch ended. -/
inductive PatchEnd where
  | ok | history | memErr
deriving DecidableEq, Repr

/-- The stripes that lines `l0` to `l0 + n - 1` touch. -/
def stripesOf (l0 : Int) (n : Nat) : List Int :=
  (List.range (((l0 + n - 1) / 64 - l0 / 64).toNat + 1)).map (fun (i : Nat) => l0 / 64 + (i : Int))

/-- The directory entries of stripes, or none when one fails a check of R179. -/
def Dev.dirsRead (d : Dev) (m : Nat) : List Int → Option (List (Int × List Byte)) × Dev
  | [] => (some [], d)
  | k :: ks =>
    match d.dirRead 0x04 m k with
    | (none, d) => (none, d)
    | (some e, d) =>
      match d.dirsRead m ks with
      | (none, d) => (none, d)
      | (some es, d) => (some ((k, e) :: es), d)

/-- Read one field of a patch, N lines of N samples (R204). -/
def Dev.fieldRead (d : Dev) (fm n : Nat) (l0 c0 : Int) (padded : Bool) : List Nat × PatchEnd × Dev :=
  let upto := (d.emittedTo fm).getD (64 * (l0 / 64))
  let there (l : Int) : Bool := !padded || decide (l < upto)
  let lines := (List.range n).map (fun (i : Nat) => l0 + (i : Int))
  let ks := (stripesOf l0 n).filter (fun k => lines.any (fun l => l / 64 == k && there l))
  match d.dirsRead fm ks with
  | (none, d) => ([], .history, d)
  | (some dirs, d) =>
    let mask := d.fld ⟨R.SEAM_MASK fm, 0, 16⟩
    let width := d.mosWidth fm
    let places := lines.flatMap (fun l => (List.range n).map (fun (i : Nat) => (l, c0 + (i : Int))))
    let (vs, err, d) := places.foldl (fun (x : List Nat × Bool × Dev) p =>
      let (l, c) := p
      let exts := ((dirs.find? (fun e => e.1 == l / 64)).map (fun e => dirExts e.2)).getD []
      if !there l || decide (c < 0) || decide ((width : Int) ≤ c) || exts.any (fun r => r.has c.toNat) then (mask :: x.1, x.2.1, x.2.2)
      else
        let (bs, e, d) := x.2.2.memRead 0x04
          (x.2.2.tileAddr fm (l / 64) (c.toNat / 256) + 512 * (l % 64).toNat + 2 * (c.toNat % 256)) 2
        (leNat bs :: x.1, x.2.1 || e, d)) ([], false, d)
    (vs.reverse, if err then .memErr else .ok, d)

/-- Read every field of a patch. -/
def Dev.patchRead (d : Dev) (n : Nat) (padded : Bool) : List (Nat × Int × Int) → List (List Nat) × PatchEnd × Dev
  | [] => ([], .ok, d)
  | (fm, l0, c0) :: fs =>
    match d.fieldRead fm n l0 c0 padded with
    | (vs, .ok, d) =>
      let (rest, e, d) := d.patchRead n padded fs
      (vs :: rest, e, d)
    | (_, e, d) => ([], e, d)

/-! ### Taking a job (R213, R214) -/

/-- ASSAY_DEADLINE in nanoseconds. -/
def Dev.deadline (d : Dev) : Nat := max 1 (d.fld ⟨R.ASY_TIMING, 0, 16⟩) * 1000000

/-- The ready job with the earliest queue time, then the lower mosaic: mosaic and place in its queue. No job of a mosaic whose active MOS_ASY_EN
is 0 can be taken (R219). -/
def Dev.nextJob (d : Dev) : Option (Nat × Nat × AsyJob) :=
  let all := (List.range 4).flatMap (fun m => (List.zip (List.range (d.asyJobs m).length) (d.asyJobs m)).filterMap (fun e =>
    if d.asyFld m 0 1 == 1 && d.jobReady m e.2 && !d.bit (slotReloading (d.asyFld m 1 2)) then some (m, e.1, e.2) else none))
  all.foldl (fun b e => match b with
    | none => some e
    | some x => if e.2.2.queueT < x.2.2.queueT then some e else b) none

/-- A job leaves its mosaic's queue: the descriptor and the links up to its element are read, and its element returns to the pool; whether the
queue stood, and whether the element was unreadable (R241). -/
def Dev.jobLeave (d : Dev) (m i : Nat) (j : AsyJob) : Bool × Bool × Dev :=
  match d.queueOk (jobQueue m) (((d.asyJobs m).take (i + 1)).map (·.elem)) with
  | (false, d) => (false, false, d)
  | (true, d) =>
    match d.elemRead j.elem with
    | (_, err, d) => (true, err, (d.setJobs m ((d.asyJobs m).eraseIdx i)).elemsGive [j.elem])

/-- The network runs on the patch it read, with the settings in force at the take (R212, R218, R219). -/
def Dev.asyStart (d : Dev) (m : Nat) (j : AsyJob) (net : AsyNet) (fields : List (Nat × Int × Int)) (patch : List (List Nat))
    (memErr : Bool) : Dev :=
  let ((cls, conf, top), sats) := netAnswer net.blob patch
  let d := (d.bumpBy ⟨R.ASY_SAT_CNT, 0, 16⟩ sats.acc).bumpBy ⟨R.ASY_SAT_CNT, 16, 16⟩ sats.out
  let run : AsyRun :=
    { mos := m, job := j, slot := d.asyFld m 1 2, fields := fields, patch := patch, answer := { cls := cls, conf := conf, top := top },
      nsize := blobByte net.blob 7, keep := d.asyFld m 10 2, keepUnc := d.asyFld m 12 1 == 1,
      mask := (d.act (R.ASY_MOSm_KEEP_LO m)).toNat + (d.act (R.ASY_MOSm_KEEP_HI m)).toNat * 2 ^ 32, memErr := memErr }
  { d with asy := { d.asy with run := some run } }

/-- Assay takes a job (R213): an expired deadline ends it unrun; otherwise a pending commit applies, the patch is read, and
the network runs. -/
def Dev.asyTake (d : Dev) : Dev :=
  match d.asy.run, d.nextJob with
  | some _, _ => d
  | none, none => d
  | none, some (m, i, j) =>
    let d := d.keepMax ⟨R.ASY_WAIT_MAX, 0, 24⟩ ((d.now2 - j.queueT) / 1000)
    match d.jobLeave m i j with
    | (false, _, d) => d
    | (true, elemErr, d) =>
    if d.deadline ≤ d.now2 - j.queueT then d.unassayed j.summ m 1 j.padded elemErr
    else
      let d := d.asyApply m
      match d.asyNet (d.asyFld m 1 2) with
      | none => d.unassayed j.summ m 2 j.padded elemErr
      | some net =>
        let fields := d.jobFields m j net
        match d.patchRead (netN net.blob) j.padded fields with
        | (_, .history, d) => d.unassayed j.summ m 2 j.padded elemErr
        | (_, .memErr, d) => d.unassayed j.summ m 3 j.padded true
        | (patch, .ok, d) => d.asyStart m j net fields patch elemErr

/-! ### Results and kept patches (R214, R218) -/

/-- Does KEEP, as it was at the take, select a result? -/
def AsyRun.keeps (r : AsyRun) : Bool :=
  match r.keep with
  | 1 => true
  | 2 => if r.answer.cls = 0xFE ∧ r.keepUnc = true then true else r.mask / 2 ^ r.answer.top % 2 == 1
  | _ => false

/-- The bytes of a kept patch (R218). -/
def keptBytes (r : AsyRun) (gen : Nat) : List Byte :=
  let head := leBytes 6 r.job.id ++ leBytes 2 r.job.piece ++ leBytes 1 r.mos ++ leBytes 1 r.fields.length ++ leBytes 1 r.nsize ++
    leBytes 1 gen ++ (List.range 4).flatMap (fun i => leBytes 1 (((r.fields[i]?).map (·.1)).getD 0)) ++
    r.fields.flatMap (fun f => leBytes 8 (ofSigned 64 f.2.1) ++ leBytes 4 (ofSigned 32 f.2.2))
  head ++ List.replicate (64 - head.length) 0 ++ r.patch.flatMap (fun p => p.flatMap (leBytes 2))

/-- Keep a patch if KEEP selects it and it fits: the patch reference (R218). -/
def Dev.keepPatch (d : Dev) (r : AsyRun) : Nat × Dev :=
  let slots := d.fld ⟨R.ASY_PB_SLOTS, 0, 24⟩
  let n := 32 * 2 ^ r.nsize
  if slots = 0 ∨ !r.keeps ∨ (d.reg R.ASY_PB_STRIDE).toNat < 64 + 2 * r.fields.length * n * n then (0xFFFFFFFF, d)
  else
    let i := d.asy.pbNext % slots
    let gen := match tget noneAt d.asy.pbGen i with
      | none => 0
      | some g => (g + 1) % 256
    let d := d.memWrite 0x04 (d.reg64 R.ASY_PB_BASE_LO + i * (d.reg R.ASY_PB_STRIDE).toNat) (keptBytes r gen)
    (i + gen * 2 ^ 24, { d with asy := { d.asy with pbNext := (i + 1) % slots, pbGen := tset noneAt d.asy.pbGen i (some gen) } })

/-- The write of CLASS (R214): on time the record carries it; after the deadline it is discarded. -/
def Dev.asyResult (d : Dev) : Dev :=
  match d.asy.run with
  | none => d
  | some r =>
    let d := { d with asy := { d.asy with run := none } }
    if r.late then ((d.bump ⟨R.ASY_LATE_CNT, 0, 32⟩).asyEvent 1).raise 0x4 1
    else
      let d := d.bump ⟨R.ASY_JOB_CNT, 0, 32⟩
      let (ref, d) := d.keepPatch r
      d.recComplete r.job.summ r.mos r.answer.cls r.answer.conf 0 r.job.padded r.memErr ref

/-- An uncorrectable weight SRAM error (R217): the running job of the slot ends, and the slot reloads. -/
def Dev.sramErr (d : Dev) (n : Nat) : Dev :=
  let d := match d.asy.run with
    | some r =>
      if r.slot = n then
        let d := { d with asy := { d.asy with run := none } }
        if r.late then d else d.unassayed r.job.summ r.mos 3 r.job.padded r.memErr
      else d
    | none => d
  (((d.bump ⟨R.ASY_SRAM_ERR_CNT, 16, 16⟩).asyEvent 2).raise 0x4 2).put (slotReloading n) 1

/-! ### Commands -/

/-- An event of Assay: nothing where the variant has none (R3). -/
def onAsy (f : Dev → Dev) (s : State) : Res := onFab (fun d => if d.variant.assay then f d else d) s

/-- A mailbox command of Assay: UNIT_ABSENT where the variant has none. -/
def Dev.asyCmd (d : Dev) (code : Nat) (own lenOk : Bool) (tag : Word) (args : List Word) (act : Dev → Act) : Dev :=
  d.mailbox code own lenOk tag args (fun d => if d.variant.assay then act d else .fail stUnitAbsent)

/-- PAD_WAIT in nanoseconds: 0 is treated as 1 ms. -/
def Dev.padWait (d : Dev) : Nat := max 1 (d.fld ⟨R.ASY_TIMING, 16, 16⟩) * 1000000

/-- PAD_WAIT: a job that is not ready when PAD_WAIT has passed since its queue time proceeds padded (R203). -/
def Dev.padEnd (d : Dev) (m i : Nat) : Dev :=
  match (d.asyJobs m)[i]? with
  | none => d
  | some j => if d.jobReady m j then d
    else
      let d := d.expire j.queueT d.padWait
      (d.setJobs m ((d.asyJobs m).set i { j with padded := true })).bump ⟨R.ASY_PAD_CNT, 0, 32⟩

/-- PAD_WAIT (R203). -/
def execPadWait (m i : Nat) (s : State) : Res := onAsy (fun d => d.padEnd m i) s

/-- ASSAY_TAKE (R213). -/
def execAssayTake (s : State) : Res := onAsy Dev.asyTake s

/-- RESULT: the write of CLASS (R214). -/
def execResult (s : State) : Res := onAsy Dev.asyResult s

/-- The waiting job with the earliest queue time, then the lower mosaic: mosaic and place in its queue. -/
def Dev.oldestJob (d : Dev) : Option (Nat × Nat × AsyJob) :=
  ((List.range 4).flatMap (fun m => (List.zip (List.range (d.asyJobs m).length) (d.asyJobs m)).map (fun e => (m, e.1, e.2)))).foldl
    (fun b e => match b with
      | none => some e
      | some x => if e.2.2.queueT < x.2.2.queueT then some e else b) none

/-- ASSAY_DEADLINE (R214): the deadline of the job with the earliest queue time, running before waiting, expires before its
result. A waiting job is not run. -/
def Dev.asyDeadline (d : Dev) : Dev :=
  let run := d.asy.run.filter (fun r => !r.late)
  let wait := d.oldestJob.filter (fun w => match run with
    | none => true
    | some r => decide (w.2.2.queueT < r.job.queueT))
  match wait, run with
  | some (m, i, j), _ =>
    match (d.expire j.queueT d.deadline).jobLeave m i j with
    | (false, _, d) => d
    | (true, err, d) => d.unassayed j.summ m 1 j.padded err
  | none, some r =>
    let d := d.expire r.job.queueT d.deadline
    { d with asy := { d.asy with run := some { r with late := true } } }.unassayed r.job.summ r.mos 1 r.job.padded r.memErr
  | none, none => d

/-- ASSAY_DEADLINE: ASSAY_DEADLINE has passed since the queue time of the job queued earliest (R214). -/
def execAssayDeadline (s : State) : Res := onAsy Dev.asyDeadline s

/-- SRAM_ERR: weight SRAM of a slot's network reads in error, corrected or not (R217). -/
def Dev.sramEvent (d : Dev) (slot : Nat) (corrected : Bool) : Dev :=
  if (d.asyNet slot).isNone then d
  else if corrected then d.bump ⟨R.ASY_SRAM_ERR_CNT, 0, 16⟩ else d.sramErr slot

/-- SRAM_ERR (R217). -/
def execSramErr (slot : Nat) (corrected : Bool) (s : State) : Res := onAsy (fun d => d.sramEvent slot corrected) s

/-- SLOT_RELOAD: the reload of a slot ends: its network is read from its copy in DRAM, or from the mirror where that reads uncorrectable. While
neither can be read the slot goes on reloading (R217; DEDUCED, assumption 124). -/
def Dev.slotReload (d : Dev) (slot : Nat) : Dev :=
  match d.asyNet slot with
  | none => d
  | some x =>
    if d.bit (slotReloading slot) then
      match d.memRead 0x04 (d.netPlace slot) x.blob.length with
      | (_, true, d) => d
      | (bs, false, d) => (d.setNet slot (some { x with blob := bs })).put (slotReloading slot) 0
    else d

/-- SLOT_RELOAD (R217). -/
def execSlotReload (slot : Nat) (s : State) : Res := onAsy (fun d => d.slotReload slot) s

/-- ASY_CTRL_COMMIT: a host write to ASY_CTRL, ASY_EN and the COMMIT bits (R219). -/
def execAsyCtrlCommit (v : Word) (s : State) : Res :=
  onDev (fun d => d.hostWriteTo R.ASY_CTRL fun d =>
    let d := d.put ⟨R.ASY_CTRL, 0, 1⟩ (getBits v 0 1)
    (List.range 4).foldl (fun d m => if getBits v (8 + m) 1 = 1 then d.asyRequest m else d) d) s

/-- 0x0501 ASY_NET_LOAD: BAD_NET answers the failing layer or 0xFF. -/
def execAsyNetLoad (tag : Word) (args : List Word) (dma : HostDma) (s : State) : Res :=
  onDev (fun d => d.asyCmd 0x0501 true (args.length == 4) tag args fun d =>
    let n := (args.getD 0 0).toNat
    let len := (args.getD 3 0).toNat
    if 4 ≤ n then .fail stBadArg
    else if d.slotHeld n then .fail stBadState
    else if len = 0 then .ok (d.setNet n none) []
    else d.readsDram fun d => match d.hostBuf (word64 (args.getD 1 0) (args.getD 2 0)) len dma with
      | (0, b, d) =>
        match blobBad b with
        | some i => .failWith stBadNet d (leBytes 4 i)
        | none =>
          match d.sramFit (netParams b) with
          | none => .failWith stOutOfSpace d []
          | some a => .ok (d.netLoaded 0x0B n { blob := b, sram := a }) []
      | (st, _, d) => .failWith st d []) s

/-- 0x0502 ASY_NET_INFO: header, descriptors, class table, BILL. -/
def execAsyNetInfo (tag : Word) (args : List Word) (s : State) : Res :=
  onDev (fun d => d.asyCmd 0x0502 false (args.length == 1) tag args fun d =>
    match d.asyNet (args.getD 0 0).toNat with
    | none => .fail stBadArg
    | some x => .ok d (x.blob.take 1856 ++ wordBytes (d.reg (R.ASY_NETn_BILL (args.getD 0 0).toNat)))) s

/-- 0x0503 ASY_COMMIT: every mosaic named is checked before any is written. -/
def execAsyCommit (tag : Word) (args : List Word) (s : State) : Res :=
  onDev (fun d => d.asyCmd 0x0503 false (args.length == 1) tag args fun d =>
    let mask := (args.getD 0 0).toNat
    let ms := (List.range 4).filter (fun m => mask / 2 ^ m % 2 == 1)
    if 16 ≤ mask ∨ !ms.all d.asyShadowOk then .fail stBadArg
    else .ok (ms.foldl (fun d m => d.asyRequest m) d) []) s

/-- 0x0504 ASY_PATCH_READ. -/
def execAsyPatchRead (tag : Word) (args : List Word) (s : State) : Res :=
  onDev (fun d => d.asyCmd 0x0504 false (args.length == 1) tag args fun d => d.readsDram fun d =>
    let ref := (args.getD 0 0).toNat
    let i := ref % 2 ^ 24
    if i < d.fld ⟨R.ASY_PB_SLOTS, 0, 24⟩ ∧ tget noneAt d.asy.pbGen i = some (ref / 2 ^ 24) then
      let a := d.reg64 R.ASY_PB_BASE_LO + i * (d.reg R.ASY_PB_STRIDE).toNat
      let (head, e1, d) := d.memRead 0x0B a 64
      let n := 32 * 2 ^ byteAt head 10
      let (bs, e2, d) := d.memRead 0x0B a (64 + 2 * byteAt head 9 * n * n)
      if e1 || e2 then .failWith stMemErr d [] else .ok d bs
    else .fail stNotFound) s

/-- 0x0505 ASY_INFO. -/
def execAsyInfo (tag : Word) (args : List Word) (s : State) : Res :=
  onDev (fun d => d.asyCmd 0x0505 false (args.length == 0) tag args fun d => .ok d (d.regsBytes (listedIn 0x500000 0x50006C))) s

end Sys2Proof.Machine
end

