-- ==== Sys2Proof/Machine/Code.lean ====
section
/-! DEFINITION. The 8b/10b code of the camera lanes (R43): the code of IEEE 802.3 clause 36, which R43 names and does not print
(PRESUMED, assumption 107), its running disparity, and the symbols of a lane with their errors counted. A 10-bit group is a number
whose highest bit is `a`, the first received, and whose lowest is `j`. -/

namespace Sys2Proof.Machine

/-- The 6-bit codes `abcdei` of the five low bits: from negative running disparity, and from positive. -/
def code6 : List (Nat × Nat) :=
  [(0b100111, 0b011000), (0b011101, 0b100010), (0b101101, 0b010010), (0b110001, 0b110001), (0b110101, 0b001010),
   (0b101001, 0b101001), (0b011001, 0b011001), (0b111000, 0b000111), (0b111001, 0b000110), (0b100101, 0b100101),
   (0b010101, 0b010101), (0b110100, 0b110100), (0b001101, 0b001101), (0b101100, 0b101100), (0b011100, 0b011100),
   (0b010111, 0b101000)] ++
  [(0b011011, 0b100100), (0b100011, 0b100011), (0b010011, 0b010011), (0b110010, 0b110010), (0b001011, 0b001011),
   (0b101010, 0b101010), (0b011010, 0b011010), (0b111010, 0b000101), (0b110011, 0b001100), (0b100110, 0b100110),
   (0b010110, 0b010110), (0b110110, 0b001001), (0b001110, 0b001110), (0b101110, 0b010001), (0b011110, 0b100001),
   (0b101011, 0b010100)]

/-- The 4-bit codes `fghj` of the three high bits: from negative running disparity, and from positive. The last is the alternate code
of 7. -/
def code4 : List (Nat × Nat) :=
  [(0b1011, 0b0100), (0b1001, 0b1001), (0b0101, 0b0101), (0b1100, 0b0011), (0b1101, 0b0010), (0b1010, 0b1010), (0b0110, 0b0110),
   (0b1110, 0b0001), (0b0111, 0b1000)]

/-- The 4-bit codes of K28.0 to K28.7 after 001111; after 110000 their complements. -/
def codeK28 : List Nat := [0b0100, 0b1001, 0b0101, 0b0011, 0b0010, 0b1010, 0b0110, 0b1000]

def pick6 (pos : Bool) (e : Nat × Nat) : Nat := if pos then e.2 else e.1

/-- How many ones a number of `n` bits has. -/
def onesOf : Nat → Nat → Nat
  | 0, _ => 0
  | n + 1, v => v % 2 + onesOf n (v / 2)

/-- The running disparity after a sub-block of `n` bits (positive: true): a balanced one leaves it, but for those of one run. -/
def rdAfter (n v : Nat) (pos : Bool) : Bool :=
  let k := onesOf n v
  let low := 2 ^ (n / 2) - 1
  if n / 2 < k ∨ v = low then true else if k < n / 2 ∨ v = low * 2 ^ (n / 2) then false else pos

/-- The running disparity after a group. -/
def rdGroup (g : Nat) (pos : Bool) : Bool := rdAfter 4 (g % 16) (rdAfter 6 (g / 16) pos)

/-- The group of a data byte at a running disparity. -/
def encData (pos : Bool) (b : Nat) : Nat :=
  let x := b % 32
  let six := pick6 pos (code6.getD x (0, 0))
  let mid := rdAfter 6 six pos
  let alt := b / 32 = 7 ∧ (mid = false ∧ (x = 17 ∨ x = 18 ∨ x = 20) ∨ mid = true ∧ (x = 11 ∨ x = 13 ∨ x = 14))
  six * 16 + pick6 mid (code4.getD (if alt then 8 else b / 32) (0, 0))

/-- The group of a control byte at a running disparity: K28.y, and K23.7, K27.7, K29.7 and K30.7. -/
def encCtl (pos : Bool) (b : Nat) : Nat :=
  if b % 32 = 28 then
    let g := 0b001111 * 16 + codeK28.getD (b / 32) 0
    if pos then 1023 - g else g
  else
    let g := pick6 false (code6.getD (b % 32) (0, 0)) * 16 + 0b1000
    if pos then 1023 - g else g

/-- Where a code stands in a table, at either disparity. -/
def findCode (t : List (Nat × Nat)) (v : Nat) : Option Nat := t.findIdx? (fun e => e.1 == v || e.2 == v)

/-- The data byte that a group may be, by its two parts. -/
def dataOf (g : Nat) : Option Nat :=
  match findCode code6 (g / 16), findCode code4 (g % 16) with
  | some x, some y => some (x + 32 * min y 7)
  | _, _ => none

/-- The control byte that a group may be. -/
def ctlOf (g : Nat) : Option Nat :=
  let g := if g / 16 = 0b110000 then 1023 - g else g
  if g / 16 = 0b001111 then (codeK28.findIdx? (· == g % 16)).map (fun y => 28 + 32 * y)
  else match findCode code6 (g / 16) with
    | some x => if x = 23 ∨ x = 27 ∨ x = 29 ∨ x = 30 then some (224 + x) else none
    | none => none

/-- A group read at a running disparity: its symbol, or none for a code violation; and whether its disparity is right. -/
def decodeGroup (pos : Bool) (g : Nat) : Option (Bool × Nat) × Bool :=
  match dataOf g with
  | some b =>
    if encData pos b = g then (some (false, b), true)
    else if encData (!pos) b = g then (some (false, b), false) else ctl
  | none => ctl
where
  /-- The group read as a control symbol. -/
  ctl : Option (Bool × Nat) × Bool :=
    match ctlOf g with
    | some b =>
      if encCtl pos b = g then (some (true, b), true)
      else if encCtl (!pos) b = g then (some (true, b), false) else (none, true)
    | none => (none, true)

/-- A symbol as the receiver takes it: a data byte, a K-symbol of Table 3-3, or a code violation. -/
inductive Sym where
  | data (b : Byte)
  | ctl (b : Byte)
  | bad
deriving DecidableEq, Repr

/-- The K-symbols of Table 3-3. -/
def kIdle : Byte := 0xBC
def kMarker : Byte := 0x7C
def kLink : Byte := 0x3C
def kSop : Byte := 0xFB
def kEop : Byte := 0xFD

def kKnown (b : Nat) : Bool := [kIdle, kMarker, kLink, kSop, kEop].contains (BitVec.ofNat 8 b)

/-- What the groups of a lane are, from a running disparity on (none: that of the first group, just after symbol lock): the symbols,
the code violations, a K-symbol outside Table 3-3 among them, the disparity errors, and the running disparity after them (R43). -/
def decodeLane : Option Bool → List Nat → List Sym × Nat × Nat × Option Bool
  | rd, [] => ([], 0, 0, rd)
  | rd, g :: gs =>
    let pos := rd.getD (!(decodeGroup false g).2 || (decodeGroup false g).1.isNone && (decodeGroup true g).1.isSome)
    let r := decodeGroup pos g
    let s : Sym := match r.1 with
      | some (false, b) => .data (BitVec.ofNat 8 b)
      | some (true, b) => if kKnown b then .ctl (BitVec.ofNat 8 b) else .bad
      | none => .bad
    let t := decodeLane (some (rdGroup g pos)) gs
    (s :: t.1, t.2.1 + (if s = .bad then 1 else 0), t.2.2.1 + (if r.1.isSome && !r.2 then 1 else 0), t.2.2.2)

/-- The symbols of all lanes in the order the camera striped them: symbol i comes from logical lane i mod LANE_CNT (R45); `n` columns. -/
def unstripe : Nat → List (List Sym) → List Sym
  | 0, _ => []
  | n + 1, ls => ls.filterMap List.head? ++ unstripe n (ls.map List.tail)

end Sys2Proof.Machine
end

