-- ==== Sys2Proof/Machine/Lode.lean ====
section
/-! DEFINITION. Lode: bands, marking, morphology and labelling of a unit, settlement, and its commands (R182 to R200). -/

namespace Sys2Proof.Machine

/-! ### Bands and settings (R182, R184, R198) -/

def Dev.segEn (d : Dev) (m : Nat) : Bool := d.bit ⟨R.LODE_MCFG m, 0, 1⟩
def Dev.firstEng (d : Dev) (m : Nat) : Nat := d.fld ⟨R.LODE_MCFG m, 1, 2⟩
def Dev.bands (d : Dev) (m : Nat) : Nat := d.fld ⟨R.LODE_MCFG m, 3, 2⟩ + 1

/-- First tile of a band; that of the band after the last is TILES_X. -/
def Dev.bandTile (d : Dev) (m b : Nat) : Nat :=
  if b = 0 then 0 else if b < d.bands m then d.fld ⟨R.LODE_BANDi_START m (b - 1), 0, 11⟩ else d.tilesX m

/-- The mosaic and band of an engine: the mosaic that names it, whether or not it is segmented (R182). -/
def Dev.engineBand (d : Dev) (e : Nat) : Option (Nat × Nat) :=
  ((List.range 4).find? (fun m => d.mosEn m && decide (d.firstEng m ≤ e) && decide (e < d.firstEng m + d.bands m))).map
    (fun m => (m, e - d.firstEng m))

/-- The fields of the settings words. -/
def darkSeed (s : List Word) : Nat := setW s 0 0 16
def darkGrow (s : List Word) : Nat := setW s 0 16 16
def brightGrow (s : List Word) : Nat := setW s 1 0 16
def brightSeed (s : List Word) : Nat := setW s 1 16 16
def lodeLevel (s : List Word) : Nat := setW s 2 0 16
def morphRadius (s : List Word) : Nat := if setW s 3 2 1 = 1 then 2 else 1
def roiStart (s : List Word) : Nat := setW s 4 0 20
def roiEnd (s : List Word) : Nat := setW s 5 0 20

/-- R184: the order of the thresholds, and ROI_END not below ROI_START. -/
def lodeSetOk (s : List Word) : Bool :=
  decide (darkSeed s ≤ darkGrow s) && decide (darkGrow s < lodeLevel s) && decide (lodeLevel s < brightGrow s) &&
  decide (brightGrow s ≤ brightSeed s) && decide (roiStart s ≤ roiEnd s)

def Dev.lodeShadow (d : Dev) (m : Nat) : List Word := (lodeBanked m).map d.reg
def Dev.lodeActive (d : Dev) (m : Nat) : List Word := (lodeBanked m).map d.act
def lodePending (m : Nat) : Fld := ⟨R.LODE_CTRL m, 0, 1⟩

/-- A commit is requested: it is pending until the next hand-over (R198). One that a task requested keeps its activation as its cause until
it applies, whoever asks again meanwhile (R288). -/
def Dev.lodeCommit (d : Dev) (m : Nat) (cause : Option Cause) : Dev :=
  let x := d.lodeMos m
  let held := if d.bit (lodePending m) then x.commitCause else none
  (d.put (lodePending m) 1).setLodeMos m { x with commitCause := held.orElse (fun _ => cause) }

/-- A pending commit applies at a hand-over; one that R184 refuses changes nothing. -/
def Dev.lodeApply (d : Dev) (m : Nat) : Dev :=
  if d.bit (lodePending m) then
    let cause := (d.lodeMos m).commitCause
    let d := (d.put (lodePending m) 0).setLodeMos m { d.lodeMos m with commitCause := none }
    if lodeSetOk (d.lodeShadow m) then
      let d := d.applyRegs (lodeBanked m)
      ((d.put ⟨R.LODE_STATUS m, 0, 8⟩ ((d.fld ⟨R.LODE_STATUS m, 0, 8⟩ + 1) % 256)).lodeEvent m 1).raise 0x3 (8 * m + 6) cause
    else d
  else d

/-- The Seam unit hands an emission to Lode (R165, R198): the commit applies first; a mosaic with SEG_EN 0 labels nothing. -/
def Dev.lodeHand (d : Dev) (m : Nat) (k : Int) (row n : Nat) (exts : List EdgeRun) (bg : List (Nat × EdgeRun))
    (flags : List Nat) : Dev :=
  let d := d.lodeApply m
  if d.segEn m then
    let x := d.lodeMos m
    let it : LodeItem := { k := k, row := row, n := n, exts := exts, bg := bg, flags := flags, at_ := d.now2, set := d.lodeActive m }
    let d := d.setLodeMos m { x with items := x.items ++ [it], lastHand := some d.now2 }
    (List.range (d.bands m)).foldl (fun d b => d.put ⟨R.LODE_ESTAT (d.firstEng m + b), 5, 1⟩ 1) d
  else d

/-! ### Marking (R183) and morphology (R185) -/

/-- A square element of radius r applied along a list: `op` is `and` for an erosion, `or` for a dilation. -/
def spread {α : Type} (op : α → α → α) (pad : α) (r : Nat) (l : List α) : List α :=
  (List.range r).foldl (fun acc i =>
    List.zipWith op (List.zipWith op acc (l.drop (i + 1) ++ List.replicate (min (i + 1) l.length) pad))
      ((List.replicate (i + 1) pad ++ l).take l.length)) l

/-- One erosion or dilation of a mask by a (2r + 1) × (2r + 1) square. -/
def morphStep (r : Nat) (dilate : Bool) (mask : List (List Bool)) : List (List Bool) :=
  let op (a b : Bool) : Bool := if dilate then a || b else a && b
  let rows := mask.map (spread op false r)
  spread (List.zipWith op) (List.replicate ((rows.headD []).length) false) r rows

/-- The steps of MORPH_OP: an open is an erosion then a dilation, a close a dilation then an erosion; 5 to 7 act as 0. -/
def morphSteps : Nat → List Bool
  | 1 => [false, true]
  | 2 => [true, false]
  | 3 => [false, true, true, false]
  | 4 => [true, false, false, true]
  | _ => []

def morph (r : Nat) (steps : List Bool) (mask : List (List Bool)) : List (List Bool) :=
  steps.foldl (fun m dil => morphStep r dil m) mask

/-- A sample as a unit sees it: the stored value, and whether it may be marked. -/
structure Cell where
  v : Nat
  live : Bool

def growMark (s : List Word) (bright : Bool) (x : Cell) : Bool :=
  x.live && (if bright then setW s 3 1 1 == 1 && decide (brightGrow s ≤ x.v) else setW s 3 0 1 == 1 && decide (x.v ≤ darkGrow s))

def seedMark (s : List Word) (bright : Bool) (x : Cell) : Bool :=
  growMark s bright x && (if bright then decide (brightSeed s ≤ x.v) else decide (x.v ≤ darkSeed s))

/-- May a column be marked: inside the mosaic and the ROI, and not masked? -/
def columnLive (s : List Word) (width : Nat) (exts : List EdgeRun) (c : Nat) : Bool :=
  decide (c < width) && decide (roiStart s ≤ c) && decide (c ≤ roiEnd s) && !exts.any (fun r => r.has c)

/-- Read a line of a mosaic for an engine, tiles `t0` to `t1 - 1`: its samples and the tiles whose read failed. -/
def Dev.lineRead (d : Dev) (m : Nat) (line : Int) (t0 t1 : Nat) : List Nat × List Nat × Dev :=
  let (xs, d) := d.rowRead 0x03 m (line / 64) (line % 64).toNat (t1 - t0) t0
  (xs.map (·.1), ((List.range (t1 - t0)).filter (fun i => (xs.getD (256 * i) (0, false)).2)).map (· + t0), d)

/-- A line above a unit, when it is in history and intact: its samples, failed tiles and masked columns (R185). -/
def Dev.lineAbove (d : Dev) (m : Nat) (line : Int) (t0 t1 : Nat) : Option (List Nat × List Nat × List EdgeRun) × Dev :=
  match d.dirRead 0x03 m (line / 64) with
  | (none, d) => (none, d)
  | (some dir, d) =>
    let r := (line % 64).toNat
    if byteAt dir 51 ≤ r ∧ r < byteAt dir 51 + byteAt dir 48 then
      let (vs, bad, d) := d.lineRead m line t0 t1
      (some (vs, bad, dirExts dir), d)
    else (none, d)

/-- Cells of a line from column `c0` on. -/
def lineCells (s : List Word) (width c0 : Nat) (exts : List EdgeRun) (bad : List Nat) (bg : List EdgeRun) (vs : List Nat) :
    List Cell :=
  (List.range vs.length).map (fun i =>
    let c := c0 + i
    { v := vs.getD i 0, live := columnLive s width exts c && !bad.contains (c / 256) && !bg.any (fun r => r.has c) })

/-! ### Labelling (R186, R187) -/

/-- A run of a grow mask that belongs to a fragment: line within the unit, columns, polarity, fragment number. -/
structure LabRun where
  line : Nat
  run : EdgeRun
  bright : Bool
  id : Nat

/-- The labelling in progress: runs assigned, the next fragment number, fragments held, pixels dropped. -/
structure Labels where
  runs : List LabRun := []
  next : Nat := 0
  held : Nat := 0
  dropped : Nat := 0

/-- LABEL_MAX. -/
def labelMax : Nat := 65536

/-- One run: it joins the lowest-numbered fragment it touches and merges the others into it, or opens one. -/
def Labels.add (x : Labels) (line : Nat) (bright : Bool) (r : EdgeRun) : Labels :=
  let ids := ((x.runs.filter (fun u => u.bright == bright && u.line + 1 == line && u.run.touches r)).map (·.id)).eraseDups
  match ids with
  | [] =>
    if labelMax ≤ x.held then { x with dropped := x.dropped + r.len }
    else { x with runs := x.runs ++ [⟨line, r, bright, x.next⟩], next := x.next + 1, held := x.held + 1 }
  | i :: rest =>
    let f := rest.foldl min i
    { x with runs := x.runs.map (fun u => if ids.contains u.id then { u with id := f } else u) ++ [⟨line, r, bright, f⟩],
             held := x.held - rest.length }

/-- Label the lines of a unit from line `i` on: each line gives its dark and its bright runs. -/
def Labels.lines (x : Labels) : Nat → List (List EdgeRun × List EdgeRun) → Labels
  | _, [] => x
  | i, (dark, bright) :: rest =>
    let x := dark.foldl (fun x r => x.add i false r) x
    (bright.foldl (fun x r => x.add i true r) x).lines (i + 1) rest

/-- |a − b|. -/
def absDiff (a b : Nat) : Nat := (a - b) + (b - a)

/-- The accumulators of one pixel column list: samples `vs` of a run on grid line `j` from column `c` on, with their seed
marks. -/
def pixelsAcc (j : Int) (level : Nat) : Nat → List (Nat × Bool) → Accum
  | _, [] => {}
  | c, (v, seed) :: rest =>
    let dev := absDiff v level
    ({ a := 1, seeds := if seed then 1 else 0, j0 := j, j1 := j, c0 := c, c1 := c, sc := c, scc := c * c, sd := dev, sv := v,
       svv := v * v, vmin := v, vmax := v, dpeak := dev } : Accum).add (pixelsAcc j level (c + 1) rest)

/-- What labelling a unit's fragment needs to know of its surroundings. -/
structure UnitView where
  set : List Word
  width : Nat
  exts : List EdgeRun
  /-- first line (grid index), first and last column of the band -/
  line0 : Int
  n : Nat
  lo : Nat
  hi : Nat
  band : Nat
  flags : List Nat
  /-- the cells of the unit's lines in the band -/
  cells : List (List Cell)

/-- Perimeter sides of a run inside the unit (Table 9-2). -/
def runSides (runs : List LabRun) (u : UnitView) (r : LabRun) : Nat :=
  let beside (line : Nat) : Nat :=
    r.run.len - (runs.filter (fun x => x.bright == r.bright && x.line == line)).foldl (fun n x => n + x.run.shared r.run) 0
  (if r.line = 0 then 0 else beside (r.line - 1)) + (if r.line + 1 = u.n then 0 else beside (r.line + 1)) +
  (if r.run.lo = u.lo then 0 else 1) + (if r.run.hi = u.hi then 0 else 1)

/-- A run is 8-adjacent to a masked column; to the ROI limit or the mosaic edge (Table 9-2). -/
def runAdj (u : UnitView) (r : EdgeRun) : Nat :=
  (if u.exts.any (fun x => x.touches r) then 1 else 0) +
  (if r.lo = 0 ∨ r.lo = roiStart u.set ∨ r.hi = roiEnd u.set ∨ r.hi + 1 = u.width then 2 else 0)

/-- The accumulators of a run. -/
def runAcc (runs : List LabRun) (u : UnitView) (r : LabRun) : Accum :=
  let cells := ((u.cells.getD r.line []).drop (r.run.lo - u.lo)).take r.run.len
  { pixelsAcc (u.line0 + r.line) (lodeLevel u.set) r.run.lo (cells.map (fun x => (x.v, seedMark u.set r.bright x))) with
    ps := runSides runs u r, lf := u.flags.getD r.line 0, adj := runAdj u r.run }

/-- The fragment of a number. -/
def fragmentOf (runs : List LabRun) (u : UnitView) (id : Nat) : Fragment :=
  let rs := runs.filter (fun r => r.id == id)
  let first := rs.foldl (fun (n : Nat) (r : LabRun) => min n r.line) u.n
  let at_ (i : Nat) : List EdgeRun := (rs.filter (fun r => r.line == i)).map (·.run)
  let side (p : LabRun → Bool) : List EdgeRun :=
    runsFrom 0 ((List.range u.n).map (fun i => rs.any (fun r => r.line == i && p r)))
  { bright := rs.any (·.bright), acc := rs.foldl (fun a r => a.add (runAcc runs u r)) {}, band := u.band,
    fc := (at_ first).foldl (fun n (r : EdgeRun) => min n r.lo) u.hi, top := at_ 0, bot := at_ (u.n - 1),
    left := side (fun r => r.run.lo == u.lo), right := side (fun r => r.run.hi == u.hi) }

/-- Lines above, the unit's lines, and the last line repeated below, as an engine extends a unit by `h` lines (R185). -/
def extendLines {α : Type} (h : Nat) (above : List (Option α)) (lines : List α) : List α :=
  match lines, lines.getLast? with
  | first :: _, some last => (above.map (fun x => x.getD first)) ++ lines ++ List.replicate h last
  | _, _ => []

/-- Label a unit of a band: its fragments, dropped pixels, and whether a tile read failed (R183 to R187, R194). -/
def Dev.labelUnit (d : Dev) (m b : Nat) (it : LodeItem) : List Fragment × Nat × Bool × Dev :=
  let s := it.set
  let width := d.mosWidth m
  let t0 := d.bandTile m b
  let t1 := d.bandTile m (b + 1)
  let steps := morphSteps (setW s 3 4 3)
  let r := morphRadius s
  let h := r * steps.length
  let m0 := if h = 0 then t0 else t0 - 1
  let m1 := if h = 0 then t1 else min (d.tilesX m) (t1 + 1)
  let line0 : Int := 64 * it.k + it.row
  let (own, d) := (List.range it.n).foldl (fun (x : List (List Nat × List Nat) × Dev) (i : Nat) =>
    let (vs, bad, d) := x.2.lineRead m (line0 + (i : Nat)) m0 m1
    (x.1 ++ [(vs, bad)], d)) ([], d)
  let bad := own.flatMap (·.2)
  let lines := (List.range it.n).map (fun i =>
    lineCells s width (256 * m0) it.exts bad ((it.bg.filter (fun x => x.1 == it.row + i)).map (·.2)) ((own.getD i ([], [])).1))
  let (above, badAbove, d) := (List.range h).foldl (fun (x : List (Option (List Cell)) × Bool × Dev) i =>
    match x.2.2.lineAbove m (line0 - (h - i : Nat)) m0 m1 with
    | (none, d) => (x.1 ++ [none], x.2.1, d)
    | (some (vs, bad', ex), d) => (x.1 ++ [some (lineCells s width (256 * m0) ex bad' [] vs)], x.2.1 || !bad'.isEmpty, d)) ([], false, d)
  let grow (bright : Bool) : List (List Bool) :=
    let g := (extendLines h above lines).map (fun l =>
      List.replicate h false ++ l.map (growMark s bright) ++ List.replicate h false)
    ((morph r steps g).drop h).take it.n
  let lo := 256 * t0
  let hi := min width (256 * t1) - 1
  let runsOf (row : List Bool) : List EdgeRun :=
    runsFrom lo ((List.range (hi + 1 - lo)).map (fun i =>
      row.getD (h + lo + i - 256 * m0) false && columnLive s width it.exts (lo + i)))
  let x := ({} : Labels).lines 0 (List.zip ((grow false).map runsOf) ((grow true).map runsOf))
  let u : UnitView := { set := s, width := width, exts := it.exts, line0 := line0, n := it.n, lo := lo, hi := hi, band := b,
                        flags := it.flags, cells := lines.map (fun l => l.drop (lo - 256 * m0)) }
  let ids := (x.runs.map (·.id)).eraseDups
  (ids.map (fragmentOf x.runs u), x.dropped, !bad.isEmpty || badAbove, d)

/-- A list with the first entry that meets a condition changed. -/
def mapFirst {α : Type} (p : α → Bool) (f : α → α) : List α → List α
  | [] => []
  | a :: as => if p a then f a :: as else a :: mapFirst p f as

/-- Has every band labelled a unit? -/
def Dev.labelled (d : Dev) (m : Nat) (it : LodeItem) : Bool :=
  (List.range (d.bands m)).all (fun b => (tget noneAt it.done b).isSome)

/-- An engine finishes its oldest unit (R186, R187, R194). -/
def Dev.unitLabelled (d : Dev) (e : Nat) : Dev :=
  match d.engineBand e with
  | none => d
  | some (m, b) =>
    match (d.lodeMos m).items.find? (fun it => (tget noneAt it.done b).isNone) with
    | none => d
    | some it =>
      match d.labelUnit m b it with
      | (frags, dropped, err, d) =>
        let x := d.lodeMos m
        let isIt (i : LodeItem) : Bool := (tget noneAt i.done b).isNone
        let it' := { it with done := tset noneAt it.done b (some frags), memErr := it.memErr ++ (if err then [b] else []),
                             ovf := it.ovf ++ (if dropped = 0 then [] else [b]) }
        let items := mapFirst isIt (fun _ => it') x.items
        let released := if d.labelled m it' then
            match x.released with
            | none => some (it.k - 1)
            | some r => some (if r < it.k - 1 then it.k - 1 else r)
          else x.released
        let d := d.setLodeMos m { x with items := items, released := released }
        let d := ((d.bump ⟨R.LODE_UNIT_CNT e, 0, 32⟩).bumpBy ⟨R.LODE_FRAG_CNT e, 0, 32⟩ frags.length).keepMax
          ⟨R.LODE_FRAG_PEAK e, 0, 17⟩ frags.length
        let d := d.keepMax ⟨R.LODE_LAG_MAX e, 0, 24⟩ ((d.now2 - it.at_) / 1000)
        let d := d.putBit ⟨R.LODE_ESTAT e, 5, 1⟩ (items.any isIt)
        let d := if dropped = 0 then d
          else ((d.bumpBy ⟨R.LODE_FRAG_DROP e, 0, 32⟩ dropped).lodeEvent m 0).raise 0x3 (8 * m + 5)
        if err then (d.bump ⟨R.LODE_MEMERR_CNT m, 0, 32⟩).lodeEvent m 4 else d

/-! ### Settlement (R188 to R191) -/

/-- Give both ends of an edge the lower label. -/
def joinLabels (ls : List Nat) (e : Nat × Nat) : List Nat :=
  let a := ls.getD e.1 0
  let b := ls.getD e.2 0
  ls.map (fun x => if x = max a b then min a b else x)

/-- Band union (step 1): the pairs of fragments of adjacent bands that join. -/
def bandEdges (fs : List Fragment) : List (Nat × Nat) :=
  (List.range fs.length).flatMap (fun i => ((List.range fs.length).filter (fun j =>
    match fs[i]?, fs[j]? with
    | some a, some b => a.band + 1 == b.band && a.bright == b.bright && a.right.any (fun r => b.left.any (fun s => r.touches s))
    | _, _ => false)).map (fun j => (i, j)))

/-- The connected sets of fragments, by first pixel: lowest grid index, then lowest column (R189). -/
def fragSets (fs : List Fragment) : List (List Fragment) :=
  let ls := (bandEdges fs).foldl joinLabels (List.range fs.length)
  let sets := (ls.eraseDups).map (fun l => ((List.zip ls fs).filter (fun x => x.1 == l)).map (·.2))
  let key (s : List Fragment) : Int × Nat := s.foldl (fun k f =>
    if f.acc.j0 < k.1 ∨ (f.acc.j0 = k.1 ∧ f.fc < k.2) then (f.acc.j0, f.fc) else k)
    (match s with
      | f :: _ => (f.acc.j0, f.fc)
      | [] => (0, 0))
  sets.mergeSort (fun a b => decide ((key a).1 < (key b).1) || ((key a).1 == (key b).1 && decide ((key a).2 ≤ (key b).2)))

/-- The queues of the open tracks that a set touches along the stripe's upper edge (step 2). -/
def Dev.setTouches (d : Dev) (m : Nat) (fs : List Fragment) : List Nat :=
  (((d.lodeMos m).lower.filter (fun r => (d.trackOf r.q).isSome && fs.any (fun f =>
    f.bright == r.bright && f.top.any (fun t => t.touches r.run)))).map (·.q)).eraseDups

/-- The next DEFECT_ID of a mosaic. -/
def Dev.nextId (d : Dev) (m : Nat) : Nat := d.reg64 (R.LODE_NEXT_ID_LO m) % 2 ^ 48

/-- Step 3 for one set: it opens, joins or merges tracks; the queue it belongs to, none when it is dropped. -/
def Dev.assignSet (d : Dev) (m : Nat) (it : LodeItem) (fs : List Fragment) : Option Nat × Dev :=
  let join (q : Nat) (d : Dev) : Dev := fs.foldl (fun d f => d.joinTrack q f it.k (it.memErr.contains f.band) (it.ovf.contains f.band)) d
  match (d.setTouches m fs).filterMap d.trackOf with
  | [] =>
    match d.openTrack m (d.nextId m) 0 ((fs.map (·.bright)).headD false) with
    | (none, d) => (none, d)
    | (some q, d) => (some q, join q (d.setReg64 (R.LODE_NEXT_ID_LO m) ((d.nextId m + 1) % 2 ^ 48)))
  | t :: ts =>
    let keep := ts.foldl (fun b u => if u.id < b.id then u else b) t
    let d := (t :: ts).foldl (fun d u => if u.q = keep.q then d else d.mergeTrack keep.q u.q) d
    (some keep.q, join keep.q d)

/-- Steps 2 and 3 for every set in order; each fragment with its queue. A queue merged away later is replaced. -/
def Dev.assignSets (d : Dev) (m : Nat) (it : LodeItem) : List (List Fragment) → List (Nat × Fragment) × Dev
  | [] => ([], d)
  | fs :: rest =>
    match d.assignSet m it fs with
    | (none, d) => d.assignSets m it rest
    | (some q, d) =>
      let id := (d.trackOf q).map (·.id)
      let (more, d) := d.assignSets m it rest
      let q' := if (d.trackOf q).map (·.id) = id then q
        else (((d.lodeMos m).lower.find? (fun r => fs.any (fun f => f.bright == r.bright &&
          f.top.any (fun t => t.touches r.run)))).map (·.q)).getD q
      (fs.map (fun f => (q', f)) ++ more, d)

/-- Sides of a run that no run of a list shares. -/
def freeSides (r : EdgeRun) (others : List EdgeRun) : Nat := r.len - others.foldl (fun n o => n + r.shared o) 0

/-- Step 4 for one fragment: its band-edge runs against those of the same track beside it, and its upper-edge runs against the
lower-edge runs of the same track. -/
def edgeSides (lower : List LowRun) (all : List (Nat × Fragment)) (q : Nat) (f : Fragment) : Nat :=
  let mates (p : Fragment → Bool) (g : Fragment → List EdgeRun) : List EdgeRun :=
    (all.filter (fun x => x.1 == q && p x.2)).flatMap (fun x => g x.2)
  f.right.foldl (fun n r => n + freeSides r (mates (fun g => g.band == f.band + 1) (·.left))) 0 +
  f.left.foldl (fun n r => n + freeSides r (mates (fun g => g.band + 1 == f.band) (·.right))) 0 +
  f.top.foldl (fun n r => n + freeSides r ((lower.filter (fun l => l.q == q && l.own)).map (·.run))) 0

/-- Step 4: perimeter (R188). -/
def Dev.addSides (d : Dev) (m : Nat) (all : List (Nat × Fragment)) : Dev :=
  let lower := (d.lodeMos m).lower
  let more (d : Dev) (q n : Nat) : Dev := match d.trackOf q with
    | some t => d.putTrack { t with sides := t.sides + n }
    | none => d
  let d := all.foldl (fun d x => more d x.1 (edgeSides lower all x.1 x.2)) d
  (lower.filter (·.own)).foldl (fun d l =>
    more d l.q (freeSides l.run ((all.filter (fun x => x.1 == l.q)).flatMap (fun x => x.2.top)))) d

/-- A cut (R191): the piece closes with CONTINUED, and a continuation with the same DEFECT_ID takes its lower-edge runs. -/
def Dev.cut (d : Dev) (t : Track) : Dev :=
  let lows := (d.lodeMos t.mos).lower.filter (fun r => r.q == t.q)
  let d := d.closeTrack t 64
  let d := ((d.bump ⟨R.LODE_CUT_CNT t.mos, 0, 32⟩).lodeEvent t.mos 3).raise 0x3 (8 * t.mos + 4)
  match d.openTrack t.mos t.id (t.piece + 1) t.bright with
  | (none, d) => d
  | (some q, d) =>
    let x := d.lodeMos t.mos
    d.setLodeMos t.mos { x with lower := x.lower ++ lows.map (fun r => { r with q := q, own := false }) }

/-- Cut every open track whose MD_LINES has reached MAX_MD_LINES (step 6). -/
def Dev.cutLong (d : Dev) (m : Nat) : Dev :=
  let most := maxMdLines (d.judgedBy m)
  if most = 0 then d
  else ((d.openTracks m).filter (fun t => decide (most ≤ t.acc.lines))).foldl (fun d t =>
    match d.trackOf t.q with
    | some u => if u.id = t.id ∧ most ≤ u.acc.lines then d.cut u else d
    | none => d) d

/-- The first engine settles the oldest unit of a mosaic that every band has labelled (R188). -/
def Dev.settle (d : Dev) (m : Nat) (stalled : Bool) : Dev :=
  match (d.lodeMos m).items with
  | [] => d
  | it :: rest =>
    if !d.labelled m it then d else
    let fs := (List.range (d.bands m)).flatMap (fun b => (tget noneAt it.done b).getD [])
    let many := (List.range (d.bands m)).any (fun b => decide (4096 < ((tget noneAt it.done b).getD []).length))
    let d := d.setLodeMos m { d.lodeMos m with judged := it.set }
    let d := if stalled && many then (d.bump ⟨R.LODE_SETTLE_STALL m, 0, 32⟩).lodeEvent m 5 else d
    let d := { d with lode := { d.lode with settling := some m } }
    match d.assignSets m it (fragSets fs) with
    | (all, d) =>
      let d := d.addSides m all
      let d := d.setLodeMos m { d.lodeMos m with items := rest, lower := all.flatMap (fun x =>
        x.2.bot.map (fun r => { q := x.1, bright := x.2.bright, run := r })) }
      let gone := (d.openTracks m).filter (fun t => t.marked || !(d.lodeMos m).lower.any (fun r => r.q == t.q))
      let d := d.closeAll gone 0
      ({ d with lode := { d.lode with settling := none } }).cutLong m

/-! ### Commands and tasks -/

/-- UNIT_LABELLED: an engine has finished its oldest unit (R186). -/
def execUnitLabelled (e : Nat) (s : State) : Res := onFab (fun d => d.unitLabelled e) s

/-- SETTLEMENT: the mosaic's first engine settles; `stalled` when the settlement of a unit of more than 4,096 fragments stalls the Seam unit
(R188, R195). -/
def execSettlement (m : Nat) (stalled : Bool) (s : State) : Res := onFab (fun d => if d.mosEn m then d.settle m stalled else d) s

/-- CUT: every open track of the mosaic that has reached MAX_MD_LINES is cut; a settlement has done so (R191). -/
def execCut (m : Nat) (s : State) : Res := onFab (fun d => if d.mosEn m then d.cutLong m else d) s

/-- STILL_CLOSE: STILL_CLOSE_T has passed since the last hand-over (R192). A unit that was handed over is settled first. -/
def Dev.stillEnd (d : Dev) (m : Nat) : Dev :=
  let x := d.lodeMos m
  let ms := d.actFld ⟨R.LODE_STILL_CLOSE m, 0, 16⟩
  match x.lastHand with
  | none => d
  | some t =>
  if d.mosEn m && ms != 0 && x.items.isEmpty then
    let d := d.expire t (ms * 1000000)
    let ts := d.openTracks m
    let d := d.setLodeMos m { d.lodeMos m with lastHand := none }
    if ts.isEmpty then d else ((d.closeAll ts 128).lodeEvent m 2).raise 0x3 (8 * m + 3)
  else d

/-- STILL_CLOSE (R192). -/
def execStillClose (m : Nat) (s : State) : Res := onFab (fun d => d.stillEnd m) s

/-- Close every open track of a mosaic with HOST_CLOSED; how many (R193). -/
def Dev.hostClose (d : Dev) (m : Nat) : Nat × Dev :=
  let ts := d.openTracks m
  (ts.length, d.closeAll ts 256)

/-- CLOSE_ALL_TASK: the LODE_CLOSE_ALL task input of the mosaic (R193, Table 13-2). -/
def execCloseAllTask (m : Nat) (s : State) : Res :=
  onFab (fun d => if d.mosEn m then d.task 0x3 m (fun _ d => (d.hostClose m).2) else d) s

/-- LODE_COMMIT_TASK: the LODE_COMMIT task input of the mosaic (R198, Table 13-2). -/
def execLodeCommitTask (m : Nat) (s : State) : Res :=
  onDev (fun d => if d.mosEn m then d.task 0x3 (4 + m) (fun a d => d.lodeCommit m (some a.cause)) else d) s

/-- LODE_CTRL_COMMIT: a host write of 1 to LODE_COMMIT (R198). -/
def execLodeCtrlCommit (m : Nat) (v : Word) (s : State) : Res :=
  onDev (fun d => if m < 4 ∧ getBits v 0 1 = 1 then d.lodeCommit m none else d) s

/-- 0x0309 LODE_INFO. -/
def execLodeInfo (tag : Word) (args : List Word) (s : State) : Res :=
  onDev (fun d => d.mailbox 0x0309 false (args.length == 1) tag args fun d =>
    let m := (args.getD 0 0).toNat
    if d.mosEn m then
      .ok d (d.regsBytes (listedIn (R.LODE_MCFG m) (R.LODE_STILL_CLOSE m)) ++
        (if d.segEn m then (List.range (d.bands m)).flatMap (fun b =>
          d.regsBytes (addrs (R.LODE_ESTAT (d.firstEng m + b)) 7)) else []))
    else .fail stBadArg) s

/-- 0x030A LODE_COMMIT: every mosaic named is checked before any is written. -/
def execLodeCommit (tag : Word) (args : List Word) (s : State) : Res :=
  onDev (fun d => d.mailbox 0x030A false (args.length == 1) tag args fun d =>
    let mask := (args.getD 0 0).toNat
    let ms := (List.range 4).filter (fun m => mask / 2 ^ m % 2 == 1)
    if 16 ≤ mask ∨ !ms.all (fun m => d.mosEn m && lodeSetOk (d.lodeShadow m)) then .fail stBadArg
    else .ok (ms.foldl (fun d m => d.lodeCommit m none) d) []) s

/-- 0x030B LODE_CLOSE_ALL. -/
def execLodeCloseAll (tag : Word) (args : List Word) (s : State) : Res :=
  onDev (fun d => d.mailbox 0x030B false (args.length == 1) tag args fun d => d.readsDram fun d =>
    let m := (args.getD 0 0).toNat
    if d.mosEn m then
      let (n, d) := d.hostClose m
      .ok d (leBytes 4 n)
    else .fail stBadArg) s

end Sys2Proof.Machine
end

