-- ==== Sys2Proof/Machine/Seam.lean ====
section
/-! DEFINITION. The Seam unit: deliveries, waiting, emission, masked columns and extents, blind members, web history, and its
commands (R160 to R181). Strand writes into history tiles are made with the emission of their stripe: the content of a stripe
is defined only from then on (R179). -/

namespace Sys2Proof.Machine

def seamInit (_ : Nat) : SeamMos := {}
def Dev.seamMos (d : Dev) (m : Nat) : SeamMos := tget seamInit d.seam.mos m
def Dev.setSeamMos (d : Dev) (m : Nat) (x : SeamMos) : Dev := { d with seam := { mos := tset seamInit d.seam.mos m x } }

/-- A SEAM_EVENT bit sets (vector 39). -/
def Dev.seamEvent (d : Dev) (m bit : Nat) : Dev := d.sticky ⟨R.SEAM_EVENT m, bit, 1⟩ 39 true

def blindBit (m c : Nat) : Fld := ⟨R.SEAM_BLIND m, c, 1⟩
def Dev.isBlind (d : Dev) (m c : Nat) : Bool := d.bit (blindBit m c)
def Dev.liveMembers (d : Dev) (m : Nat) : List Nat := (d.members m).filter (fun c => !d.isBlind m c)
def Dev.blindN (d : Dev) (m : Nat) : Nat := d.fld ⟨R.SEAM_WAIT m, 24, 4⟩
def Dev.maskValue (d : Dev) (m : Nat) : Nat := d.fld ⟨R.SEAM_MASK m, 0, 16⟩

/-- The accepted lines of a context; those of a stripe. -/
def SeamMos.lines (x : SeamMos) (c : Nat) : List OutLine := tget (fun _ => []) x.acc c
def SeamMos.stripe (x : SeamMos) (c : Nat) (k : Int) : List OutLine := (x.lines c).filter (fun l => l.k / 64 == k)
def SeamMos.setLines (x : SeamMos) (c : Nat) (ls : List OutLine) : SeamMos := { x with acc := tset (fun _ => []) x.acc c ls }

def OutLine.held (l : OutLine) : Bool := l.flags % 2 == 1
def OutLine.row (l : OutLine) : Nat := (l.k % 64).toNat

/-- The sample of a line at a mosaic column. -/
def OutLine.at (l : OutLine) (c : Nat) : Option Nat := if l.col0 ≤ c then (l.vals.getD (c - l.col0) none) else none

def SeamMos.pendOf (x : SeamMos) (k : Int) : SeamPend := (x.pend.find? (fun p => p.k == k)).getD { k := k }
def SeamMos.setPend (x : SeamMos) (p : SeamPend) : SeamMos := { x with pend := p :: x.pend.filter (fun q => q.k != p.k) }
def SeamMos.histOf (x : SeamMos) (k : Int) : Option SeamStripe := x.hist.find? (fun s => s.k == k)

/-! ### Directory entries (R172, R174, R176) -/

/-- The bytes of a directory entry (Table 8-3). -/
def SeamStripe.bytes (s : SeamStripe) : List Byte :=
  leBytes 8 (ofSigned 64 s.k) ++ leBytes 8 (ofSigned 64 s.mdFirst) ++ leBytes 8 (ofSigned 64 s.mdLast) ++
  (TimeBase.ofTotal (s.tFirst * 65536)).stamp.bytes ++ (TimeBase.ofTotal (s.tLast * 65536)).stamp.bytes ++
  leBytes 1 (s.next - s.first) ++ leBytes 1 s.exts.length ++ leBytes 1 s.dirFlags ++ leBytes 1 s.first ++ leBytes 4 s.seq ++
  leBytes 8 0 ++ s.flags.flatMap (leBytes 1) ++
  ((s.exts.flatMap (fun (e : EdgeRun × Nat × Bool) => leBytes 8 (e.1.lo + e.2.1 * 2 ^ 24 + (if e.2.2 then 2 ^ 31 else 0) + e.1.hi * 2 ^ 32))) ++
    List.replicate 128 0).take 128

def Dev.dirWrite (d : Dev) (m : Nat) (s : SeamStripe) : Dev := d.memWrite 0x02 (d.dirAddr m s.k) s.bytes

/-- At most 16 extents: beyond that the 16th runs to the last masked column, with cause MERGED (R174). -/
def mergeExts (es : List (EdgeRun × Nat × Bool)) : List (EdgeRun × Nat × Bool) :=
  if es.length ≤ 16 then es
  else match es.drop 15, es.getLast? with
    | e :: _, some l => es.take 15 ++ [(⟨e.1.lo, l.1.hi⟩, 5, (es.drop 15).any (·.2.2))]
    | _, _ => es

/-- The extents of the masked columns of two emissions together: cause and LATE_FILLED from the entry that holds the run's
first column (R172, R174). -/
def unionExts (width : Nat) (a b : List (EdgeRun × Nat × Bool)) : List (EdgeRun × Nat × Bool) :=
  mergeExts ((runsFrom 0 ((List.range width).map (fun c => (a ++ b).any (fun e => e.1.has c)))).map (fun r =>
    (r, (((a ++ b).find? (fun e => e.1.has r.lo)).map (·.2.1)).getD 0, (a ++ b).any (fun e => e.2.2 && e.1.touches r))))

/-! ### Emission (R163 to R165, R171 to R176) -/

/-- How a member stands in an emission: its context, the cause it is masked with (0 when it is not), and its lines. -/
structure MemberView where
  ctx : Nat
  cause : Nat
  lines : List OutLine

def MemberView.row (v : MemberView) (r : Nat) : Option OutLine := v.lines.find? (fun l => l.row == r)

/-- What a member offers at a row and a column: a sample; nothing as its lines have not begun there (R173); or it lacks the sample,
being masked or not covering the column (R163, R164). -/
inductive Offer where
  | value (v : Nat)
  | gap
  | lacking
deriving DecidableEq, Repr

def MemberView.offer (v : MemberView) (r c : Nat) : Offer :=
  if v.cause ≠ 0 then .lacking
  else match v.row r with
    | none => .gap
    | some l => match l.at c with
      | some x => .value x
      | none => .lacking

/-- Why a member does not supply a column. -/
def MemberView.why (v : MemberView) : Nat := if v.cause = 0 then 4 else v.cause

/-- The output of a column in a row: the owner's sample, in a ramp the blend of both or the one there is (R163, R164). -/
def outputAt (seams : List (Nat × Nat)) (vs : List MemberView) (r c : Nat) : Offer :=
  let at_ (i : Nat) : Offer := match vs[i]? with
    | some v => v.offer r c
    | none => .lacking
  match colOwner seams 0 c with
  | (i, none) => at_ i
  | (i, some (s, w)) => match at_ i, at_ (i + 1) with
    | .value a, .value b => .value (blend s w c a b)
    | .value a, _ => .value a
    | _, .value b => .value b
    | .lacking, .lacking => .lacking
    | _, _ => .gap

/-- The cause with which a column is masked in an emission of some rows, 0 when it is not: in one of its rows every contributing member
lacks the sample, or all of them are masked. The cause is that of the first contributing member (R163, R164, R174). -/
def columnCause (seams : List (Nat × Nat)) (vs : List MemberView) (rows : List Nat) (c : Nat) : Nat :=
  let why (i : Nat) : Nat := match vs[i]? with
    | some v => v.why
    | none => 4
  let out (i : Nat) : Bool := match vs[i]? with
    | some v => v.cause != 0
    | none => true
  let o := colOwner seams 0 c
  if (out o.1 && (o.2.isNone || out (o.1 + 1))) || rows.any (fun r => outputAt seams vs r c == .lacking) then why o.1 else 0

/-- A sample of an output, none for a gap. -/
def Offer.sample : Offer → Option Nat
  | .value v => some v
  | _ => none

/-- Write a row of a stripe tile by tile; columns beyond the list hold MASK_VALUE. -/
def Dev.tileRow (d : Dev) (m : Nat) (k : Int) (row : Nat) (vals : List Nat) : Dev :=
  (List.range (d.tilesX m)).foldl (fun d t =>
    let vs := (vals.drop (256 * t)).take 256
    d.memWrite 0x02 (d.tileAddr m k t + 512 * row)
      ((vs ++ List.replicate (256 - vs.length) (d.maskValue m)).flatMap (leBytes 2))) d

/-- What an emission writes and hands on. -/
structure Emission where
  k : Int
  /-- FIRST_LINE of the stripe, first and last row of this emission -/
  first : Nat
  lo : Nat
  hi : Nat
  isPart : Bool
  allBlind : Bool
  /-- grid positions and TB0 times, 2^-16 ns, of its first and last row -/
  p0 : Int
  p1 : Int
  t0 : Int
  t1 : Int
  views : List MemberView

/-- BLIND_ZONE records of an emission's extents (R175, R234). -/
def Dev.blindZones (d : Dev) (m : Nat) (e : Emission) (tFirst : Int) (exts : List (EdgeRun × Nat × Bool)) : Dev :=
  exts.foldl (fun d x =>
    let (um, d) := d.mdUm m e.p0
    let cpm := (d.reg (R.REC_MOSm_CPM m)).toNat
    let (bb, d) := if cpm = 0 then d.drawNat else ((roundAway ((e.p1 - e.p0) * 1000000) cpm).toNat, d)
    d.recNew { ty := 3, mos := m, stamp := (TimeBase.ofTotal (tFirst * 65536)).stamp, mdCu := e.p0, mdUm := um,
               cdUm := ((x.1.lo * d.colPitch m / 1000 : Nat) : Int), bbMd := bb, bbCd := x.1.len * d.colPitch m / 1000,
               body := leBytes 8 (ofSigned 64 e.p1) ++ leBytes 8 (ofSigned 64 e.k) ++ leBytes 1 x.2.1 ++
                 leBytes 1 ((if e.isPart then 1 else 0) + (if e.allBlind then 2 else 0)) }) d

/-- The stripe whose history slot a write for stripe k reuses. -/
def Dev.slotHolder (d : Dev) (m : Nat) (k : Int) : Option SeamStripe :=
  (d.seamMos m).hist.find? (fun s => s.k != k && d.histSlot m s.k == d.histSlot m k)

/-- HIST_OLDEST_K advances before the first write into a reused slot: it is the lowest stripe still intact (R178). -/
def Dev.oldestFor (d : Dev) (m : Nat) (k : Int) : Dev :=
  let x := d.seamMos m
  let left := x.hist.filter (fun s => s.k == k || d.histSlot m s.k != d.histSlot m k)
  let d := d.setSeamMos m { x with hist := left }
  if left.length = x.hist.length ∧ left ≠ [] then d
  else d.setSreg64 (R.SEAM_OLDEST_K_LO m) (left.foldl (fun lo s => if s.k < lo then s.k else lo) k)

/-- Emit rows of a stripe: history tiles, directory entry, hand-over to Lode, BLIND_ZONE records (R165, R172 to R176). -/
def Dev.emitRows (d : Dev) (m : Nat) (e : Emission) : Dev :=
  let width := d.mosWidth m
  let seams := d.seams m e.views.length
  let rows := (List.range (e.hi + 1 - e.lo)).map (· + e.lo)
  let there (r : Nat) : Bool := e.allBlind || e.views.any (fun v => (v.row r).isSome)
  let causes := (List.range width).map (columnCause seams e.views (rows.filter there))
  let own := mergeExts ((runsFrom 0 (causes.map (fun n => decide (n ≠ 0)))).map (fun r => (r, causes.getD r.lo 4, false)))
  let hit (c : Nat) : Bool := own.any (fun x => x.1.has c)
  let vals (r : Nat) : List (Option Nat) :=
    (List.range width).map (fun c => if hit c then none else (outputAt seams e.views r c).sample)
  let missing (r : Nat) : List EdgeRun :=
    if e.allBlind then [] else runsFrom 0 ((List.range width).map (fun c => !hit c && ((vals r).getD c none).isNone))
  let flag (r : Nat) : Nat :=
    (e.views.foldl (fun f v => f ||| (((v.row r).map (·.flags)).getD 0)) 0) |||
    (if !there r || !(missing r).isEmpty then 128 else 0)
  let d := d.oldestFor m e.k
  let d := rows.foldl (fun d r => d.tileRow m e.k r ((vals r).map (fun v => v.getD (d.maskValue m)))) d
  let x := d.seamMos m
  let old := x.histOf e.k
  let exts := match old with
    | none => own
    | some s => unionExts width s.exts own
  let merged := exts.any (fun x => x.2.1 == 5)
  let oldFlags := (old.map (·.flags)).getD (List.replicate 64 0)
  let s : SeamStripe :=
    { k := e.k, first := e.first, next := e.hi + 1,
      masked := ((old.map (·.masked)).getD []) ++ own.map (fun x => { cols := x.1, rows := ⟨e.lo, e.hi⟩ }),
      flags := (List.range 64).map (fun r => if e.lo ≤ r ∧ r ≤ e.hi then flag r else oldFlags.getD r 0),
      mdFirst := (old.map (·.mdFirst)).getD e.p0, tFirst := (old.map (·.tFirst)).getD e.t0,
      mdLast := e.p1, tLast := e.t1, seq := (x.seq + 1) % 2 ^ 32,
      dirFlags := (if e.isPart then 1 else 0) + (if merged then 2 else 0) + (if e.allBlind then 4 else 0) +
        (if exts.any (·.2.2) then 8 else 0) + (if e.first = 0 then 0 else 16),
      exts := exts }
  let d := d.setSeamMos m { x with seq := (x.seq + 1) % 2 ^ 32
                                   hist := (s :: x.hist.filter (fun h => h.k != e.k)).take (max 1 (d.histStripes m)) }
  let d := (d.dirWrite m s).setSreg64 (R.SEAM_LAST_K_LO m) e.k
  let d := if merged && !((old.map (·.exts)).getD []).any (fun x => x.2.1 == 5) then (d.bump ⟨R.SEAM_EXT_MERGE_CNT m, 0, 32⟩).seamEvent m 4 else d
  let d := if e.isPart then d.bump ⟨R.SEAM_PARTIAL_CNT m, 0, 32⟩ else d
  let d := d.lodeHand m e.k e.lo (e.hi + 1 - e.lo) (own.map (·.1)) (rows.flatMap (fun r => (missing r).map (fun x => (r, x))))
    (rows.map flag)
  (d.blindZones m e s.tFirst own).raise 0x3 (8 * m + 7)

/-! ### Blind members (R168 to R170) -/

/-- A member becomes blind. -/
def Dev.goBlind (d : Dev) (m c : Nat) : Dev :=
  if d.isBlind m c then d else ((d.put (blindBit m c) 1).seamEvent m 1).raise 0x3 (8 * m + 1)

/-- A member rejoins (R170). -/
def Dev.rejoin (d : Dev) (m c : Nat) : Dev :=
  let x := d.seamMos m
  (((d.setSeamMos m { x with runs := tset (fun _ => 0) x.runs c 0 }).put (blindBit m c) 0).seamEvent m 2).raise 0x3 (8 * m + 2)

/-- A stripe emitted whole: how often in a row each member was masked by R166 or R168 (R168). -/
def Dev.countMasked (d : Dev) (m : Nat) (vs : List MemberView) : Dev :=
  vs.foldl (fun d v =>
    if v.cause = 3 then d else
    let x := d.seamMos m
    let n := if v.cause = 0 then 0 else tget (fun _ => 0) x.runs v.ctx + 1
    let d := d.setSeamMos m { x with runs := tset (fun _ => 0) x.runs v.ctx n }
    if d.blindN m ≠ 0 ∧ d.blindN m ≤ n then d.goBlind m v.ctx else d) d

/-! ### Waiting and emitting (R165, R166, R172, R178) -/

/-- The stripe to emit next: the one after the last, or the first later one when every live member has gone past it. -/
def Dev.seamNext (d : Dev) (m : Nat) : Option Int :=
  let x := d.seamMos m
  let firsts := (d.liveMembers m).map (fun c =>
    ((x.lines c).find? (fun l => match x.last with
      | none => true
      | some k => decide (k < l.k / 64))).map (fun l => l.k / 64))
  let least (a b : Option Int) : Option Int := match a, b with
    | some i, some j => some (if i ≤ j then i else j)
    | none, b => b
    | a, none => a
  match x.last with
  | none => firsts.foldl least none
  | some k =>
    if firsts.isEmpty || firsts.any (·.isNone) then some (k + 1) else firsts.foldl least none

/-- A write for stripe k waits for the release of the stripe in its history slot (R178): with SEG_EN 0 nothing does. The last stripe
before one passed over, whose following stripe never comes, holds its slot only until it is labelled (DEDUCED, assumption 122). -/
def Dev.seamStalled (d : Dev) (m : Nat) (k : Int) : Bool :=
  let x := d.lodeMos m
  d.segEn m && (match d.slotHolder m k with
    | none => false
    | some s =>
      !((x.released.any (fun r => decide (s.k ≤ r))) ||
        (decide (s.k + 1 < k) && (d.seamMos m).hist.all (fun h => decide (h.k ≤ s.k)) && x.items.all (d.labelled m))))

/-- A write for stripe k waits for its history slot: each wait counts once (R178). -/
def Dev.stallOn (d : Dev) (m : Nat) (k : Int) : Dev :=
  let x := d.seamMos m
  if x.stall = some k then d else (d.setSeamMos m { x with stall := some k }).bump ⟨R.SEAM_HIST_STALL_CNT m, 0, 32⟩

/-- How each member stands for stripe k up to a row: a member all of whose lines so far are HELD is masked (R168). -/
def Dev.memberViews (d : Dev) (m : Nat) (k : Int) (upto : Nat) : List MemberView :=
  let x := d.seamMos m
  let p := x.pendOf k
  (d.members m).map (fun c =>
    let ls := (x.stripe c k).filter (fun l => decide (l.row ≤ upto))
    { ctx := c, lines := ls,
      cause := if d.isBlind m c then 3
        else if p.out.contains c then 1
        else if !ls.isEmpty && ls.all OutLine.held then 2 else 0 })

/-- The rows that any member delivered. -/
def viewRows (vs : List MemberView) : List Nat := vs.flatMap (fun v => v.lines.map OutLine.row)

/-- The TB0 time of a row: that of the first member in order that has it. -/
def viewTime (vs : List MemberView) (r : Nat) : Int :=
  (((vs.filterMap (fun v => v.row r)).head?).map (·.time)).getD 0

/-- The grid position of a row: that of the same line; where no member has the row, the grid's. -/
def Dev.viewPos (d : Dev) (m : Nat) (k : Int) (vs : List MemberView) (r : Nat) : Int :=
  (((vs.filterMap (fun v => v.row r)).head?).map (·.pos)).getD ((d.mosGrid m).at (64 * k + r))

/-- Stripe k is emitted whole: what was delivered for it is used. -/
def Dev.closeMosStripe (d : Dev) (m : Nat) (k : Int) : Dev :=
  let x := d.seamMos m
  let x := (d.members m).foldl (fun x c =>
    if (x.stripe c k).any (fun l => l.row == 63) then x.setLines c ((x.lines c).filter (fun l => decide (k < l.k / 64))) else x) x
  let g := d.mosGrid m
  let past := x.stamps.takeWhile (fun s => decide (g.at (64 * (k + 1)) < s.1))
  d.setSeamMos m { x with last := some k, blindAt := none, pend := x.pend.filter (fun p => decide (k < p.k)),
                          stamps := past ++ (x.stamps.drop past.length).take 1 }

/-- Emit stripe k up to a row: the rest of it when `isPart` is unset. -/
def Dev.emitStripe (d : Dev) (m : Nat) (k : Int) (isPart : Bool) (upto : Nat) : Dev :=
  let all := d.memberViews m k upto
  let x := d.seamMos m
  let old := x.histOf k
  let from_ := (old.map (·.next)).getD 0
  let vs := all.map (fun v => { v with lines := v.lines.filter (fun l => decide (from_ ≤ l.row)) })
  let rows := viewRows vs
  let d := match rows with
    | [] => d
    | r :: rs =>
      let hi := rs.foldl max r
      let first := (old.map (·.first)).getD (rs.foldl min r)
      let lo := (old.map (·.next)).getD (rs.foldl min r)
      d.emitRows m { k := k, first := first, lo := lo, hi := hi, isPart := isPart, allBlind := false,
                     p0 := d.viewPos m k vs lo, p1 := d.viewPos m k vs hi,
                     t0 := viewTime vs (rs.foldl min r), t1 := viewTime vs hi, views := vs }
  if isPart then d else (d.closeMosStripe m k).countMasked m all

/-- The row up to which a partial emission may go (R172): every live member's last line of the stripe is a flushed one. -/
def Dev.partialRow (d : Dev) (m : Nat) (k : Int) : Option Nat :=
  let x := d.seamMos m
  let lasts := (d.liveMembers m).map (fun c => (x.stripe c k).getLast?)
  if lasts.isEmpty then none
  else if lasts.all (fun l => match l with
    | some l => l.flush
    | none => false) then
    (lasts.filterMap (fun l => l.map OutLine.row)).min?
  else none

/-- Emit whatever is ready, in ascending order (R165). -/
def Dev.seamRun (d : Dev) (m : Nat) : Nat → Dev
  | 0 => d
  | n + 1 =>
    let x := d.seamMos m
    let live := d.liveMembers m
    match d.seamNext m with
    | none => d
    | some k =>
      let p := x.pendOf k
      let whole := !live.isEmpty && (live.all (fun c => p.dlv.contains c) || p.expired)
      let part := (d.partialRow m k).filter (fun r => decide ((((x.histOf k).map (·.next)).getD 0) ≤ r))
      if x.paused || live.isEmpty || (!whole && part.isNone) then d
      else if d.seamStalled m k then d.stallOn m k
      else if whole then (d.emitStripe m k false 63).seamRun m n
      else d.emitStripe m k true (part.getD 63)

/-! ### An all-blind mosaic (R171) -/

/-- The TB0 time at a grid position by the stamps about it, newest first, rounded down; none where no two enclose it. -/
def timeBetween (pos : Int) : List (Int × Int) → Option Int
  | (p, t) :: (p0, t0) :: rest =>
    if p0 ≤ pos ∧ pos ≤ p ∧ p0 < p then some (t0 + (t - t0) * (pos - p0) / (p - p0))
    else if pos = p then some t
    else timeBetween pos ((p0, t0) :: rest)
  | [(p, t)] => if pos = p then some t else none
  | [] => none

/-- The TB0 time of a grid line that no member delivered. Where no two stamps enclose it the spec states no value: it is free. -/
def Dev.stampTime (d : Dev) (m : Nat) (pos : Int) : Int × Dev :=
  match timeBetween pos (d.seamMos m).stamps with
  | some t => (t, d)
  | none =>
    let (v, d) := d.drawNat
    ((v : Int), d)

/-- Emit one stripe from a grid line on, wholly masked. -/
def Dev.blindStripe (d : Dev) (m : Nat) (line : Int) : Dev :=
  let k := line / 64
  let row := (line % 64).toNat
  let g := d.mosGrid m
  let (t0, d) := d.stampTime m (g.at line)
  let (t1, d) := d.stampTime m (g.at (64 * k + 63))
  let old := (d.seamMos m).histOf k
  (d.emitRows m { k := k, first := (old.map (·.first)).getD row, lo := row, hi := 63, isPart := false, allBlind := true,
                  p0 := g.at line, p1 := g.at (64 * k + 63), t0 := t0, t1 := t1,
                  views := (d.members m).map (fun c => { ctx := c, cause := 3, lines := [] }) }).closeMosStripe m k

/-- The grid line at which the next wholly masked stripe begins. -/
def Dev.blindLine (d : Dev) (m : Nat) : Option Int :=
  let x := d.seamMos m
  match x.last with
  | none => x.blindAt
  | some k => some (64 * (k + 1) + (((x.histOf (k + 1)).map (·.next)).getD 0 : Nat))

/-- Emit the stripes whose last grid line a stamp has reached, while no member is live (R171). -/
def Dev.blindRun (d : Dev) (m : Nat) : Nat → Dev
  | 0 => d
  | n + 1 =>
    if !(d.liveMembers m).isEmpty || (d.seamMos m).paused then d
    else match d.blindLine m with
      | none => d
      | some line =>
        if (d.seamMos m).stamps.any (fun s => decide ((d.mosGrid m).at (64 * (line / 64) + 63) ≤ s.1)) then
          if d.seamStalled m (line / 64) then d.stallOn m (line / 64) else (d.blindStripe m line).blindRun m n
        else d

/-- As many stripes as the stamps have passed. -/
def Dev.blindGo (d : Dev) (m : Nat) : Dev :=
  match d.blindLine m with
  | none => d
  | some line =>
    let g := d.mosGrid m
    let top := (d.seamMos m).stamps.foldl (fun p s => max p s.1) (g.at line)
    d.blindRun m (1 + ((top - g.at line) / (64 * g.pitch : Nat)).toNat)

/-- Emit whatever is ready: as many stripes as may be at once, then those of a mosaic left without a live member. -/
def Dev.seamGo (d : Dev) (m : Nat) : Dev := (d.seamRun m ((d.seamMos m).pend.length + 1)).blindGo m

/-- A late delivery (R167): counted, and written into the columns that were masked for the member. -/
def Dev.lateDelivery (d : Dev) (m c : Nat) (k : Int) (ls : List OutLine) : Dev :=
  let d := d.bump ⟨R.SEAM_LATE_CNT m, 0, 32⟩
  let x := d.seamMos m
  match x.histOf k with
  | none => d
  | some s =>
    if ls.all OutLine.held || decide (k < d.oldestK m) then d
    else
      let ms := d.members m
      let seams := d.seams m ms.length
      let mine (col : Nat) : Bool :=
        let (i, r) := colOwner seams 0 col
        ms[i]? == some c || (r.isSome && ms[i + 1]? == some c)
      let cells := s.masked.flatMap (fun b => ((List.range b.cols.len).map (· + b.cols.lo)).flatMap (fun col =>
        if mine col then ls.filterMap (fun l =>
          if b.rows.has l.row && decide (l.col0 ≤ col) && decide (col < l.col0 + l.vals.length) then
            some (l.row, col, (l.at col).getD l.level) else none) else []))
      if cells.isEmpty then d
      else
        let d := cells.foldl (fun d e =>
          d.memWrite 0x02 (d.tileAddr m k (e.2.1 / 256) + 512 * e.1 + 2 * (e.2.1 % 256)) (leBytes 2 e.2.2)) d
        let s := { s with exts := s.exts.map (fun e => (e.1, e.2.1, e.2.2 || cells.any (fun f => e.1.has f.2.1)))
                          dirFlags := s.dirFlags ||| 8 }
        let x := d.seamMos m
        ((d.setSeamMos m { x with hist := x.hist.map (fun h => if h.k = k then s else h) }).dirWrite m s).seamEvent m 3

/-- A member has delivered stripe k (R165 to R170). -/
def Dev.delivered (d : Dev) (m c : Nat) (k : Int) : Dev :=
  let x := d.seamMos m
  let ls := x.stripe c k
  let back := d.isBlind m c && !d.ctxDark c && ls.any (fun l => !l.held)
  let late := x.paused || (match x.last with
    | some l => decide (k ≤ l)
    | none => false)
  if late then
    let d := d.lateDelivery m c k ls
    let x := d.seamMos m
    let d := d.setSeamMos m (x.setLines c ((x.lines c).filter (fun l => decide (k < l.k / 64))))
    if back then d.rejoin m c else d
  else
    let d := if back then d.rejoin m c else d
    let x := d.seamMos m
    let p := x.pendOf k
    let p := { p with dlv := c :: p.dlv, timer := if p.timer.isNone && !d.isBlind m c then some d.now2 else p.timer }
    (d.setSeamMos m (x.setPend p)).seamGo m

/-- The Seam unit accepts an output line of a member. HIST_OLDEST_K advances before the first write into a reused slot
(R178). -/
def Dev.acceptLine (d : Dev) (m c : Nat) (l : OutLine) : Dev :=
  let k := l.k / 64
  let d := if (d.slotHolder m k).isSome then d.oldestFor m k else d
  let x := d.seamMos m
  let d := d.setSeamMos m (x.setLines c (x.lines c ++ [l]))
  if l.row = 63 then d.delivered m c k else d

/-- Accept output lines in order, up to one that waits for its history slot (R178); how many were accepted. -/
def Dev.acceptLines (d : Dev) (m c : Nat) : List OutLine → Nat × Dev
  | [] => (0, d)
  | l :: ls =>
    if d.seamStalled m (l.k / 64) then (0, d.stallOn m (l.k / 64))
    else
      let r := (d.acceptLine m c l).acceptLines m c ls
      (r.1 + 1, r.2)

/-- A context is DISABLED, in FAULT or marked CTX_MISMATCH: it is blind from the first stripe not yet emitted (R169). -/
def Dev.seamDark (d : Dev) (c : Nat) : Dev :=
  let m := d.ctxMosaic c
  if d.mosEn m && d.ctxEn c && d.ctxDark c then (d.goBlind m c).seamGo m else d

/-- A stamp appears in the history of a TRIG output: all-blind mosaics that follow it emit (R171). -/
def Dev.trigStamped (d : Dev) (out : Nat) (pos time : Int) : Dev :=
  (List.range 4).foldl (fun d m =>
    match d.members m with
    | [] => d
    | c :: _ =>
      if d.mosEn m && d.ctxTrig c == out then
        let x := d.seamMos m
        let dark := (d.liveMembers m).isEmpty && !x.paused
        let first := x.last.isNone && x.blindAt.isNone
        (d.setSeamMos m { x with
          blindAt := if first && dark then some ((d.mosGrid m).next (pos - 1)) else x.blindAt
          stamps := (pos, time) :: (if first then x.stamps.take 1 else x.stamps) }).blindGo m
      else d) d

/-! ### Commands (R181) and events -/

/-- DELIVERY: the Seam unit accepts the next `n` output lines of a context; line 64k + 63 delivers stripe k (R165). A line whose
history slot Lode has not released waits, and those behind it (R178). -/
def Dev.delivery (d : Dev) (ctx n : Nat) : Dev :=
  let q := tget (fun _ => []) d.str.outs ctx
  let m := d.ctxMosaic ctx
  if d.ctxEn ctx && d.mosEn m then
    let r := d.acceptLines m ctx (q.take n)
    let d := { r.2 with str := { r.2.str with outs := tset (fun _ => []) r.2.str.outs ctx (q.drop r.1) } }
    if (q.take r.1).any OutLine.flush then d.seamGo m else d
  else d

/-- DELIVERY (R165, R178). -/
def execDelivery (ctx n : Nat) (s : State) : Res := onFab (fun d => d.delivery ctx n) s

/-- SEAM_WAIT_T in nanoseconds: 0 is treated as 1 µs. -/
def Dev.seamWait (d : Dev) (m : Nat) : Nat := 1000 * max 1 (d.fld ⟨R.SEAM_WAIT m, 0, 20⟩)

/-- MEMBER_TIMEOUT: the wait timer of stripe k expires, SEAM_WAIT_T after the first delivery (R166). -/
def Dev.memberLate (d : Dev) (m : Nat) (k : Int) : Dev :=
  match ((d.seamMos m).pendOf k).timer with
  | none => d
  | some t =>
  if d.mosEn m && !((d.seamMos m).pendOf k).expired then
    let d := d.expire t (d.seamWait m)
    let x := d.seamMos m
    let p := x.pendOf k
    let out := (d.liveMembers m).filter (fun c => !p.dlv.contains c)
    let d := d.setSeamMos m (x.setPend { p with expired := true, out := out })
    let d := out.foldl (fun d _ => ((d.bump ⟨R.SEAM_TIMEOUT_CNT m, 0, 32⟩).seamEvent m 0).raise 0x3 (8 * m)) d
    d.seamGo m
  else d

/-- MEMBER_TIMEOUT (R166). -/
def execMemberTimeout (m : Nat) (k : Int) (s : State) : Res := onFab (fun d => d.memberLate m k) s

/-- MEMBER_BLIND: a member masked in BLIND_N stripes in a row, or whose port is dark, is blind (R168, R169). -/
def execMemberBlind (ctx : Nat) (s : State) : Res :=
  onFab (fun d =>
    let m := d.ctxMosaic ctx
    if d.mosEn m && d.ctxEn ctx &&
        (d.ctxDark ctx || (d.blindN m != 0 && decide (d.blindN m ≤ tget (fun _ => 0) (d.seamMos m).runs ctx))) then
      (d.goBlind m ctx).seamGo m
    else d) s

/-- HIST_STALL_END: Lode has released the stripe whose slot is wanted, and the waiting writes resume (R178). -/
def execHistStallEnd (m : Nat) (s : State) : Res := onFab (fun d => if d.mosEn m then d.seamGo m else d) s

/-- 0x0306 SEAM_INFO. -/
def execSeamInfo (tag : Word) (args : List Word) (s : State) : Res :=
  onDev (fun d => d.mailbox 0x0306 false (args.length == 1) tag args fun d =>
    let m := (args.getD 0 0).toNat
    if d.mosEn m then
      .ok d (d.regsBytes (addrs (R.SEAM_CFG m) 23) ++ d.regsBytes (addrs (R.SEAM_Si m 0) 31))
    else .fail stBadArg) s

/-- The greatest stripe at or below `hi` whose MD_FIRST is at or below a position, by halving (R179). -/
def Dev.histFind (d : Dev) (m : Nat) (pos : Int) : Nat → Int → Int → Option Int × Dev
  | 0, lo, _ => (some lo, d)
  | n + 1, lo, hi =>
    if lo < hi then
      let mid := (lo + hi + 1) / 2
      match d.dirRead 0x0B m mid with
      | (none, d) => (none, d)
      | (some e, d) => if toSigned 64 (fieldAt e 8 8) ≤ pos then d.histFind m pos n mid hi else d.histFind m pos n lo (mid - 1)
    else (some lo, d)

/-- Where a position lies in a stripe, by its directory entry: the row. -/
def histRow (e : List Byte) (pos : Int) : Nat :=
  let first := byteAt e 51
  let lines := byteAt e 48
  let m0 := toSigned 64 (fieldAt e 8 8)
  let m1 := toSigned 64 (fieldAt e 16 8)
  let row := if lines = 1 ∨ m0 = m1 then first else first + (roundDiv ((pos - m0) * ((lines : Int) - 1)) (m1 - m0)).toNat
  min row (first + lines - 1)

/-- 0x0307 HIST_LOCATE: k, row, slot, directory entry, address of tile 0. -/
def execHistLocate (tag : Word) (args : List Word) (s : State) : Res :=
  onDev (fun d => d.mailbox 0x0307 false (args.length == 3) tag args fun d => d.readsDram fun d =>
    let m := (args.getD 0 0).toNat
    let pos := toSigned 64 (word64 (args.getD 1 0) (args.getD 2 0))
    if !d.mosEn m then .fail stBadArg
    else if (d.seamMos m).hist.isEmpty then .fail stNotInHistory
    else
      match d.dirRead 0x0B m (d.oldestK m) with
      | (none, d') => .failWith stNotInHistory d' []
      | (some e0, d') =>
        match d'.dirRead 0x0B m (d.lastK m) with
        | (none, d') => .failWith stNotInHistory d' []
        | (some e1, d') =>
          if pos < toSigned 64 (fieldAt e0 8 8) ∨ toSigned 64 (fieldAt e1 16 8) < pos then
            .failWith stNotInHistory d' []
          else
            match d'.histFind m pos 64 (d.oldestK m) (d.lastK m) with
            | (none, d') => .failWith stNotInHistory d' []
            | (some k, d') =>
              match d'.dirRead 0x0B m k with
              | (none, d') => .failWith stNotInHistory d' []
              | (some e, d') =>
                .ok d' (leBytes 8 (ofSigned 64 k) ++ leBytes 4 (histRow e pos) ++ leBytes 4 (d.histSlot m k) ++ e ++
                  leBytes 8 (d.tileAddr m k 0))) s

/-- 0x0308 HIST_DIR_READ. -/
def execHistDirRead (tag : Word) (args : List Word) (s : State) : Res :=
  onDev (fun d => d.mailbox 0x0308 false (args.length == 3) tag args fun d => d.readsDram fun d =>
    let m := (args.getD 0 0).toNat
    let k := toSigned 64 (word64 (args.getD 1 0) (args.getD 2 0))
    if !d.mosEn m then .fail stBadArg
    else match (if (d.seamMos m).hist.isEmpty then (none, d) else d.dirRead 0x0B m k) with
      | (none, d) => .failWith stNotInHistory d []
      | (some e, d) => .ok d e) s

end Sys2Proof.Machine
end

