-- ==== Sys2Proof/Machine/Tideline.lean ====
section
/-! DEFINITION. Tideline: inputs, position counters, speed and direction, compare channels, trigger and strobe outputs with
their history, and lock step between devices (R244 to R277). Instants are TB2 in units of 125 ps. -/

namespace Sys2Proof.Machine

/-- A TDL_EVENT bit sets; it interrupts when enabled (vector 19). -/
def Dev.tdlEvent (d : Dev) (bit : Nat) : Dev := d.sticky ⟨R.TDL_EVENT, bit, 1⟩ 19 (d.bit ⟨R.TDL_IRQ_EN, bit, 1⟩)

def encInit (_ : Nat) : EncIn := {}
def ssiInit (_ : Nat) : SsiPort := {}
def cmpInit (_ : Nat) : CmpCh := {}

def Dev.tdlEn (d : Dev) : Bool := d.bit ⟨R.TDL_CTRL, 0, 1⟩
def Dev.encIn (d : Dev) (n : Nat) : EncIn := tget encInit d.tdl.enc n
def Dev.setEnc (d : Dev) (n : Nat) (x : EncIn) : Dev := { d with tdl := { d.tdl with enc := tset encInit d.tdl.enc n x } }
def Dev.ssiPort (d : Dev) (n : Nat) : SsiPort := tget ssiInit d.tdl.ssi n
def Dev.setSsi (d : Dev) (n : Nat) (x : SsiPort) : Dev := { d with tdl := { d.tdl with ssi := tset ssiInit d.tdl.ssi n x } }
def Dev.posCnt (d : Dev) (n : Nat) : PosCnt := tget posInit d.tdl.pos n
def Dev.setPosCnt (d : Dev) (n : Nat) (x : PosCnt) : Dev := { d with tdl := { d.tdl with pos := tset posInit d.tdl.pos n x } }
def Dev.cmpCh (d : Dev) (n : Nat) : CmpCh := tget cmpInit d.tdl.cmp n
def Dev.setCmp (d : Dev) (n : Nat) (x : CmpCh) : Dev := { d with tdl := { d.tdl with cmp := tset cmpInit d.tdl.cmp n x } }

/-- The position of a counter, count units (R255). -/
def Dev.posOf (d : Dev) (n : Nat) : Int := d.sreg64 (R.TDL_POSn_POS_LO n)

/-! ### Trigger and strobe outputs (R270 to R273) -/

/-- A TB0 stamp at an instant of TB2. -/
def Dev.tb0At (d : Dev) (t : Nat) : Stamp := (TimeBase.ofTotal (d.tim.tb0.total + ((t : Int) - (d.now8 : Int)) * 2 ^ 29)).stamp

/-- The address of the history entry of a count (R273). -/
def Dev.histAddr (d : Dev) (n count : Nat) : Nat := d.reg64 R.TDL_HIST_BASE_LO + n * 2 ^ 21 + 32 * (count % 65536)

/-- The bytes of a history entry (Table 12-2). -/
def histBytes (count flags cmp : Nat) (stamp : Int) (t : Stamp) (k : Nat) : List Byte :=
  leBytes 4 count ++ leBytes 2 flags ++ leBytes 1 cmp ++ leBytes 1 0 ++ leBytes 8 (ofSigned 64 stamp) ++ t.bytes ++ leBytes 4 k

/-- TRIG_W, lower than 8 treated as 8. -/
def Dev.trigW (d : Dev) (n : Nat) : Nat := max 8 (d.fld ⟨R.TDL_TRIGn_CFG n, 16, 16⟩)

/-- A firing collides with the output's previous pulse: it falls while that is active or less than 20 ns after its end; a
firing within 1 ns of that point is decided either way (R32, R270). -/
def Dev.collides (d : Dev) (n t : Nat) : Bool × Dev :=
  match tget noneAt d.tdl.pulseEnd n with
  | none => (false, d)
  | some e =>
    if t + 8 ≤ e + 160 then (true, d)
    else if e + 160 + 8 ≤ t then (false, d)
    else ((d.drawNat).1 % 2 == 1, (d.drawNat).2)

/-- When an output crosses differential zero: at a free instant of the window within which R263 and R275 put it (R271, assumption 85). -/
def Dev.outInstant (d : Dev) (win : Nat × Nat) : Nat × Dev :=
  if win.2 ≤ win.1 then (win.1, d) else (win.1 + (d.drawNat).1 % (win.2 - win.1 + 1), (d.drawNat).2)

/-- One output takes a firing (R270, R271, R273): suppressed while gated, dropped on a collision, otherwise a pulse of the polarity POL, its
count, and its history entry; the Seam unit sees the stamp (R171). -/
def Dev.trigPulse (d : Dev) (c : Nat) (stamp : Int) (k flags t : Nat) (win : Nat × Nat) (n : Nat) : Dev :=
  let gates := tget (fun _ => []) d.tdl.gates n
  if !gates.isEmpty then gates.foldl (fun d p => d.bump ⟨R.CAM_GATE_SKIP p, 0, 32⟩) d
  else
    match d.collides n t with
    | (true, d) => (d.bump ⟨R.TDL_TRIGn_DROP n, 0, 16⟩).tdlEvent 9
    | (false, d) =>
      match d.outInstant win with
      | (at_, d) =>
        let count := ((d.reg (R.TDL_TRIGn_COUNT n)).toNat + 1) % 2 ^ 32
        let d := d.setReg (R.TDL_TRIGn_COUNT n) (BitVec.ofNat 32 count)
        let d := d.emit (.trig n count (d.trigW n) (d.bit ⟨R.TDL_TRIGn_CFG n, 6, 1⟩))
        let d := { d with tdl := { d.tdl with
          pulseEnd := tset noneAt d.tdl.pulseEnd n (some (t + 8 * d.trigW n))
          trigAt := tset (fun _ => []) d.tdl.trigAt n (((at_ + 7) / 8 :: tget (fun _ => []) d.tdl.trigAt n).take 65536) } }
        let fl := flags + (if d.tb0Locked then 0 else 64)
        let d := d.memWrite 0x09 (d.histAddr n count) (histBytes count fl c stamp (d.tb0At at_) k)
        d.trigStamped n stamp (d.tb0At at_).linear16

/-- STROBEk with ALT set drives the pin of TRIG14 or TRIG15 (R272). -/
def Dev.altTaken (d : Dev) (n : Nat) : Bool :=
  (n == 14 && d.bit ⟨R.TDL_STBk_CFG 2, 7, 1⟩) || (n == 15 && d.bit ⟨R.TDL_STBk_CFG 3, 7, 1⟩)

/-- A channel fires at instant `t`, the outputs' edges within a window: its counters and last stamp, its Runnel event, every TRIG output and
every strobe it drives, STROBE2 and STROBE3 with ALT at the pins of TRIG14 and TRIG15. -/
def Dev.fire (d : Dev) (c : Nat) (stamp : Int) (k flags t : Nat) (win : Nat × Nat) : Dev :=
  let d := (d.bump ⟨R.TDL_CMPn_FIRE_CNT c, 0, 32⟩).setSreg64 (R.TDL_CMPn_LAST_LO c) stamp
  let pos := d.fld ⟨R.TDL_CMPn_CFG c, 2, 3⟩
  let flags := flags + (if d.bit ⟨R.TDL_POSn_SPD_STATUS pos, 3, 1⟩ then 32 else 0)
  let d := if d.bit ⟨R.TDL_CMPn_CFG c, 10, 1⟩ then d.raise 0x5 c else d
  let d := (List.range 16).foldl (fun d n =>
    if d.bit ⟨R.TDL_TRIGn_CFG n, 0, 1⟩ && d.fld ⟨R.TDL_TRIGn_CFG n, 1, 5⟩ == c && !d.altTaken n then
      d.trigPulse c stamp k flags t win n else d) d
  (List.range 4).foldl (fun d i =>
    if d.bit ⟨R.TDL_STBk_CFG i, 0, 1⟩ && d.fld ⟨R.TDL_STBk_CFG i, 1, 5⟩ == c then
      d.emit (.strobe i (d.fld ⟨R.TDL_STBk_TIME i, 0, 16⟩) (max 1 (d.fld ⟨R.TDL_STBk_TIME i, 16, 16⟩))
        (d.bit ⟨R.TDL_STBk_CFG i, 6, 1⟩) (decide (2 ≤ i) && d.bit ⟨R.TDL_STBk_CFG i, 7, 1⟩)) else d) d

/-! ### Compare channels (R262 to R269) -/

def Dev.cmpMode (d : Dev) (c : Nat) : Nat := d.fld ⟨R.TDL_CMPn_CFG c, 0, 2⟩
def Dev.cmpPos (d : Dev) (c : Nat) : Nat := d.fld ⟨R.TDL_CMPn_CFG c, 2, 3⟩
/-- DIR_SEL: 0 forward, 1 reverse, 2 either; 3 treated as 0. -/
def Dev.cmpDir (d : Dev) (c : Nat) : Nat := if d.fld ⟨R.TDL_CMPn_CFG c, 5, 2⟩ = 3 then 0 else d.fld ⟨R.TDL_CMPn_CFG c, 5, 2⟩
def Dev.cmpInterp (d : Dev) (c : Nat) : Bool := d.bit ⟨R.TDL_CMPn_CFG c, 7, 1⟩
def Dev.cmpBidir (d : Dev) (c : Nat) : Bool := d.bit ⟨R.TDL_CMPn_CFG c, 8, 1⟩
def cmpArm (c : Nat) : Fld := ⟨R.TDL_CMPn_CFG c, 9, 1⟩
def cmpBehind (c : Nat) : Fld := ⟨R.TDL_CMPn_STATUS c, 0, 1⟩
def cmpArmed (c : Nat) : Fld := ⟨R.TDL_CMPn_STATUS c, 1, 1⟩
def cmpFired (c : Nat) : Fld := ⟨R.TDL_CMPn_STATUS c, 2, 1⟩
def cmpWaitFwd (c : Nat) : Fld := ⟨R.TDL_CMPn_STATUS c, 3, 1⟩
def cmpTooFar (c : Nat) : Fld := ⟨R.TDL_CMPn_STATUS c, 4, 1⟩

/-- The target or origin in force. -/
def Dev.cmpTgt (d : Dev) (c : Nat) : Int := toSigned 64 (d.act64 (R.TDL_CMPn_TGT_LO c))

/-- The grid in force of a periodic channel: PITCH_CU 0 treated as 1 (R265, Table 12-5). -/
def Dev.cmpGrid (d : Dev) (c : Nat) : Grid :=
  ({ org := d.cmpTgt c, pitch := max 1 (d.actFld ⟨R.TDL_CMPn_PITCH c, 0, 24⟩)
     num := d.actFld ⟨R.TDL_CMPn_PITCH_REM c, 0, 16⟩, den := d.actFld ⟨R.TDL_CMPn_PITCH_REM c, 16, 16⟩ } : Grid).norm

/-- The next index of a periodic channel. -/
def Dev.cmpK (d : Dev) (c : Nat) : Int := d.sreg64 (R.TDL_CMPn_K_LO c)
def Dev.setCmpK (d : Dev) (c : Nat) (k : Int) : Dev := d.setSreg64 (R.TDL_CMPn_K_LO c) k

/-- Grid points passed over: SKIP_CNT and SKIP (R265, R266). -/
def Dev.cmpSkip (d : Dev) (c : Nat) (n : Int) : Dev :=
  if 0 < n then (d.bumpBy ⟨R.TDL_CMPn_SKIP_CNT c, 0, 32⟩ n.toNat).tdlEvent 7 else d

/-- Drop the channel's schedule. -/
def Dev.unschedule (d : Dev) (c : Nat) : Dev := d.setCmp c { d.cmpCh c with sched := none }

/-- The next index becomes the least k strictly ahead of the position; beyond k_last + 1 the difference is skipped (R265). -/
def Dev.cmpRecompute (d : Dev) (c : Nat) : Dev :=
  let k := (d.cmpGrid c).next (d.posOf (d.cmpPos c))
  let d := (d.unschedule c).setCmpK c k
  match (d.cmpCh c).kLast with
  | some l => d.cmpSkip c (k - (l + 1))
  | none => d

/-- The target a channel waits for: of a single channel its target, of a periodic one g(next index), with that index. -/
def Dev.cmpNext (d : Dev) (c : Nat) : Option (Int × Int) :=
  match d.cmpMode c with
  | 1 => some (d.cmpTgt c, 0)
  | 2 => some ((d.cmpGrid c).at (d.cmpK c), d.cmpK c)
  | _ => none

/-- Schedule an interpolated firing (R262): INTERP 1, SPD_VALID 1, forward motion, and the target in (p_e, p_e + 256]; then
T = t_e + (target − p_e) × 10^9 / (256 × SPEED) ns. -/
def Dev.schedule (d : Dev) (c : Nat) : Dev :=
  let n := d.cmpPos c
  let pe := d.posOf n
  match d.cmpNext c, (d.posCnt n).last with
  | some (tgt, k), some te =>
    let speed := (d.reg (R.TDL_POSn_SPEED n)).toNat
    if d.bit (cmpArmed c) && d.cmpInterp c && d.spdValid n && !d.bit ⟨R.TDL_POSn_SPD_STATUS n, 0, 1⟩ &&
        !(d.cmpMode c == 1 && d.cmpDir c == 1) && (d.cmpCh c).sched.isNone &&
        decide (pe < tgt) && decide (tgt ≤ pe + 256) && decide (0 < speed) then
      d.setCmp c { d.cmpCh c with sched := some { at_ := te + (tgt - pe).toNat * 500000000 / speed, target := tgt, k := k } }
    else d
  | _, _ => d

/-- A single channel has fired: ARM clears and FIRED sets (R264). -/
def Dev.singleDone (d : Dev) (c : Nat) : Dev :=
  (((d.put (cmpArm c) 0).put (cmpArmed c) 0).put (cmpFired c) 1).unschedule c

/-- Within which instants the output edge of an edge-locked firing lies: from the edge's acceptance to the limits of R263 after its threshold
crossing, of R275 for SYNC_IN; after an SSI word's arrival point the same 40 ns. -/
def Dev.edgeWindow (d : Dev) (n t acc : Nat) : Nat × Nat :=
  let src := d.fld ⟨R.TDL_POSn_CFG n, 1, 3⟩
  let filt := if src < 4 then d.fld ⟨R.TDL_ENCn_CFG src, 8, 4⟩ else if src = 4 then d.fld ⟨R.TDL_HALL_CFG, 8, 4⟩ else 0
  let last := if src = 7 then t + 8 * (d.fld ⟨R.TDL_SYNC_CFG, 8, 8⟩ + 52)
    else if 5 ≤ src then acc + 320
    else t + 8 * (if filt ≤ 8 then 40 else 32 + filt)
  (acc, max acc last)

/-- A single channel at a counted edge from p0 to p1 (R262, R264). -/
def Dev.singleEdge (d : Dev) (c : Nat) (p0 p1 : Int) (t acc : Nat) : Dev :=
  let tgt := d.cmpTgt c
  let fwd := decide (p0 < tgt) && decide (tgt ≤ p1)
  let rev := decide (tgt < p0) && decide (p1 ≤ tgt)
  let hit := match d.cmpDir c with
    | 0 => fwd
    | 1 => rev
    | _ => fwd || rev
  if hit then
    ((d.put (cmpBehind c) 0).fire c p1 0 (2 + 8 + (if rev then 16 else 0)) t (d.edgeWindow (d.cmpPos c) t acc)).singleDone c
  else d

/-- On forward motion a generator that waits for it re-arms at g(k_last + 1), or, where that lies behind the edge's starting point, at the
first grid point ahead of it (R267; DEDUCED, assumption 82). -/
def Dev.rearm (d : Dev) (c : Nat) (p0 : Int) : Dev :=
  if d.bit (cmpWaitFwd c) then
    let d := d.put (cmpWaitFwd c) 0
    match (d.cmpCh c).kLast with
    | some l => d.setCmpK c (max (l + 1) ((d.cmpGrid c).next p0))
    | none => d
  else d

/-- A generator at a counted forward edge (R265, R266): one firing for the first grid point reached, the points passed
beyond it skipped. -/
def Dev.periodicForward (d : Dev) (c : Nat) (p0 p1 : Int) (t acc : Nat) : Dev :=
  let d := if d.cmpBidir c then d.put (cmpWaitFwd c) 0 else d.rearm c p0
  let g := d.cmpGrid c
  let k := d.cmpK c
  if g.at k ≤ p1 then
    let d := d.fire c p1 (ofSigned 64 k % 2 ^ 32) 2 t (d.edgeWindow (d.cmpPos c) t acc)
    let k' := g.next p1
    let d := (d.setCmp c { d.cmpCh c with kLast := some k }).setCmpK c k'
    d.cmpSkip c (k' - (k + 1))
  else d

/-- A generator at a counted reverse edge (R267): with BIDIR 0 nothing fires and the re-arm is pending; with BIDIR 1 it
fires at the grid point it crosses downwards. -/
def Dev.periodicReverse (d : Dev) (c : Nat) (p0 p1 : Int) (t acc : Nat) : Dev :=
  if d.cmpBidir c then
    let g := d.cmpGrid c
    let k := g.next (p0 - 1) - 1
    let d := if p1 ≤ g.at k then
        let d := (d.fire c p1 (ofSigned 64 k % 2 ^ 32) (2 + 16) t (d.edgeWindow (d.cmpPos c) t acc)).setCmp c
          { d.cmpCh c with kLast := some k }
        d.cmpSkip c (k - g.next (p1 - 1))
      else d
    d.setCmpK c (g.next p1)
  else d.put (cmpWaitFwd c) 1

/-- An armed channel meets a counted edge, edge-locked, by its mode. -/
def Dev.edgeLocked (d : Dev) (c : Nat) (p0 p1 : Int) (fwd : Bool) (t acc : Nat) : Dev :=
  match d.cmpMode c with
  | 1 => d.singleEdge c p0 p1 t acc
  | 2 => if fwd then d.periodicForward c p0 p1 t acc else d.periodicReverse c p0 p1 t acc
  | _ => d

/-- Does the schedule of a channel stand against an edge accepted at `acc`: the acceptance follows T − 2 ns by 1 ns or
more; within 1 ns of it either wins (R262)? -/
def Dev.schedStands (d : Dev) (c acc : Nat) : Bool × Dev :=
  match (d.cmpCh c).sched with
  | none => (false, d)
  | some s =>
    if acc + 24 ≤ s.at_ then (false, d)
    else if s.at_ ≤ acc + 8 then (true, d)
    else ((d.drawNat).1 % 2 == 1, (d.drawNat).2)

/-- A channel on a counter at a counted edge (R262 to R267). `turned`: the edge differs from DIR. -/
def Dev.cmpEdge (d : Dev) (c : Nat) (p0 p1 : Int) (fwd turned : Bool) (t acc : Nat) : Dev :=
  if turned then (d.unschedule c).edgeLocked c p0 p1 fwd t acc
  else
    match d.schedStands c acc with
    | (true, d) => d
    | (false, d) => ((d.unschedule c).edgeLocked c p0 p1 fwd t acc).schedule c

/-- Channels armed on a counter. -/
def Dev.cmpsOn (d : Dev) (n : Nat) : List Nat :=
  (List.range 32).filter (fun c => d.bit (cmpArmed c) && d.cmpPos c == n && (d.cmpMode c == 1 || d.cmpMode c == 2))

/-! ### Position counters (R255 to R257) -/

/-- POS limits: SOFT_MIN and SOFT_MAX. -/
def Dev.softMin (d : Dev) (n : Nat) : Int := d.sreg64 (R.TDL_POSn_MIN_LO n)
def Dev.softMax (d : Dev) (n : Nat) : Int := d.sreg64 (R.TDL_POSn_MAX_LO n)

/-- OVER_CNT and AT_LIMIT: LIMIT is raised when it becomes non-zero; OVER_LOST when it saturates (R256). -/
def Dev.setOver (d : Dev) (n : Nat) (v : Int) : Dev :=
  let was := d.bit ⟨R.TDL_POSn_SPD_STATUS n, 3, 1⟩
  let lim : Int := 2 ^ 31 - 1
  let d := d.setReg (R.TDL_POSn_OVER n) (BitVec.ofNat 32 (ofSigned 32 (clampInt (-lim) lim v)))
  let d := if lim < v ∨ v < -lim then d.put ⟨R.TDL_POSn_SPD_STATUS n, 4, 1⟩ 1 else d
  let d := d.putBit ⟨R.TDL_POSn_SPD_STATUS n, 3, 1⟩ (decide (v ≠ 0))
  if v ≠ 0 ∧ was = false then (d.tdlEvent 4).raise 0x5 (48 + n) else d

/-- A step moves the position; with LIM_EN it stops at a limit and the remainder accrues in OVER_CNT (R256). -/
def Dev.posMove (d : Dev) (n : Nat) (delta : Int) : Dev :=
  let p := d.posOf n
  if d.bit ⟨R.TDL_POSn_CFG n, 5, 1⟩ then
    let v := p + toSigned 32 (d.reg (R.TDL_POSn_OVER n)).toNat + delta
    let p' := clampInt (d.softMin n) (d.softMax n) v
    (d.setSreg64 (R.TDL_POSn_POS_LO n) p').setOver n (v - p')
  else d.setSreg64 (R.TDL_POSn_POS_LO n) (p + delta)

/-- SPEED at an edge from the arrivals of the preceding edges, newest first (R259): the least n that spans at least 1 µs,
or the largest within the last 10 ms. -/
def speedFrom (spdEdges t : Nat) (es : List Nat) : Nat :=
  let es := es.take spdEdges
  let idx := (List.range es.length).map (fun i => (i + 1, t - es.getD i 0))
  let pick := match idx.find? (fun x => decide (8000 ≤ x.2)) with
    | some x => some x
    | none => (idx.filter (fun x => decide (x.2 ≤ 80000000))).getLast?
  match pick with
  | some (n, dt) => if dt = 0 then 2 ^ 32 - 1 else min (2 ^ 32 - 1) (n * 16 * 8000000000 / dt)
  | none => 0

/-- SPD_EDGES, 0 treated as 1 and at most 64. -/
def Dev.spdEdges (d : Dev) (n : Nat) : Nat := clampNat 1 64 (d.fld ⟨R.TDL_POSn_SPD_CFG n, 0, 7⟩)

/-- Speed and direction at a counted edge (R259 to R261): the first after standstill or in a new direction leaves no valid
speed; a change of direction raises DIRCHG. -/
def Dev.posSpeed (d : Dev) (n : Nat) (rev : Bool) (t : Nat) : Dev :=
  let st := R.TDL_POSn_SPD_STATUS n
  let c := d.posCnt n
  let turned := d.bit ⟨st, 0, 1⟩ != rev
  let fresh := turned || d.still n || c.edges.isEmpty
  let d := (d.putBit ⟨st, 0, 1⟩ rev).put ⟨st, 2, 1⟩ 0
  let d := if turned then
      ((d.tdlEvent 5).put ⟨R.TDL_DIRCHG_SRC, n, 1⟩ 1).raise 0x5 (32 + n)
    else d
  if fresh then
    ((d.setReg (R.TDL_POSn_SPEED n) 0).put ⟨st, 1, 1⟩ 0).setPosCnt n { edges := [t], last := some t }
  else
    let v := speedFrom (d.spdEdges n) t c.edges
    ((d.setReg (R.TDL_POSn_SPEED n) (BitVec.ofNat 32 v)).put ⟨st, 1, 1⟩ 1).setPosCnt n
      { edges := (t :: c.edges).take 65, last := some t }

/-- One counter takes a step of `units` count units from its source, at an edge with arrival `t` and acceptance `acc`:
position, speed and direction, then its compare channels (R255, R256, R259 to R262). An edge that ends with AT_LIMIT set cancels their
schedules: no compare fires while it is. -/
def Dev.posStep (d : Dev) (n : Nat) (units : Int) (t acc : Nat) : Dev :=
  let delta := if d.bit ⟨R.TDL_POSn_CFG n, 4, 1⟩ then -units else units
  let rev := decide (delta < 0)
  let turned := d.bit ⟨R.TDL_POSn_SPD_STATUS n, 0, 1⟩ != rev
  let p0 := d.posOf n
  let d := (d.posMove n delta).posSpeed n rev t
  let p1 := d.posOf n
  if d.bit ⟨R.TDL_POSn_SPD_STATUS n, 3, 1⟩ then (d.cmpsOn n).foldl (fun d c => d.unschedule c) d
  else (d.cmpsOn n).foldl (fun d c => d.cmpEdge c p0 p1 (!rev) turned t acc) d

/-- The counters a source drives (R255). -/
def Dev.drivenBy (d : Dev) (src : Nat) : List Nat :=
  (List.range 8).filter (fun n => d.bit ⟨R.TDL_POSn_CFG n, 0, 1⟩ && d.fld ⟨R.TDL_POSn_CFG n, 1, 3⟩ == src)

/-- SYNC_OUT passes on each step of the source of counter OUT_POS: 4 ns for +1, 12 ns for −1 (R274). -/
def Dev.syncStep (d : Dev) (src : Nat) (steps : Int) : Dev :=
  if d.bit ⟨R.TDL_SYNC_CFG, 0, 1⟩ && d.fld ⟨R.TDL_POSn_CFG (d.fld ⟨R.TDL_SYNC_CFG, 1, 3⟩), 1, 3⟩ == src then
    (List.range steps.natAbs).foldl (fun d _ => d.emit (.syncOut (if steps < 0 then 12 else 4))) d
  else d

/-- A source steps every counter it drives (R246, R255). -/
def Dev.sourceStep (d : Dev) (src : Nat) (steps : Int) (t acc : Nat) : Dev :=
  if steps = 0 then d else
    (d.drivenBy src).foldl (fun d n => d.posStep n (steps * 256) t acc) (d.syncStep src steps)

/-- A load sets the position to PRESET and clears OVER_CNT and OVER_LOST (R257); it cancels the schedules of its channels
(R262), its generators take their next target from the new position, and SYNC_OUT marks it (R274). -/
def Dev.posLoad (d : Dev) (n : Nat) (cause : Option Cause) : Dev :=
  let st := R.TDL_POSn_SPD_STATUS n
  let p := d.sreg64 (R.TDL_POSn_PRESET_LO n)
  let p := if d.bit ⟨R.TDL_POSn_CFG n, 5, 1⟩ then clampInt (d.softMin n) (d.softMax n) p else p
  let d := (d.setSreg64 (R.TDL_POSn_POS_LO n) p).setReg (R.TDL_POSn_OVER n) 0
  let d := (d.put ⟨st, 3, 1⟩ 0).put ⟨st, 4, 1⟩ 0
  let d := (d.cmpsOn n).foldl (fun d c => if d.cmpMode c = 2 then d.cmpRecompute c else d.unschedule c) d
  let d := if d.bit ⟨R.TDL_SYNC_CFG, 0, 1⟩ && d.fld ⟨R.TDL_SYNC_CFG, 1, 3⟩ == n then d.emit (.syncOut 20) else d
  d.raise 0x5 (60 + n) cause

/-! ### Encoder inputs (R246 to R249) -/

def encA (n : Nat) : Fld := ⟨R.TDL_ENCn_STATUS n, 0, 1⟩
def encB (n : Nat) : Fld := ⟨R.TDL_ENCn_STATUS n, 1, 1⟩
def encZ (n : Nat) : Fld := ⟨R.TDL_ENCn_STATUS n, 2, 1⟩

/-- The count of an edge by MODE (R246): `lineB` says which line changed to `level`, `other` is the other line's level;
+1 forward, −1 reverse, 0 for an edge the mode does not count. -/
def edgeCount (mode : Nat) (lineB level other : Bool) : Int :=
  let fwd : Int := 1
  let rev : Int := -1
  match mode with
  | 1 => if lineB then 0 else if level != other then fwd else rev
  | 2 => if lineB then 0 else if other then 0 else if level then fwd else rev
  | 3 => if lineB || !level then 0 else if other then rev else fwd
  | 4 => if !level then 0 else if lineB then rev else fwd
  | _ => if lineB then (if level == other then fwd else rev) else (if level != other then fwd else rev)

/-- MODE, 5 to 7 treated as 0. -/
def Dev.encMode (d : Dev) (n : Nat) : Nat :=
  if 5 ≤ d.fld ⟨R.TDL_ENCn_CFG n, 2, 3⟩ then 0 else d.fld ⟨R.TDL_ENCn_CFG n, 2, 3⟩

/-- A counted step of an encoder: RATE_CNT for one less than 20 ns after the last, the steps since Z, and the counters. -/
def Dev.encCounted (d : Dev) (n : Nat) (steps : Int) (t acc : Nat) : Dev :=
  let e := d.encIn n
  let close := match e.lastCounted with
    | some t0 => decide (t < t0 + 160)
    | none => false
  let d := if close then d.bump ⟨R.TDL_ENCn_ERR n, 16, 8⟩ else d
  let d := d.setEnc n { e with lastCounted := some t, sinceZ := e.sinceZ.map (· + steps) }
  d.sourceStep n steps t acc

/-- One edge of one line. -/
def Dev.encLine (d : Dev) (n : Nat) (lineB level : Bool) (t acc : Nat) : Dev :=
  let f := if lineB then encB n else encA n
  let other := d.bit (if lineB then encA n else encB n)
  if d.bit f = level then d
  else
    let d := d.putBit f level
    let c := edgeCount (d.encMode n) lineB level other
    let c := if d.bit ⟨R.TDL_ENCn_CFG n, 5, 1⟩ then -c else c
    if c = 0 then d else d.encCounted n c t acc

/-- ILL_T in units of 125 ps, 0 treated as 1 ns. -/
def Dev.illT (d : Dev) (n : Nat) : Nat := 8 * max 1 (d.fld ⟨R.TDL_ENCn_CFG n, 12, 4⟩)

/-- Two edges of A and B too close together: no step, the new levels taken, ILL_CNT and ILLEGAL (R247). -/
def Dev.illegalPair (d : Dev) (n : Nat) : Dev :=
  let d := ((d.putBit (encA n) (!d.bit (encA n))).putBit (encB n) (!d.bit (encB n))).bump ⟨R.TDL_ENCn_ERR n, 0, 8⟩
  (d.tdlEvent 1).raise 0x5 69

/-- The encoder is in use: Tideline and the encoder enabled, and the line not held by a wire fault (R248). -/
def Dev.encTakes (d : Dev) (n line : Nat) : Bool :=
  d.tdlEn && d.bit ⟨R.TDL_ENCn_CFG n, 0, 1⟩ && !(d.encIn n).faults.contains line

/-- An accepted edge, alone or with an edge of the other line (R246, R247): within 1 ns of ILL_T either outcome. -/
def Dev.encEdge (d : Dev) (n : Nat) (lineB level : Bool) (t acc : Nat) (pair : Option Nat) : Dev :=
  if d.encTakes n (if lineB then 1 else 0) then
    match pair with
    | none => d.encLine n lineB level t acc
    | some t2 =>
      let gap := if t ≤ t2 then t2 - t else t - t2
      let r := if gap + 8 ≤ d.illT n then (true, d) else if d.illT n + 8 ≤ gap then (false, d)
        else ((d.drawNat).1 % 2 == 1, (d.drawNat).2)
      let d := r.2
      if r.1 then d.illegalPair n
      else
        let lvl2 := !d.bit (if lineB then encA n else encB n)
        if t ≤ t2 then (d.encLine n lineB level t acc).encLine n (!lineB) lvl2 t2 acc
        else (d.encLine n (!lineB) lvl2 t2 acc).encLine n lineB level t acc
  else d

/-- A rising Z edge is qualified when the levels of A and B match Z_QUAL, or when qualification is off (R249). -/
def Dev.zQualified (d : Dev) (n : Nat) : Bool :=
  !d.bit ⟨R.TDL_ENCn_CFG n, 16, 1⟩ ||
    (d.bit ⟨R.TDL_ENCn_CFG n, 17, 1⟩ == d.bit (encA n) && d.bit ⟨R.TDL_ENCn_CFG n, 18, 1⟩ == d.bit (encB n))

/-- ZCHECK on a qualified Z edge (R249). -/
def Dev.zCheck (d : Dev) (n : Nat) : Dev :=
  let e := d.encIn n
  let z := (d.reg (R.TDL_ENCn_ZCHECK n)).toNat
  let bad := match e.sinceZ with
    | some k => z != 0 && k.natAbs != z
    | none => false
  let d := d.setEnc n { e with sinceZ := some 0 }
  if bad then (d.bump ⟨R.TDL_ENCn_ERR n, 8, 8⟩).tdlEvent 2 else d

/-- Z_MODE: latch, and load PRESET once or every time (R249). ZLAT of the lowest counter is shown in registers. -/
def Dev.zAct (d : Dev) (n : Nat) : Dev :=
  let mode := d.fld ⟨R.TDL_ENCn_CFG n, 6, 2⟩
  let cs := d.drivenBy n
  if mode = 0 then d
  else
    let d := cs.foldl (fun d c => { d with tdl := { d.tdl with zlat := tset (fun _ => 0) d.tdl.zlat c (d.posOf c) } }) d
    let d := match cs with
      | [] => d
      | c :: _ => d.setSreg64 (R.TDL_ENCn_ZLAT_LO n) (d.posOf c)
    if mode = 1 then d
    else
      let d := cs.foldl (fun d c => d.posLoad c none) d
      if mode = 2 then d.put ⟨R.TDL_ENCn_CFG n, 6, 2⟩ 1 else d

/-- The Z input changes (R249). -/
def Dev.zEdge (d : Dev) (n : Nat) (level : Bool) : Dev :=
  if d.encTakes n 2 && d.bit (encZ n) != level then
    let d := d.putBit (encZ n) level
    if level && d.zQualified n then ((d.zCheck n).zAct n).raise 0x5 (56 + n) else d
  else d

/-- A pair stays below 50 mV for 1 µs with LVDS reception (R248). -/
def Dev.wireFault (d : Dev) (n line : Nat) : Dev :=
  let e := d.encIn n
  if d.tdlEn && d.bit ⟨R.TDL_ENCn_CFG n, 0, 1⟩ && !d.bit ⟨R.TDL_ENCn_CFG n, 1, 1⟩ && !e.faults.contains line then
    let d := d.setEnc n { e with faults := line :: e.faults }
    (((d.put ⟨R.TDL_ENCn_STATUS n, 3, 1⟩ 1).bump ⟨R.TDL_ENCn_ERR n, 24, 8⟩).tdlEvent 0).raise 0x5 68
  else d

/-- A pair's fault clears; WIRE_FAULT clears with the last one (R248). -/
def Dev.wireClear (d : Dev) (n line : Nat) : Dev :=
  let e := d.encIn n
  if e.faults.contains line then
    let rest := e.faults.filter (· != line)
    (d.setEnc n { e with faults := rest }).putBit ⟨R.TDL_ENCn_STATUS n, 3, 1⟩ (!rest.isEmpty)
  else d

/-! ### Hall and SSI (R250 to R254) -/

/-- The place of a Hall state (U, V, W) in the list of R250; none for 000 and 111. -/
def hallIndex : Nat → Option Nat
  | 1 => some 0 | 3 => some 1 | 2 => some 2 | 6 => some 3 | 4 => some 4 | 5 => some 5 | _ => none

/-- A change of the Hall levels (R250). -/
def Dev.hall (d : Dev) (now t acc : Nat) : Dev :=
  let was := d.fld ⟨R.TDL_HALL_STATUS, 0, 3⟩
  if d.tdlEn && d.bit ⟨R.TDL_HALL_CFG, 0, 1⟩ && was != now then
    let d := d.put ⟨R.TDL_HALL_STATUS, 0, 3⟩ now
    let d := d.putBit ⟨R.TDL_HALL_STATUS, 3, 1⟩ (hallIndex now).isSome
    match hallIndex was, hallIndex now with
    | _, none => ((d.bump ⟨R.TDL_HALL_ERR, 0, 16⟩).tdlEvent 0).raise 0x5 68
    | none, some _ => d
    | some i, some j =>
      let s : Int := if d.bit ⟨R.TDL_HALL_CFG, 2, 1⟩ then -1 else 1
      if j = (i + 1) % 6 then d.sourceStep 4 s t acc
      else if i = (j + 1) % 6 then d.sourceStep 4 (-s) t acc
      else ((d.bump ⟨R.TDL_HALL_ERR, 16, 16⟩).tdlEvent 0).raise 0x5 68
  else d

/-- WORD_LEN: the field plus 1, the field lower than 7 treated as 7. -/
def Dev.ssiLen (d : Dev) (n : Nat) : Nat := max 7 (d.fld ⟨R.TDL_SSIn_CFG n, 1, 6⟩) + 1

/-- The clocks of one frame (R251): start bit, data, error bit, check. -/
def Dev.ssiClocks (d : Dev) (n : Nat) : Nat :=
  1 + d.ssiLen n + (if d.bit ⟨R.TDL_SSIn_CFG n, 9, 1⟩ then 1 else 0) + (if d.bit ⟨R.TDL_SSIn_CFG n, 11, 1⟩ then 6 else 0)

/-- CLK_SEL in kHz, 5 to 7 treated as 4. -/
def Dev.ssiKhz (d : Dev) (n : Nat) : Nat :=
  match d.fld ⟨R.TDL_SSIn_CFG n, 12, 3⟩ with
  | 0 => 10000
  | 1 => 5000
  | 2 => 2000
  | 3 => 1000
  | _ => 500

/-- The port drives the clocks of a frame. -/
def Dev.ssiFrame (d : Dev) (n : Nat) : Dev := d.emit (.ssiClocks n (d.ssiClocks n) (d.ssiKhz n))

def Dev.ssiOn (d : Dev) (n : Nat) : Bool := d.tdlEn && d.bit ⟨R.TDL_SSIn_CFG n, 0, 1⟩

/-- A word that races its timeout in time is checked, and used when every check passes (R252 to R254). The frame of a port that had to wait for
SSIn_DAT began once it was high, and its word counts in NO_IDLE (DEDUCED, assumption 123). -/
def Dev.ssiWord (d : Dev) (n word errBit check acc : Nat) : Dev :=
  let p := d.ssiPort n
  match p.reading with
  | none => d
  | some t =>
    let d := d.setSsi n { p with reading := none }
    let d := if p.idle then d else d.ssiFrame n
    let len := d.ssiLen n
    let word := word % 2 ^ len
    let errOn := d.bit ⟨R.TDL_SSIn_CFG n, 9, 1⟩
    let bits := bitsMsb len word ++ (if errOn then [errBit == 1] else [])
    let badCrc := d.bit ⟨R.TDL_SSIn_CFG n, 11, 1⟩ && crc6 bits != check % 64
    let badErr := errOn && ((errBit == 1) == d.bit ⟨R.TDL_SSIn_CFG n, 10, 1⟩)
    let d := if badCrc then d.bump ⟨R.TDL_SSIn_ERR n, 0, 8⟩ else d
    let d := if badErr then d.bump ⟨R.TDL_SSIn_ERR n, 8, 8⟩ else d
    let d := if !p.idle then d.bump ⟨R.TDL_SSIn_ERR n, 24, 8⟩ else d
    if badCrc || badErr || !p.idle then (d.tdlEvent 3).raise 0x5 70
    else
      let v := if d.bit ⟨R.TDL_SSIn_CFG n, 7, 1⟩ then grayDecode len word else word
      let shown := if d.bit ⟨R.TDL_SSIn_CFG n, 8, 1⟩ then ofSigned 64 (toSigned len v) else v
      let d := (d.setReg64 (R.TDL_SSIn_WORD_LO n) shown).setSsi n { d.ssiPort n with last := some v }
      match p.last with
      | none => d
      | some l => d.sourceStep (5 + n) (toSigned len ((v + 2 ^ len - l) % 2 ^ len)) t acc

/-! ### Arming (R264, R265, R268, R281) -/

/-- TIME_START as held: the low 40 bits of a TB2 time (R268). -/
def Dev.cmpStart (d : Dev) (c : Nat) : Nat :=
  (d.reg (R.TDL_CMPn_START_LO c)).toNat + d.fld ⟨R.TDL_CMPn_START_HI c, 0, 8⟩ * 2 ^ 32

/-- Refuse a start: TOO_FAR, unarmed. -/
def Dev.cmpTooFarSet (d : Dev) (c : Nat) : Dev := (d.put (cmpTooFar c) 1).tdlEvent 11

/-- Arm timed mode from a signed distance of its start from TB2 now (R268): PERIOD 0 arms nothing; a start in the past
fires first at the earliest multiple strictly ahead. -/
def Dev.armTimed (d : Dev) (c : Nat) (diff : Int) : Dev :=
  let period := (d.reg (R.TDL_CMPn_PERIOD c)).toNat
  let d := ((d.setCmp c { d.cmpCh c with next := none }).put (cmpArmed c) 0).put (cmpArm c) 0
  if 2 ^ 39 ≤ diff then d.cmpTooFarSet c
  else if period = 0 then d
  else
    let now : Int := (d.now2 : Int)
    let first := if 0 < diff then now + diff else now + diff + ((-diff) / (period : Int) + 1) * (period : Int)
    (((d.setCmp c { d.cmpCh c with next := some first.toNat }).put (cmpArmed c) 1).put (cmpArm c) 1).put (cmpTooFar c) 0

/-- The signed 40-bit difference of the held start from TB2 now (R301). -/
def Dev.startDiff (d : Dev) (c : Nat) : Int := toSigned 40 (ofSigned 40 ((d.cmpStart c : Int) - (d.now2 : Int)))

/-- A generator takes its next index as its settings, its mode or its arming change (R265). -/
def Dev.regrid (d : Dev) (c : Nat) : Dev := if d.cmpMode c = 2 then d.cmpRecompute c else d

/-- An armed channel's status by its mode (R264, R268). -/
def Dev.armedNow (d : Dev) (c : Nat) : Dev :=
  match d.cmpMode c with
  | 1 => (d.put (cmpArmed c) 1).put (cmpFired c) 0
  | 2 => d.put (cmpArmed c) 1
  | 3 => d.armTimed c (d.startDiff c)
  | _ => d

/-- ARM goes from 0 to 1: the channel is armed afresh by its mode (R264, R265, R268). -/
def Dev.armChannel (d : Dev) (c : Nat) : Dev := ((d.armedNow c).regrid c).schedule c

/-- Disarm a channel. -/
def Dev.disarmChannel (d : Dev) (c : Nat) : Dev :=
  ((d.put (cmpArm c) 0).put (cmpArmed c) 0).setCmp c { d.cmpCh c with sched := none, next := none }

/-- A write of ARM (R281): the channel arms on 0 to 1, and disarms on 1 to 0. -/
def Dev.writeArm (d : Dev) (c : Nat) (arm : Bool) : Dev :=
  if arm then (if d.bit (cmpArm c) then d else (d.put (cmpArm c) 1).armChannel c)
  else (if d.bit (cmpArm c) then d.disarmChannel c else d)

/-- A change of MODE: periodic recomputes its index, single waits for its target, timed waits for its START_LO write or a fresh ARM (R265,
R268). -/
def Dev.modeChanged (d : Dev) (c old : Nat) : Dev :=
  if d.cmpMode c = old then d
  else
    let d := d.setCmp c { d.cmpCh c with sched := none, next := none }
    let d := if d.bit (cmpArm c) then d.putBit (cmpArmed c) (d.cmpMode c == 1 || d.cmpMode c == 2) else d
    d.regrid c

/-- One write to TDL_CMPn_CFG with its ARM bit: the index of a generator is recomputed once for what the write changes (R265). -/
def Dev.cfgWritten (d : Dev) (c old : Nat) (arm : Bool) : Dev :=
  if arm && !d.bit (cmpArm c) && d.cmpMode c == 2 then
    (((d.setCmp c { d.cmpCh c with sched := none, next := none }).put (cmpArm c) 1).armChannel c)
  else (d.modeChanged c old).writeArm c arm

/-- BEHIND of a single channel whose position already lies at or beyond a target that takes effect, in its direction (R264). -/
def Dev.behindNow (d : Dev) (c : Nat) : Dev :=
  if d.cmpMode c = 1 then
    let p := d.posOf (d.cmpPos c)
    let behind := match d.cmpDir c with
      | 0 => decide (d.cmpTgt c ≤ p)
      | 1 => decide (p ≤ d.cmpTgt c)
      | _ => decide (p = d.cmpTgt c)
    let d := d.putBit (cmpBehind c) behind
    if behind then d.tdlEvent 8 else d
  else d

/-- The target, pitch and remainder written come into force. -/
def Dev.targetInForce (d : Dev) (c : Nat) : Dev :=
  (d.applyRegs [R.TDL_CMPn_TGT_LO c, R.TDL_CMPn_TGT_HI c, R.TDL_CMPn_PITCH c, R.TDL_CMPn_PITCH_REM c]).unschedule c

/-- A target takes effect: BEHIND of a single channel, a periodic channel's next index (R264, R265). -/
def Dev.targetApplied (d : Dev) (c : Nat) : Dev := (((d.targetInForce c).behindNow c).regrid c).schedule c

/-- The _HI word held for a _LO write takes effect with it (R7). -/
def Dev.takeHeldHi (d : Dev) (hi mask : Nat) : Dev :=
  match tget noneAt d.heldHi hi with
  | none => d
  | some w => ({ d with heldHi := tset noneAt d.heldHi hi none }).setReg hi (w &&& BitVec.ofNat 32 mask)

/-- A host write may put a compare channel to no use other than its claim (R424). -/
def Dev.cmpDenied (d : Dev) (c mode : Nat) : Bool := !d.cmpModeOk c mode

/-! ### Meanings -/

/-- A write of 1 to LOAD (R257). -/
def execLoad (n : Nat) (s : State) : Res := onDev (fun d => d.posLoad (n % 8) none) s

/-- A write to TDL_CMPn_TGT_LO applies the held target or origin, pitch and remainder (R7, R265, R269). -/
def execTgtLo (n : Nat) (v : Word) (s : State) : Res :=
  onDev (fun d => ((d.takeHeldHi (R.TDL_CMPn_TGT_HI (n % 32)) 0xFFFFFFFF).setReg (R.TDL_CMPn_TGT_LO (n % 32)) v).targetApplied
    (n % 32)) s

/-- A write to TDL_CMPn_START_LO applies the held START_HI and arms timed mode (R268). -/
def execStartLo (n : Nat) (v : Word) (s : State) : Res :=
  onDev (fun d =>
    let c := n % 32
    let d := (d.takeHeldHi (R.TDL_CMPn_START_HI c) 0xFF).setReg (R.TDL_CMPn_START_LO c) v
    if d.cmpMode c = 3 then d.armTimed c (d.startDiff c) else d) s

/-- A host write to TDL_CMPn_CFG with its ARM bit (R265, R281, R424). -/
def execArm (n : Nat) (v : Word) (s : State) : Res :=
  onDev (fun d =>
    let c := n % 32
    if d.cmpDenied c (getBits v 0 2) then d.denied
    else
      let old := d.cmpMode c
      let d := (d.put ⟨R.TDL_CMPn_CFG c, 0, 9⟩ (getBits v 0 9)).put ⟨R.TDL_CMPn_CFG c, 10, 1⟩ (getBits v 10 1)
      d.cfgWritten c old (getBits v 9 1 == 1)) s

/-- TDL_INFO returns a counter's registers and TDL_STATUS (R277). -/
def execTdlInfo (tag : Word) (args : List Word) (s : State) : Res :=
  onDev (fun d => d.mailbox 0x0701 false (args.length == 1) tag args (fun d =>
    let n := (args.getD 0 0).toNat
    if 8 ≤ n then .fail stBadArg else .ok d (d.regsBytes (addrs (R.TDL_POSn_CFG n) 14 ++ [R.TDL_STATUS])))) s

/-- TDL_POS_LOAD writes PRESET and loads it (R257, R277). -/
def execTdlPosLoad (tag : Word) (args : List Word) (s : State) : Res :=
  onDev (fun d => d.mailbox 0x0702 false (args.length == 3) tag args (fun d =>
    let n := (args.getD 0 0).toNat
    if 8 ≤ n then .fail stBadArg
    else .ok (((d.setReg (R.TDL_POSn_PRESET_LO n) (args.getD 1 0)).setReg (R.TDL_POSn_PRESET_HI n)
      (args.getD 2 0)).posLoad n none) [])) s

/-- TDL_CMP_SET writes every field of a channel and applies them in one step (R269, R277). -/
def execTdlCmpSet (tag : Word) (args : List Word) (s : State) : Res :=
  onDev (fun d => d.mailbox 0x0703 false (args.length == 6) tag args (fun d =>
    let c := (args.getD 0 0).toNat
    let cfg := args.getD 1 0
    let mode := getBits cfg 0 2
    let diff := toSigned 64 (word64 (args.getD 2 0) (args.getD 3 0)) - (d.now2 : Int)
    if 32 ≤ c ∨ 2048 ≤ cfg.toNat then .fail stBadArg
    else if d.cmpDenied c mode then .fail stConflict
    else if mode = 3 ∧ inWindow diff = false then .failWith stTooFar (d.cmpTooFarSet c) []
    else
      let d := (d.disarmChannel c).setReg (R.TDL_CMPn_CFG c) (cfg &&& 0x5FF)
      let d := (d.setReg (R.TDL_CMPn_PITCH c) (args.getD 4 0 &&& 0xFFFFFF)).setReg (R.TDL_CMPn_PITCH_REM c) (args.getD 5 0)
      let arm := getBits cfg 9 1 == 1
      let d :=
        if mode = 3 then
          (d.setReg (R.TDL_CMPn_START_LO c) (args.getD 2 0)).setReg (R.TDL_CMPn_START_HI c) (args.getD 3 0 &&& 0xFF)
        else
          (((d.setReg (R.TDL_CMPn_TGT_LO c) (args.getD 2 0)).setReg (R.TDL_CMPn_TGT_HI c) (args.getD 3 0)).targetInForce c).behindNow c
      let d := if arm then (d.put (cmpArm c) 1).armedNow c else d
      .ok ((d.regrid c).schedule c) [])) s

/-- Is the history entry of a count kept: it has been issued, and 65,535 or fewer pulses after it, counted modulo 2^32 (R273)? -/
def Dev.histKept (d : Dev) (n c : Nat) : Bool :=
  let age := ((d.reg (R.TDL_TRIGn_COUNT n)).toNat + 2 ^ 32 - c % 2 ^ 32) % 2 ^ 32
  decide (age < (tget (fun _ => []) d.tdl.trigAt n).length)

/-- Read history entries one after another: none once one is not kept or unreadable. -/
def Dev.histEntries (d : Dev) (n : Nat) : List Nat → Option (List Byte) × Dev
  | [] => (some [], d)
  | c :: cs =>
    if d.histKept n c then
      match d.memRead 0x0B (d.histAddr n c) 32 with
      | (_, true, d) => (none, d)
      | (bs, false, d) =>
        match d.histEntries n cs with
        | (some rest, d) => (some (bs ++ rest), d)
        | r => r
    else (none, d)

/-- TDL_HIST_READ returns trigger history entries (R273, R277). -/
def execTdlHistRead (tag : Word) (args : List Word) (s : State) : Res :=
  onDev (fun d => d.mailbox 0x0704 false (args.length == 3) tag args (fun d => d.readsDram fun d =>
    let n := (args.getD 0 0).toNat
    let first := (args.getD 1 0).toNat
    let num := (args.getD 2 0).toNat
    if 16 ≤ n ∨ num = 0 ∨ 256 < num then .fail stBadArg
    else
      match d.histEntries n ((List.range num).map (fun i => (first + i) % 2 ^ 32)) with
      | (some bs, d) => .ok d bs
      | (none, d) => .failWith stNotFound d [])) s

/-- An accepted encoder edge (R244 to R247). -/
def execEncoderEdge (n : Nat) (lineB level : Bool) (t acc : Nat) (pair : Option Nat) (s : State) : Res :=
  onDev (fun d => d.encEdge (n % 4) lineB level t acc pair) s

/-- A wire fault (R248). -/
def execWireFault (n line : Nat) (s : State) : Res := onDev (fun d => d.wireFault (n % 4) line) s

/-- A wire fault clears (R248). -/
def execWireFaultClear (n line : Nat) (s : State) : Res := onDev (fun d => d.wireClear (n % 4) line) s

/-- The Z input changes (R249). -/
def execZEdge (n : Nat) (level : Bool) (t : Nat) (s : State) : Res :=
  onDev (fun d => let _ := t; d.zEdge (n % 4) level) s

/-- The Hall levels change (R250). -/
def execHallTransition (u v w : Bool) (t acc : Nat) (s : State) : Res :=
  onDev (fun d => d.hall ((if u then 4 else 0) + (if v then 2 else 0) + (if w then 1 else 0)) t acc) s

/-- SSI_PERIOD passes: the port clocks one frame out; while SSIn_DAT is low it waits (R251). -/
def execSsiPeriod (n : Nat) (idle : Bool) (t : Nat) (s : State) : Res :=
  onDev (fun d =>
    let n := n % 2
    if d.ssiOn n then
      let d := match (d.ssiPort n).began with
        | none => d
        | some b => d.expire b (1000 * max 1 (d.fld ⟨R.TDL_SSIn_TIMING n, 0, 16⟩))
      (if idle then d.ssiFrame n else d).setSsi n { d.ssiPort n with reading := some t, idle := idle, began := some d.now2 }
    else d) s

/-- A received SSI word (R252 to R254). -/
def execSsiWord (n word errBit check acc : Nat) (s : State) : Res := onDev (fun d => d.ssiWord (n % 2) word errBit check acc) s

/-- SSI_TO wins: the word is dropped and counts in LATE (R253). -/
def execSsiTo (n : Nat) (s : State) : Res :=
  onDev (fun d =>
    let n := n % 2
    let p := d.ssiPort n
    if p.reading.isSome then
      let d := d.expire (p.began.getD 0) (1000 * d.fld ⟨R.TDL_SSIn_TIMING n, 16, 16⟩)
      (d.setSsi n { p with reading := none }).bump ⟨R.TDL_SSIn_ERR n, 16, 8⟩
    else d) s

/-- The POSn_LOAD task (R257). -/
def execPosnLoad (n : Nat) (s : State) : Res :=
  onDev (fun d => d.task 0x2 (n % 8) (fun a d => d.posLoad (n % 8) (some a.cause))) s

/-- STANDSTILL_T in nanoseconds: 0 is treated as 1 ms. -/
def Dev.standstillT (d : Dev) (n : Nat) : Nat := 1000000 * max 1 (d.fld ⟨R.TDL_POSn_SPD_CFG n, 16, 16⟩)

/-- STANDSTILL_T passes since the last edge: STILL, SPEED 0, SPD_VALID 0, and the schedules are cancelled (R260, R262). -/
def execStandstill (n : Nat) (s : State) : Res :=
  onDev (fun d =>
    let n := n % 8
    let st := R.TDL_POSn_SPD_STATUS n
    if d.still n then d
    else
      let d := d.expire (((d.posCnt n).last.getD 0 + 7) / 8) (d.standstillT n)
      let d := ((d.put ⟨st, 2, 1⟩ 1).put ⟨st, 1, 1⟩ 0).setReg (R.TDL_POSn_SPEED n) 0
      let d := d.setPosCnt n { d.posCnt n with edges := [] }
      let d := (d.cmpsOn n).foldl (fun d c => d.unschedule c) d
      (d.tdlEvent 6).raise 0x5 (40 + n)) s

/-- A scheduled interpolated firing at its instant, its output edge within 4 ns of that (R262, R263, R266); none while AT_LIMIT is set (R256). The
stamp is the target; the next target of the interval is scheduled, and
grid points already passed are skipped. -/
def execInterpolatedFire (n : Nat) (s : State) : Res :=
  onDev (fun d =>
    let c := n % 32
    match (d.cmpCh c).sched with
    | none => d
    | some x =>
      let d := (d.expire ((x.at_ + 7) / 8) 0).unschedule c
      let win := (x.at_ - 32, x.at_ + 32)
      if d.bit ⟨R.TDL_POSn_SPD_STATUS (d.cmpPos c), 3, 1⟩ then d
      else if d.cmpMode c = 1 then ((d.put (cmpBehind c) 0).fire c x.target 0 (1 + 8) x.at_ win).singleDone c
      else
        let d := (d.put (cmpWaitFwd c) 0).fire c x.target (ofSigned 64 x.k % 2 ^ 32) 1 x.at_ win
        let d := d.setCmp c { d.cmpCh c with kLast := some x.k }
        let p := d.posOf (d.cmpPos c)
        let k := if (d.cmpGrid c).at (x.k + 1) ≤ p then (d.cmpGrid c).next p else x.k + 1
        ((d.setCmpK c k).cmpSkip c (k - (x.k + 1))).schedule c) s

/-- The stamp of a timed firing: p_e + SPEED × (t − t_e), less than one count beyond p_e, while the speed is valid (R268). -/
def Dev.timedStamp (d : Dev) (n t : Nat) : Int :=
  let p := d.posOf n
  match (d.posCnt n).last with
  | some te => if d.spdValid n then p + min 255 (((d.reg (R.TDL_POSn_SPEED n)).toNat * 16 * (t - te) / 8000000000 : Nat) : Int) else p
  | none => p

/-- A timed firing, once TB2 has reached its instant (R268, R301): the next follows TIME_PERIOD later. -/
def execTimedFire (n : Nat) (s : State) : Res :=
  onDev (fun d =>
    let c := n % 32
    match (d.cmpCh c).next with
    | none => d
    | some t =>
      if d.bit (cmpArmed c) && d.cmpMode c == 3 then
        let d := d.expire t 0
        let d := d.fire c (d.timedStamp (d.cmpPos c) (8 * t)) 0 4 (8 * t) (8 * t, 8 * t)
        d.setCmp c { d.cmpCh c with next := some (t + (d.reg (R.TDL_CMPn_PERIOD c)).toNat) }
      else d) s

/-- The set-ARM task acts as a write of ARM = 1 (R281). -/
def execSetArm (n : Nat) (s : State) : Res :=
  onDev (fun d => d.task 0x2 (8 + n % 32) (fun _ d => d.writeArm (n % 32) true)) s

/-- The clear-ARM task disarms the channel (R281). -/
def execClearArm (n : Nat) (s : State) : Res :=
  onDev (fun d => d.task 0x2 (40 + n % 32) (fun _ d => d.writeArm (n % 32) false)) s

/-- A SYNC_IN pulse: a step, a mark or an error (R275). -/
def execSyncInPulse (width t acc : Nat) (s : State) : Res :=
  onDev (fun d =>
    if d.tdlEn && d.bit ⟨R.TDL_SYNC_CFG, 4, 1⟩ then
      let t := t - 8 * d.fld ⟨R.TDL_SYNC_CFG, 8, 8⟩
      if width < 64 then d.sourceStep 7 1 t acc
      else if width < 128 then d.sourceStep 7 (-1) t acc
      else if width ≤ 224 then
        let d := d.put ⟨R.TDL_STATUS, 2, 1⟩ 1
        if d.bit ⟨R.TDL_SYNC_CFG, 5, 1⟩ then (d.drivenBy 7).foldl (fun d n => d.posLoad n none) d else d
      else (((d.bump ⟨R.TDL_SYNC_ERR, 0, 16⟩).tdlEvent 10).raise 0x5 71).put ⟨R.TDL_STATUS, 2, 1⟩ 0
    else d) s

end Sys2Proof.Machine
end

