-- ==== Sys2Proof/Machine/Intake.lean ====
section
/-! DEFINITION. The intake of lines: contexts and their rings, pixel packing, the trigger history as line matching reads it,
entries, placeholders, drops, and the matching of a line start to its trigger (R75, R79, R101 to R111). -/

namespace Sys2Proof.Machine

/-! ### Pixels (Table 4-2) -/

/-- Bits per pixel of a format. -/
def bitsPerPixel : Nat → Nat
  | 0 => 8 | 1 => 10 | 2 => 12 | _ => 16

/-- Bytes of a whole group of a format (Table 4-2). -/
def groupBytes : Nat → Nat
  | 0 => 1 | 1 => 5 | 2 => 3 | _ => 2

/-- FILL in the format's units: bits above the format's width are ignored (Table 5-7). -/
def Dev.ctxFill (d : Dev) (c : Nat) : Nat := d.fld ⟨R.CTX_WIDTH c, 16, 16⟩ % 2 ^ bitsPerPixel (d.ctxFormat c)

/-- Pixels as a little-endian bit string of `w` bits each (R75). -/
def packPixels (w : Nat) (vs : List Nat) : List Byte :=
  leBytes ((vs.length * w + 7) / 8) (vs.foldr (fun v acc => v + 2 ^ w * acc) 0)

/-- The first `n` pixels of a little-endian bit string (R75). -/
def unpackPixels (w n : Nat) (bs : List Byte) : List Nat :=
  let v := leNat bs
  (List.range n).map (fun i => v / 2 ^ (w * i) % 2 ^ w)

/-! ### Events (Table 5-7, Table 13-1) -/

/-- A CTX_EVENT bit sets (vector 38). -/
def Dev.ctxEvent (d : Dev) (c bit : Nat) : Dev := d.sticky ⟨R.CTX_EVENT c, bit, 1⟩ 38 true

def Dev.ctxOverrun (d : Dev) (c : Nat) : Dev := (d.ctxEvent c 0).raise 0x2 (8 * c)
def Dev.ctxOrphan (d : Dev) (c : Nat) : Dev := (d.ctxEvent c 1).raise 0x2 (8 * c + 1)
def Dev.ctxMissed (d : Dev) (c : Nat) : Dev :=
  ((d.bump ⟨R.CTX_MISSED_CNT c, 0, 32⟩).ctxEvent c 2).raise 0x2 (8 * c + 2)

def ctxInit (_ : Nat) : CtxRx := {}
def Dev.ctxRx (d : Dev) (c : Nat) : CtxRx := tget ctxInit d.str.ctxs c
def Dev.setCtxRx (d : Dev) (c : Nat) (x : CtxRx) : Dev := { d with str := { d.str with ctxs := tset ctxInit d.str.ctxs c x } }

/-! ### The state of a context in its strand -/

def strInit (_ : Nat) : CtxStr := {}
def Dev.ctxStr (d : Dev) (c : Nat) : CtxStr := tget strInit d.str.strs c
def Dev.setCtxStr (d : Dev) (c : Nat) (x : CtxStr) : Dev := { d with str := { d.str with strs := tset strInit d.str.strs c x } }

def acqPending (c : Nat) : Fld := ⟨R.BL_STATUS c, 3, 1⟩

/-- An acquire is requested (R138). -/
def Dev.acquire (d : Dev) (c : Nat) (cause : Option Cause) : Dev :=
  let x := d.ctxStr c
  (d.put (acqPending c) 1).setCtxStr c { x with acqCause := match x.acqCause with
    | none => cause
    | some a => some a }

/-! ### The trigger history (R108, R147, R273) -/

/-- A 12-byte stamp as a linear count of 2^-16 ns (R296). -/
def stampAt (bs : List Byte) (i : Nat) : Int :=
  (((fieldAt bs i 6 * 1000000000 + fieldAt bs (i + 6) 4) * 65536 + fieldAt bs (i + 10) 2 : Nat) : Int)

/-- A linear count of 2^-16 ns as a stamp. -/
def stampOfLinear (v : Int) : Stamp := (TimeBase.ofTotal (v * 65536)).stamp

/-- The history entry of a count, when it is kept and readable: position and TB0 time. On dual-stack variants an unreadable
entry is not in the history (R273); on single-stack ones the read freezes the device (R4). -/
def Dev.history (d : Dev) (req out count : Nat) : Option (Int × Int) × Dev :=
  if ((d.reg (R.TDL_TRIGn_COUNT out)).toNat + 2 ^ 32 - count) % 2 ^ 32 < 65536 then
    let (bs, err, d) := d.memRead req (d.histAddr out count) 32
    if !err && fieldAt bs 0 4 == count && fieldAt bs 4 2 % 8 != 0 then
      (some (toSigned 64 (fieldAt bs 8 8), stampAt bs 16), d)
    else (none, d)
  else (none, d)

/-- The nearest kept entry at or below (`up` false) or above a count, within the kept entries. -/
def Dev.historyNear (d : Dev) (req out : Nat) (up : Bool) : Nat → Nat → Option (Nat × Int × Int) × Dev
  | _, 0 => (none, d)
  | c, n + 1 =>
    match d.history req out c with
    | (some x, d) => (some (c, x), d)
    | (none, d) => d.historyNear req out up (if up then (c + 1) % 2 ^ 32 else (c + 2 ^ 32 - 1) % 2 ^ 32) n

/-- Linear between two points, rounded down. -/
def linear (c0 c1 c : Nat) (v0 v1 : Int) : Int :=
  v0 + (v1 - v0) * (((c + 2 ^ 32 - c0) % 2 ^ 32 : Nat) : Int) / (((c1 + 2 ^ 32 - c0) % 2 ^ 32 : Nat) : Int)

/-- stamp_of (R147): position and TB0 time of a count, from its entry if kept, else each linear between the neighbouring
entries kept, rounded down. Without an entry on both sides the spec states no value: they are free (assumption 2). -/
def Dev.stampOf (d : Dev) (req out count : Nat) : (Int × Int) × Dev :=
  match d.history req out count with
  | (some x, d) => (x, d)
  | (none, d) =>
    match d.historyNear req out false ((count + 2 ^ 32 - 1) % 2 ^ 32) 65536 with
    | (lo, d) => match d.historyNear req out true ((count + 1) % 2 ^ 32) 65536 with
      | (hi, d) => match lo, hi with
        | some (c0, p0, t0), some (c1, p1, t1) => ((linear c0 c1 count p0 p1, linear c0 c1 count t0 t1), d)
        | _, _ =>
          let (a, d) := d.drawNat
          let (b, d) := d.drawNat
          ((toSigned 64 a, (b : Int)), d)

/-! ### Ring entries (R105 to R107) -/

/-- CTX_RING_FILL and CTX_RING_PEAK follow the entries; the fill that stood until now counts for the peak too. -/
def Dev.ringFill (d : Dev) (c : Nat) : Dev :=
  let n := (d.ctxRx c).entries.length
  (d.put ⟨R.CTX_RING_FILL c, 0, 24⟩ n).keepMax ⟨R.CTX_RING_PEAK c, 0, 24⟩ (max n (d.fld ⟨R.CTX_RING_FILL c, 0, 24⟩))

/-- The address of a slot. -/
def Dev.slotAddr (d : Dev) (c slot : Nat) : Nat := d.ringBase c + slot * d.ringStride c

/-- The slot header (Table 5-2). -/
def slotHeader (e : RingEntry) (num exposure flags pixEnd closeT : Nat) : List Byte :=
  leBytes 4 e.count ++ leBytes 4 num ++ leBytes 4 exposure ++
  leBytes 2 (flags + (if e.drops = 0 then 0 else 128)) ++ leBytes 2 (min e.drops 0xFFFF) ++
  leBytes 8 (ofSigned 64 e.pos) ++ e.time.bytes ++ leBytes 4 pixEnd ++ leBytes 8 closeT ++ leBytes 16 0

/-- Reserve the next slot for an entry; none when that slot is not free: the entry is dropped (R107). -/
def Dev.ringReserve (d : Dev) (c count : Nat) (pos time : Int) : Option RingEntry × Dev :=
  let x := d.ctxRx c
  if x.head < d.ringLines c ∧ x.entries.all (fun e => e.slot != x.head) = true then
    let e : RingEntry := { slot := x.head, count := count, pos := pos, time := stampOfLinear time, drops := x.dropped,
                           fresh := x.fresh }
    (some e, (d.setCtxRx c { x with entries := x.entries ++ [e], head := (x.head + 1) % d.ringLines c,
                                    dropped := 0, fresh := false }).ringFill c)
  else (none, (d.setCtxRx c { x with dropped := x.dropped + 1 }).ctxOverrun c)

/-- Entries as stripes: those in the same block of STRIPE_LEN slots, in slot order (R112). -/
def stripeSplit (len : Nat) (es : List RingEntry) : List (List RingEntry) :=
  es.foldr (fun e acc => match acc with
    | (f :: fs) :: rest =>
      if e.slot / len = f.slot / len ∧ e.slot < f.slot then (e :: f :: fs) :: rest else [e] :: (f :: fs) :: rest
    | _ => [[e]]) []

/-- The completion point of a stripe, when it reaches its block's end and every entry is complete: the latest CLOSE_T. -/
def stripeDone (len : Nat) (es : List RingEntry) : Option Nat :=
  match es.getLast? with
  | none => none
  | some l =>
    if (l.slot + 1) % len = 0 ∧ es.all (fun e => e.closeT.isSome) then some (es.foldl (fun m e => max m (e.closeT.getD 0)) 0)
    else none

/-- Entries of one stripe cut at the flushes that ended in it: the partial stripes, and what remains (R114). -/
def cutFlushes : List (Nat × Nat) → List RingEntry → List (Nat × Nat) × List RingEntry
  | [], es => ([], es)
  | (t, slot) :: fs, es =>
    if es.any (fun e => e.slot == slot) then
      let n := (es.takeWhile (fun e => e.slot != slot)).length + 1
      let r := cutFlushes fs (es.drop n)
      ((n, t) :: r.1, r.2)
    else cutFlushes fs es

/-- The partial stripes of a block that flushes cut off: each has `n` entries, from the `skip`th entry of the ring on. -/
def partStripes (c : Nat) : Nat → List (Nat × Nat) → List StripeNow
  | _, [] => []
  | skip, (n, t) :: ps => { ctx := c, n := n, skip := skip, doneAt := t, isPart := true } :: partStripes c (skip + n) ps

/-- The stripes that are complete, from a context's blocks of entries, in order: each block's partial stripes and, when the rest of it
is complete, its end (R112, R114); `skip` entries stand before. -/
def stripesWaiting (c len : Nat) (fs : List (Nat × Nat)) : Nat → List (List RingEntry) → List StripeNow
  | _, [] => []
  | skip, es :: rest =>
    let r := cutFlushes fs es
    let last := match stripeDone len r.2 with
      | some t => [{ ctx := c, n := r.2.length, skip := skip + (es.length - r.2.length), doneAt := t }]
      | none => []
    partStripes c skip r.1 ++ last ++ stripesWaiting c len fs (skip + es.length) rest

/-- The rest of the oldest incomplete stripe of a context's blocks. -/
def stripeOpen (len : Nat) (fs : List (Nat × Nat)) : List (List RingEntry) → List RingEntry
  | [] => []
  | es :: rest =>
    let r := (cutFlushes fs es).2
    if r ≠ [] ∧ stripeDone len r = none then r else stripeOpen len fs rest

/-- A context's entries as blocks. -/
def Dev.ctxBlocks (d : Dev) (c : Nat) : List (List RingEntry) := stripeSplit (d.ctxStripeLen c) (d.ctxRx c).entries

/-- Is a stripe the one that its strand is processing? -/
def Dev.ctxTakes (d : Dev) (w : StripeNow) : Bool :=
  match tget noneAt d.str.now (w.ctx / 8) with
  | none => false
  | some x => x.ctx == w.ctx && x.skip == w.skip

/-- The complete stripes of a context that wait for its strand, in the order of their entries. -/
def Dev.ctxWaiting (d : Dev) (c : Nat) : List StripeNow :=
  if d.ctxEn c then
    (stripesWaiting c (d.ctxStripeLen c) (d.ctxRx c).flushes 0 (d.ctxBlocks c)).filter (fun w => !d.ctxTakes w)
  else []

/-- STR_STATUS of a strand: PENDING, complete stripes waiting. -/
def Dev.strShow (d : Dev) (s : Nat) : Dev :=
  d.put ⟨R.STR_STATUS s, 16, 8⟩ (min 255 (((List.range 8).map (fun c => (d.ctxWaiting (c + 8 * s)).length)).foldl (· + ·) 0))

/-- An entry becomes complete: its header is written with its completion time. -/
def Dev.ringComplete (d : Dev) (c slot num exposure flags pixEnd : Nat) : Dev :=
  let x := d.ctxRx c
  match x.entries.find? (fun e => e.slot == slot) with
  | none => d
  | some e =>
    let d := d.memWrite 0x00 (d.slotAddr c slot) (slotHeader e num exposure flags pixEnd d.now2)
    (d.setCtxRx c { x with entries := x.entries.map (fun e => if e.slot = slot then { e with closeT := some d.now2 } else e) }).strShow (c / 8)

/-- A placeholder stands for a trigger that brought no line: complete when created, counted MISSED (R105, R107, R109). -/
def Dev.placeholder (d : Dev) (c count : Nat) (pos time : Int) : Dev :=
  match d.ringReserve c count pos time with
  | (some e, d) => (d.ringComplete c e.slot 0 0 1 0).ctxMissed c
  | (none, d) => d.ctxMissed c

/-! ### Matching (R108 to R111) -/

/-- A line start made ORPHAN (R108): counted, and the run of ORPHANs grows (R110). -/
def Dev.orphan (d : Dev) (c count : Nat) : Dev :=
  let x := d.ctxRx c
  let d := (d.bump ⟨R.CTX_ORPHAN_CNT c, 0, 16⟩).ctxOrphan c
  let d := if x.late.contains count then
      ((d.bump ⟨R.CTX_ORPHAN_CNT c, 16, 16⟩).ctxEvent c 8).raise 0x2 (8 * c + 5)
    else d
  d.setCtxRx c { x with orphans := x.orphans + 1, late := x.late.erase count }

/-- Placeholders for the counts from `e` on that brought no line, `n` of them; the matched stamp is the upper neighbour of
those the history no longer keeps. -/
def Dev.placeMissed (d : Dev) (c out : Nat) : Nat → Nat → Dev
  | _, 0 => d
  | e, n + 1 =>
    match d.stampOf 0x00 out e with
    | ((p, t), d) => (d.placeholder c e p t).placeMissed c out ((e + 1) % 2 ^ 32) n

/-- Match a line start with trigger count `count` (Table 5-3): the entry reserved for the line, or none when it is ORPHAN
or dropped at a full ring. -/
def Dev.matchLine (d : Dev) (c count : Nat) : Option RingEntry × Dev :=
  if d.ctxDark c then (none, d.orphan c count) else
  let out := d.ctxTrig c
  match d.history 0x00 out count with
  | (none, d) => (none, d.orphan c count)
  | (some (p, t), d) =>
    let x := d.ctxRx c
    let ahead := match x.e with
      | none => some 0
      | some e =>
        let n := (count + 2 ^ 32 - e) % 2 ^ 32
        if n < 2 ^ 31 then some n else none
    match ahead with
    | none => (none, d.orphan c count)
    | some n =>
      let d := d.placeMissed c out (x.e.getD count) n
      let d := d.setReg (R.CTX_LAST_MATCH c) (BitVec.ofNat 32 count)
      let d := d.setCtxRx c { d.ctxRx c with e := some ((count + 1) % 2 ^ 32), orphans := 0 }
      match d.ringReserve c count p t with
      | (some e, d) => (some e, d)
      | (none, d) => (none, (d.bump ⟨R.CTX_OVERRUN_CNT c, 0, 32⟩).ctxMissed c)

/-- LINE_WAIT in nanoseconds: 0 is treated as 1 µs (Table 5-9). -/
def Dev.lineWaitNs (d : Dev) (c : Nat) : Nat := max 1 (d.fld ⟨R.CTX_MATCH_CFG c, 0, 16⟩) * 1000

/-- LINE_WAIT expires for stamp E, measured from its issue (R109): a placeholder for it, and E moves on; none while the context is dark
(R111). -/
def Dev.lineWait (d : Dev) (c : Nat) : Dev :=
  let x := d.ctxRx c
  let out := d.ctxTrig c
  match x.e with
  | none => d
  | some e =>
    let ago := ((d.reg (R.TDL_TRIGn_COUNT out)).toNat + 2 ^ 32 - e) % 2 ^ 32
    if !d.ctxEn c || d.ctxDark c || !decide (ago < 2 ^ 31) then d
    else
      let d := match (tget (fun _ => []) d.tdl.trigAt out)[ago]? with
        | some t => d.expire t (d.lineWaitNs c)
        | none => d
      match d.stampOf 0x00 out e with
      | ((p, t), d) =>
        let d := d.placeholder c e p t
        d.setCtxRx c { d.ctxRx c with e := some ((e + 1) % 2 ^ 32), late := e :: (d.ctxRx c).late }

/-- The contexts of a port write no entries while it is dark, and match afresh afterwards (R111). -/
def Dev.ctxForget (d : Dev) (c : Nat) : Dev := d.setCtxRx c { d.ctxRx c with e := none, orphans := 0, late := [], fresh := true }

/-- A context returns from the conditions of R111: it matches afresh, and an acquire is pending (R138). -/
def Dev.ctxReturn (d : Dev) (c : Nat) : Dev := (d.ctxForget c).acquire c none

end Sys2Proof.Machine
end

