-- ==== Sys2Proof/Machine/CamPort.lean ====
section
/-! DEFINITION. A camera port as one machine: its lanes, its states and what entering and leaving them does, the choice of
lanes, the spare lane, closing lines, the back channel, discovery and the trigger count (R39, R49 to R65, R78, R83, R86 to
R98, R110). The rows of *Camera Lanes* and *Vilek Lane Protocol* are uses of these operations. -/

namespace Sys2Proof.Machine

/-! ### Names -/

def camInit (_ : Nat) : CamPort := {}
def laneInit (_ : Nat) : CamLane := {}
def vcInit (_ : Nat) : VcRx := {}

def Dev.cport (d : Dev) (p : Nat) : CamPort := tget camInit d.cam.ports p
def Dev.setCport (d : Dev) (p : Nat) (x : CamPort) : Dev := { d with cam := { ports := tset camInit d.cam.ports p x } }
def Dev.lane (d : Dev) (p k : Nat) : CamLane := tget laneInit (d.cport p).lanes k
def Dev.setLane (d : Dev) (p k : Nat) (x : CamLane) : Dev :=
  d.setCport p { d.cport p with lanes := tset laneInit (d.cport p).lanes k x }
def Dev.vcRx (d : Dev) (p v : Nat) : VcRx := tget vcInit (d.cport p).vcs v
def Dev.setVcRx (d : Dev) (p v : Nat) (x : VcRx) : Dev :=
  d.setCport p { d.cport p with vcs := tset vcInit (d.cport p).vcs v x }

/-- A CAM_EVENT bit sets (vector 22 + n) and raises the port's producer (Table 13-1). -/
def Dev.camEvent (d : Dev) (p bit : Nat) : Dev :=
  (d.sticky ⟨R.CAM_EVENT p, bit, 1⟩ (22 + p) true).raise 0x1 (16 * p + bit)

/-- A CAM_VLP_EVENT bit sets. -/
def Dev.vlpEvent (d : Dev) (p bit : Nat) : Dev := d.sticky ⟨R.CAM_VLP_EVENT p, bit, 1⟩ (22 + p) true

def laneCnt (p : Nat) : Fld := ⟨R.CAM_STATUS p, 4, 3⟩
def degraded (p : Nat) : Fld := ⟨R.CAM_STATUS p, 7, 1⟩
def spPresent (p : Nat) : Fld := ⟨R.CAM_STATUS p, 8, 1⟩
def spReplaces (p : Nat) : Fld := ⟨R.CAM_STATUS p, 9, 1⟩
def spBusy (p : Nat) : Fld := ⟨R.CAM_STATUS p, 10, 1⟩
def liveCal (p : Nat) : Fld := ⟨R.CAM_STATUS p, 11, 1⟩
def faultCause (p : Nat) : Fld := ⟨R.CAM_STATUS p, 16, 4⟩
def laneFailBit (p k : Nat) : Fld := ⟨R.CAM_STATUS p, 20 + k, 1⟩

/-- The physical lane of a logical lane (CAM_LANE_MAP). -/
def Dev.laneOf (d : Dev) (p i : Nat) : Nat := d.fld ⟨R.CAM_LANE_MAP p, 4 * i, 4⟩

/-- The physical lanes that carry logical lanes, in logical order. -/
def Dev.lanesUsed (d : Dev) (p : Nat) : List Nat := (List.range (d.fld (laneCnt p))).map (fun i => d.laneOf p i)

/-- The lanes that train: D0 to D3, and SP when the camera reported it. -/
def Dev.lanesThere (d : Dev) (p : Nat) : List Nat := if d.bit (spPresent p) then [0, 1, 2, 3, 4] else [0, 1, 2, 3]

/-- A CAL_EVENT bit sets (R494). -/
def Dev.calEvent (d : Dev) (bit : Nat) : Dev := d.sticky ⟨R.CAL_EVENT, bit, 1⟩ 48 (d.bit ⟨R.CAL_IRQ_EN, bit, 1⟩)

/-- CAL_BUSY follows the items (R479): with none pending or running the store is written if one of them changed a setting (R485),
and CAL_BUSY falls when neither an item nor the store write is left, which raises CAL_DONE (DEDUCED, assumption 46). -/
def Dev.calShow (d : Dev) : Dev :=
  let idle := d.fld ⟨R.CAL_PENDING, 0, 19⟩ == 0
  let d := if idle && d.cal.changed && !d.cal.writing then
    ({ d with cal := { d.cal with writing := true, changed := false } }).put ⟨R.CAL_STATUS, 3, 1⟩ 1 else d
  let was := d.bit ⟨R.CAL_STATUS, 0, 1⟩
  let busy := !idle || d.cal.writing
  let d := d.putBit ⟨R.CAL_STATUS, 0, 1⟩ busy
  if was && !busy then d.calEvent 0 else d

/-- A running lane item is abandoned, to be requested again when its port reaches ACTIVE (R483). -/
def Dev.calAbandon (d : Dev) (p : Nat) : Dev :=
  if d.cal.running.contains p then
    (({ d with cal := { d.cal with running := d.cal.running.filter (fun i => i != p), again := p :: d.cal.again } }).put
      ⟨R.CAL_PENDING, p, 1⟩ 0).calShow
  else d

/-- A port reaches ACTIVE: items dropped or abandoned on it are requested again (R479, R483). -/
def Dev.calAgain (d : Dev) (p : Nat) : Dev :=
  if d.cal.again.contains p then
    (({ d with cal := { d.cal with again := d.cal.again.filter (fun i => i != p) } }).put ⟨R.CAL_PENDING, p, 1⟩ 1).calShow
  else d

/-- PORT_EN. -/
def Dev.portEn (d : Dev) (p : Nat) : Bool := d.bit ⟨R.CAM_CFG p, 0, 1⟩

/-- FAULT_CAUSE + 1 of each port in FAULT (Table 21-5). -/
def Dev.portFaults (d : Dev) : Tbl Nat :=
  (List.range d.variant.ports).foldl (fun t p =>
    if d.portState p = 10 then tset (fun _ => 0) t p (d.fld (faultCause p) + 1) else t) []

/-- The trial check LANES (Table 21-5): every enabled port is ACTIVE, or in FAULT with the cause it had before. -/
def Dev.trialLanes (d : Dev) : Dev :=
  match d.sec.trial with
  | none => d
  | some t =>
    if (List.range d.variant.ports).all (fun p => !d.portEn p || d.portState p == 7 ||
        (d.portState p == 10 && d.fld (faultCause p) + 1 == tget (fun _ => 0) t.faults p)) then d.trialNote 0 else d

def lenErr (p : Nat) : Fld := ⟨R.CAM_PKT_ERR p, 24, 8⟩

/-- Something is done to each of the five lanes. -/
def Dev.eachLane (d : Dev) (p : Nat) (f : CamLane → CamLane) : Dev :=
  (List.range 5).foldl (fun d k => d.setLane p k (f (d.lane p k))) d

/-- A packet in progress is discarded as the port leaves ACTIVE (R71). -/
def Dev.cutPacket (d : Dev) (p : Nat) : Dev :=
  if (d.cport p).part.isSome then (d.setCport p { d.cport p with part := none }).bump (lenErr p) else d

/-- PORT_STATE changes, and LIVE_CAL_AVAIL follows it: ACTIVE, SP present and not replacing (Table 3-11). Outside DESKEW and ACTIVE the
markers are forgotten. Calibration and the trial follow the port (R479, R483, R453). -/
def Dev.setPortState (d : Dev) (p st : Nat) : Dev :=
  let old := d.portState p
  let d := if st = 7 then d else d.cutPacket p
  let d := if st = 6 ∨ st = 7 then d else d.eachLane p (fun x => { x with marker := none })
  let d := d.setCport p { d.cport p with since := d.now2 }
  let d := d.put ⟨R.CAM_STATUS p, 0, 4⟩ st
  let d := d.putBit (liveCal p) (st == 7 && d.bit (spPresent p) && !d.bit (spReplaces p))
  let d := if st = 7 then (if old = 7 then d else d.calAgain p) else d.calAbandon p
  d.trialLanes

/-- A link management message leaves on the back channel with a new SEQ (R49, R52). -/
def Dev.linkSend (d : Dev) (p ty lane a0 a1 a2 : Nat) : Dev :=
  let x := d.cport p
  let seq := (x.lmSeq + 1) % 256
  (d.setCport p { x with lmSeq := seq }).emit (.linkMsg p (16 * ty + lane) a0 a1 a2 seq)

/-! ### Lines (R78, R79, R83) -/

/-- The open line of a virtual channel closes and is classified (R83, Table 4-3): `digestOk` only with a line end whose
digest matches. A line with a slot completes its ring entry; one without, ORPHAN or dropped, counts neither SHORT nor LONG
(DESIGN CHOICE, assumption 108). -/
def Dev.closeLine (d : Dev) (p v : Nat) (hasEnd digestOk : Bool) : Dev :=
  match (d.vcRx p v).line with
  | none => d
  | some l =>
    let good := hasEnd && digestOk
    let d := d.setVcRx p v { d.vcRx p v with line := none }
    let d := (d.put ⟨R.CAM_VLP_STATUS p, 8 + v, 1⟩ 0).bump ⟨R.CAM_VCv_LINES p v, 0, 32⟩
    let d := if hasEnd then d else d.bump ⟨R.CAM_VCv_ERR p v, 16, 16⟩
    let d := if l.mis && good then d.bump ⟨R.CAM_VCv_CHK p v, 0, 16⟩ else d
    let d := if !l.mis && !good then d.bump ⟨R.CAM_VCv_CHK p v, 16, 16⟩ else d
    let d := if l.mis && !good then d.bump ⟨R.CAM_VCv_ERR p v, 0, 16⟩ else d
    match l.slot with
    | none => d
    | some s =>
      let short := decide (l.written < d.ctxWidth l.ctx)
      let flags := (if short then 2 else 0) + (if l.long then 4 else 0) + (if l.mis && good then 8 else 0) +
        (if !l.mis && !good then 16 else 0) + (if l.mis && !good then 32 else 0) + (if hasEnd then 0 else 64)
      let d := (d.ringComplete l.ctx s l.num l.exposure flags l.pixEnd).bump ⟨R.CTX_LINE_CNT l.ctx, 0, 32⟩
      let d := if short then (d.bump ⟨R.CTX_LEN_CNT l.ctx, 0, 16⟩).ctxEvent l.ctx 3 else d
      if l.long then (d.bump ⟨R.CTX_LEN_CNT l.ctx, 16, 16⟩).ctxEvent l.ctx 4 else d

/-! ### Back channel (R86 to R89) -/

/-- A back-channel packet, from the byte after SOP to the byte before EOP (R86, Table 4-1): VC 0 and the command code, VER 1, LEN, the
tag, OFFSET 0, HCRC, the payload and its CRC, each low byte first (R70). -/
def bcPacket (code tag : Nat) (payload : List Byte) : List Byte :=
  let h := leBytes 1 (code % 64) ++ leBytes 1 1 ++ leBytes 2 payload.length ++ leBytes 2 tag ++ leBytes 2 0
  h ++ leBytes 2 (crc16 0xFFFF h) ++ payload ++ leBytes 4 (crc32c payload)

/-- The head of the queue is sent, or sent again: it is the outstanding command, and its EOP leaves after a symbol time of 8 ns for each
of its bytes and for SOP and EOP (R40, R89). -/
def Dev.bcEmit (d : Dev) (p : Nat) : Dev :=
  let x := d.cport p
  match x.bc with
  | [] => d
  | c :: cs =>
    let k := bcPacket c.code c.tag c.payload
    (d.setCport p { x with bc := { c with sent := true, at_ := d.now2 + 8 * (k.length + 2) } :: cs }).emit (.backChannel p k)

/-- The head of the queue, when it is not out yet, becomes outstanding with a new tag (R86). -/
def Dev.bcKick (d : Dev) (p : Nat) : Dev :=
  let x := d.cport p
  match x.bc with
  | [] => d
  | c :: cs =>
    if c.sent then d
    else
      let tag := (x.bcTag + 1) % 65536
      (d.setCport p { x with bc := { c with tag := tag, resends := 0 } :: cs, bcTag := tag }).bcEmit p

/-- A command is queued behind those before it (R86, R100). -/
def Dev.bcPush (d : Dev) (p : Nat) (c : BcCmd) : Dev := (d.setCport p { d.cport p with bc := (d.cport p).bc ++ [c] }).bcKick p

/-- The outstanding command is over. -/
def Dev.bcDrop (d : Dev) (p : Nat) : Dev := d.setCport p { d.cport p with bc := (d.cport p).bc.tail }

/-- Lanes of a mask begin or end a test pattern; at its end they align anew (R94). -/
def Dev.patternLanes (d : Dev) (p mask : Nat) (on : Bool) : Dev :=
  (List.range 5).foldl (fun d k => if mask / 2 ^ k % 2 = 1 then
    d.setLane p k { d.lane p k with pattern := on, marker := none, prbs15 := none, rd := none, viol := [] } else d) d

/-- Does a lane carry a test pattern? Its end has been asked for when the outstanding command says so: from then on the lane is read
again (R94). -/
def Dev.patternNow (d : Dev) (p k : Nat) : Bool :=
  (d.lane p k).pattern && !((d.cport p).bc.take 1).any (fun c => match c.use with
    | .pattern mask false => mask / 2 ^ k % 2 == 1
    | _ => false)

/-- Is a command of discovery? -/
def BcUse.disc : BcUse → Bool
  | .ident | .pktMax | .vcFormat _ | .vcWidth _ | .vcEn _ => true
  | .count b => b
  | _ => false

/-- Discovery of an earlier training ends: waiting steps are dropped and the outstanding one is stale; a trigger count
setting runs on, so that its output is ungated. -/
def bcStale : List BcCmd → List BcCmd
  | [] => []
  | c :: cs =>
    let head : BcCmd := match c.use with
      | .count _ => { c with use := .count false }
      | u => if u.disc then { c with use := .stale } else c
    head :: (cs.filter (fun c => match c.use with
      | .count _ => true
      | u => !u.disc)).map (fun c => match c.use with
      | .count _ => { c with use := .count false }
      | _ => c)

/-! ### Leaving and entering states (R51, R54, R56, R78) -/

/-- A logical lane moves from one physical lane to another in CAM_LANE_MAP (R60). -/
def Dev.remapLane (d : Dev) (p src dst : Nat) : Dev :=
  (List.range 4).foldl (fun d i => if d.laneOf p i = src then d.put ⟨R.CAM_LANE_MAP p, 4 * i, 4⟩ dst else d) d

/-- The spare lane's mirror is released, the mirrored lane being the source again; a permanent replacement never is
released (R59, R60). -/
def Dev.mirrorDrop (d : Dev) (p : Nat) : Dev :=
  let d := match (d.cport p).mirror with
    | some (k, true) => d.remapLane p 4 k
    | _ => d
  let x := d.cport p
  let x := { x with mirror := none, spHolder := if x.spHolder = some .replace then x.spHolder else none }
  (d.setCport p x).put (spBusy p) 0

/-- A port leaves ACTIVE, or a low-power state, for training, FAULT or DISABLED: every open line closes without a line end
(R78), discovery starts anew on its return (R97), the mirror and the low-power request end, and CTLE is frozen no more (R57). -/
def Dev.leaveActive (d : Dev) (p : Nat) : Dev :=
  let st := d.portState p
  let up := st == 7 || st == 8 || st == 9
  let d := (List.range 4).foldl (fun d v => d.closeLine p v false false) d
  let x := d.cport p
  let d := d.setCport p { x with bc := bcStale x.bc, lpAsked := none, lpExit := false, relock := false, spWait := [] }
  let d := (List.range 5).foldl (fun d k => d.put ⟨R.CAM_LANEk_EQ p k, 12, 1⟩ 0) (d.mirrorDrop p)
  if up then d.camEvent p 1 else d

/-- The contexts of a port start afresh once it is dark (R111). -/
def Dev.portForget (d : Dev) (p : Nat) : Dev := (d.portCtxs p).foldl (fun d c => d.ctxForget c) d

/-- The contexts of a port that was dark return (R111, R138). -/
def Dev.portReturn (d : Dev) (p : Nat) : Dev :=
  if d.portState p = 0 ∨ d.portState p = 10 then (d.portCtxs p).foldl (fun d c => d.ctxReturn c) d else d

/-- The contexts of a dark port are blind in their mosaics (R169). -/
def Dev.portDark (d : Dev) (p : Nat) : Dev := (d.portCtxs p).foldl (fun d c => d.seamDark c) d

/-- FAULT with a cause (R51, R56): no lane is in use, and the port's contexts are blind. -/
def Dev.camFault (d : Dev) (p cause : Nat) : Dev :=
  let d := d.leaveActive p
  let d := (((d.put (faultCause p) cause).put (laneCnt p) 0).put (degraded p) 0).put (spReplaces p) 0
  let d := d.setReg (R.CAM_LANE_MAP p) 0xFFFF
  let d := d.setCport p { d.cport p with spHolder := none }
  (((d.setPortState p 10).portForget p).camEvent p 5).portDark p

/-- DETECT: the lanes train from nothing (R51). -/
def Dev.camDetect (d : Dev) (p : Nat) : Dev :=
  let d := (d.portReturn p).leaveActive p
  let d := ((((d.put (faultCause p) 0).put (laneCnt p) 0).put (degraded p) 0).put (spReplaces p) 0).put (spPresent p) 0
  let d := d.put ⟨R.CAM_STATUS p, 20, 5⟩ 0
  let d := d.setCport p { d.cport p with lanes := [], spHolder := none, deskewFails := 0, acked := [], agree := 0 }
  d.setPortState p 1

/-- TRAIN: the port retrains from DETECT (Table 3-10); a DISABLED port stays so. It counts as a whole-port retrain; the retry out of
FAULT (R56) does not (DESIGN CHOICE, assumption 109). -/
def Dev.camTrain (d : Dev) (p : Nat) : Dev :=
  if d.portState p = 0 then d else (d.bump ⟨R.CAM_RETRAIN_CNT p, 0, 16⟩).camDetect p

/-- A whole-port retrain from LOCK (R47, R58). -/
def Dev.camRelock (d : Dev) (p : Nat) : Dev :=
  let d := (d.bump ⟨R.CAM_RETRAIN_CNT p, 0, 16⟩).leaveActive p
  let d := d.put ⟨R.CAM_STATUS p, 20, 5⟩ 0
  let d := d.setCport p { d.cport p with lanes := [], agree := 0, acked := [],
                                         spHolder := none }
  (d.put (spReplaces p) 0).setPortState p 3

/-! ### Lane count and map (R54, R55) -/

/-- Line rate of LANE_RATE in 100 kb/s. -/
def lineRate : Nat → Nat
  | 0 => 25000 | 1 => 50000 | 2 => 100000 | _ => 125000

def Dev.portRate (d : Dev) (p : Nat) : Nat := lineRate (d.fld ⟨R.CAM_CFG p, 1, 2⟩)

/-- The load of a port in bits per second before the VLP overhead (Table 2-2). -/
def Dev.portBits (d : Dev) (p : Nat) : Nat :=
  ((d.portCtxs p).map (fun c => d.ctxWidth c * bitsPerPixel (d.ctxFormat c) * d.ctxRate c)).foldl (· + ·) 0

/-- The port's load, with the 3 % overhead of R91, fits LANE_CNT × 0.8 × line rate (R55). -/
def Dev.loadFits (d : Dev) (p n : Nat) : Bool := decide (d.portBits p * 103 ≤ n * 80 * d.portRate p * 100000)

/-- The working lanes, SP only when reported and not mirroring, in ascending physical order (R54). -/
def Dev.working (d : Dev) (p : Nat) : List Nat :=
  (d.lanesThere p).filter (fun k => (d.lane p k).works && !(k == 4 && (d.cport p).mirror.isSome))

/-- The lanes to use, in logical order, or the cause of the FAULT (R54). With four lanes SP takes the place of the failed data lane;
with fewer they stand in ascending physical order (DEDUCED, assumption 110). -/
def Dev.chooseLanes (d : Dev) (p : Nat) : List Nat × Nat :=
  let w := d.working p
  if 4 ≤ w.length then ([0, 1, 2, 3].map (fun k => if w.contains k then k else 4), 0)
  else if 2 ≤ w.length then (if d.loadFits p 2 then (w.take 2, 0) else ([], 4))
  else if w.length = 1 then (if d.loadFits p 1 then (w, 0) else ([], 4))
  else ([], 3)

/-- DONE with the lane count and map in force (Table 3-4). -/
def Dev.sendDone (d : Dev) (p : Nat) : Dev :=
  let n := d.fld (laneCnt p)
  let at_ := fun i => if i < n then d.laneOf p i else 0
  d.linkSend p 0x4 0xF n (at_ 0 + 16 * at_ 1) (at_ 2 + 16 * at_ 3)

/-- CONFIG with the chosen lanes (R54, R55): count, map, DEGRADED and the permanent use of SP. -/
def Dev.camConfig (d : Dev) (p : Nat) (use : List Nat) : Dev :=
  let was := d.bit (spReplaces p)
  let n := use.length
  let map := (List.range 4).foldl (fun acc i => acc + 16 ^ i * use.getD i 0xF) 0
  let d := (d.put (laneCnt p) n).setReg (R.CAM_LANE_MAP p) (BitVec.ofNat 32 map)
  let d := (d.putBit (spReplaces p) (use.contains 4)).putBit (degraded p) (decide (n < 4))
  let d := d.setCport p { d.cport p with
    spHolder := if use.contains 4 then some .replace else none, dones := 1, acked := [], agree := 0, doneAt := d.now2 }
  let d := if n < 4 then d.camEvent p 4 else d
  let d := if use.contains 4 && !was then d.camEvent p 3 else d
  (d.setPortState p 5).sendDone p

/-- The lane count is chosen: CONFIG, or FAULT (R54). -/
def Dev.camChoose (d : Dev) (p : Nat) : Dev :=
  match d.chooseLanes p with
  | ([], cause) => d.camFault p cause
  | (use, _) => (d.leaveActive p).camConfig p use

/-- A lane fails (R48, R54): in TX_EQ it drops out of the sweep; in CONFIG, DESKEW and ACTIVE the lanes are chosen again.
SP failing in the course of a mirror abandons the mirror, and the mirrored lane stays the source (R60). A lane that sends a test pattern is exempt (R94). -/
def Dev.laneFail (d : Dev) (p k : Nat) : Dev :=
  let x := d.lane p k
  if x.pattern then d else
    let st := d.portState p
    let d := (d.setLane p k { x with works := false, locked := false, sweep := .idle, marker := none }).put (laneFailBit p k) 1
    if k = 4 ∧ (d.cport p).mirror.isSome then
      let d := match (d.cport p).spHolder with
        | some (.recal _) => d.calAbandon p
        | some (.retrain j) => d.setLane p j { d.lane p j with sweep := .idle, works := true }
        | _ => d
      d.mirrorDrop p
    else if st = 5 ∨ st = 6 ∨ st = 7 then d.camChoose p else d

/-! ### The coefficient sweep (R52, R53) -/

/-- A REQ for a point. -/
def Dev.sendReq (d : Dev) (p k pre post tries : Nat) : Dev :=
  let d := d.linkSend p 0x1 k pre post 0
  d.setLane p k { d.lane p k with sweep := .asked pre post (d.cport p).lmSeq tries, since := d.now2 }

/-- The next point of the sweep in ascending PRE and, within it, POST, leaving out those visited through a NAK. -/
def nextPoint (naks : List (Nat × Nat)) : Nat → Nat → Option (Nat × Nat)
  | 0, _ => none
  | n + 1, i => if 128 ≤ i then none
    else if naks.contains (i / 16, i % 16) then nextPoint naks n (i + 1) else some (i / 16, i % 16)

/-- The better of two points: the larger margin, then the lower PRE, then the lower POST. -/
def betterPoint (m pre post : Nat) : Option (Nat × Nat × Nat) → Nat × Nat × Nat
  | none => (m, pre, post)
  | some (m0, pre0, post0) =>
    if m0 < m ∨ (m = m0 ∧ (pre < pre0 ∨ (pre = pre0 ∧ post < post0))) then (m, pre, post) else (m0, pre0, post0)

/-- A lane begins its sweep. -/
def Dev.startSweep (d : Dev) (p k : Nat) : Dev :=
  (d.setLane p k { d.lane p k with naks := [], best := none, works := false }).sendReq p k 0 0 0

/-- The sweep of a lane ends: it works when the selected margin is at least EYE_MIN and its last dwell saw no code
violation (R53). The camera is brought to the selected point by one more exchange of R52, which the spec does not print
(DESIGN CHOICE, assumption 111). -/
def Dev.endSweep (d : Dev) (p k violations : Nat) : Dev :=
  match (d.lane p k).best with
  | none => d.laneFail p k
  | some (m, pre, post) =>
    let d := d.put ⟨R.CAM_LANEk_EQ p k, 24, 8⟩ (min m 255)
    if d.fld ⟨R.CAM_CTRL p, 8, 8⟩ ≤ m ∧ violations = 0 then
      let d := d.linkSend p 0x1 k pre post 0
      d.setLane p k { d.lane p k with sweep := .last pre post (d.cport p).lmSeq 0, since := d.now2 }
    else if d.portState p = 7 then d.laneFail p k
    else d.setLane p k { d.lane p k with sweep := .done }

/-! ### Discovery and the trigger count (R90, R97, R98, R110) -/

/-- The port's payload bytes per microsecond (R90). -/
def Dev.payloadRate (d : Dev) (p : Nat) : Nat := d.fld (laneCnt p) * d.portRate p * 8 / 800

/-- PKT_MAX (R90). -/
def Dev.pktMax (d : Dev) (p : Nat) : Nat := clampNat 1024 8192 (d.payloadRate p / 1024 * 1024)

/-- The virtual channels of a port that a context maps (CAM_VC_MAP). -/
def Dev.vcMapped (d : Dev) (p v : Nat) : Bool := d.bit ⟨R.CAM_VC_MAP p, 8 * v + 7, 1⟩
def Dev.vcCtx (d : Dev) (p v : Nat) : Nat := d.fld ⟨R.CAM_VC_MAP p, 8 * v, 5⟩
def Dev.mappedVcs (d : Dev) (p : Nat) : List Nat := (List.range 4).filter (fun v => d.vcMapped p v)

/-- A virtual channel is marked CTX_MISMATCH: its context is blind (R97). -/
def Dev.markMismatch (d : Dev) (p v : Nat) : Dev :=
  let x := d.cport p
  let d := d.setCport p { x with passed := x.passed.filter (· != v) }
  (((d.put ⟨R.CAM_VLP_STATUS p, 4 + v, 1⟩ 1).ctxForget (d.vcCtx p v)).vlpEvent p 5).seamDark (d.vcCtx p v)

/-- The end of discovery (R97 step 6). -/
def Dev.discEnd (d : Dev) (p : Nat) : Dev := (d.put ⟨R.CAM_VLP_STATUS p, 0, 1⟩ 1).vlpEvent p 0

/-- Gate or ungate a TRIG output for a port (R98). -/
def Dev.gateTrig (d : Dev) (p out : Nat) (on : Bool) : Dev :=
  let l := (tget (fun _ => []) d.tdl.gates out).filter (· != p)
  let d := { d with tdl := { d.tdl with gates := tset (fun _ => []) d.tdl.gates out (if on then l ++ [p] else l) } }
  d.putBit ⟨R.CAM_VLP_STATUS p, 2, 1⟩ on

/-- The trigger count is set (R98): the output is gated and TRIG_COUNT_SET sent with its issued count. A port without a
TRIG output skips the setting; a setting in progress serves both. -/
def Dev.setCount (d : Dev) (p : Nat) (disc : Bool) : Dev :=
  match d.portTrig p with
  | none => if disc then d.discEnd p else d
  | some out =>
    let x := d.cport p
    if x.bc.any (fun c => match c.use with
      | .count _ => true
      | _ => false) then
      d.setCport p { x with bc := x.bc.map (fun c => match c.use with
        | .count b => { c with use := .count (b || disc) }
        | _ => c) }
    else
      (d.gateTrig p out true).bcPush p
        { use := .count disc, code := 0x05, payload := leBytes 4 (d.reg (R.TDL_TRIGn_COUNT out)).toNat }

/-- Discovery starts (R97 step 1): a context that was marked CTX_MISMATCH matches afresh (R111). -/
def Dev.discover (d : Dev) (p : Nat) : Dev :=
  let d := ((d.mappedVcs p).filter (fun v => d.bit ⟨R.CAM_VLP_STATUS p, 4 + v, 1⟩)).foldl (fun d v => d.ctxReturn (d.vcCtx p v)) d
  let d := (d.put ⟨R.CAM_VLP_STATUS p, 0, 1⟩ 0).put ⟨R.CAM_VLP_STATUS p, 4, 4⟩ 0
  (d.setCport p { d.cport p with passed := [] }).bcPush p { use := .ident, code := 0x01, payload := leBytes 4 0 ++ leBytes 4 12 }

/-- Step 5: the trigger count is set when COUNT_VALID is 0; then step 6. -/
def Dev.discCount (d : Dev) (p : Nat) : Dev :=
  if d.bit ⟨R.CAM_VLP_STATUS p, 1, 1⟩ then d.discEnd p else d.setCount p true

/-- A discovery WRITE of one word. -/
def Dev.discWrite (d : Dev) (p : Nat) (use : BcUse) (a v : Nat) : Dev :=
  d.bcPush p { use := use, code := 0x02, payload := leBytes 4 a ++ leBytes 4 v }

/-- The checks of step 2 for a virtual channel, on the words read in step 1. -/
def Dev.discCheck (d : Dev) (v : Nat) (w : List Nat) (c : Nat) : Bool :=
  let at_ := fun i => w.getD i 0
  at_ 0 / 256 % 256 == 1 && decide (v ≤ at_ 7 / 16 % 4) && at_ 7 / 2 ^ d.ctxFormat c % 2 == 1 &&
    decide (d.ctxWidth c ≤ at_ 8) && decide (d.ctxRate c ≤ at_ 9)

/-- The READ of step 1 has been answered: CAM_IDENT, COUNT_VALID and the checks; then PKT_MAX (R97). -/
def Dev.discIdent (d : Dev) (p status : Nat) (words : List Nat) : Dev :=
  let w := if status = 0 then words else []
  let d := (List.range 12).foldl (fun d i => d.setReg (R.CAM_IDENTi p i) (BitVec.ofNat 32 (w.getD i 0))) d
  let d := d.put ⟨R.CAM_VLP_STATUS p, 1, 1⟩ (w.getD 11 0 % 2)
  if status ≠ 0 then ((d.mappedVcs p).foldl (fun d v => d.markMismatch p v) d).discCount p
  else
    let ok := (d.mappedVcs p).filter (fun v => d.discCheck v w (d.vcCtx p v))
    let d := ((d.mappedVcs p).filter (fun v => !ok.contains v)).foldl (fun d v => d.markMismatch p v) d
    let d := d.setCport p { d.cport p with passed := ok }
    d.discWrite p .pktMax 0x40 (d.pktMax p)

/-- The writes of step 4 for the virtual channels that passed, or step 5 when there are none. -/
def Dev.discVcs (d : Dev) (p : Nat) : Dev :=
  match (d.cport p).passed with
  | [] => d.discCount p
  | vs => vs.foldl (fun d v =>
      let c := d.vcCtx p v
      ((d.discWrite p (.vcFormat v) (0x104 + 0x20 * v) (0x10 + d.ctxFormat c)).discWrite p
        (.vcWidth v) (0x108 + 0x20 * v) (d.ctxWidth c)).discWrite p (.vcEn v) (0x100 + 0x20 * v) 1) d

/-- A write of step 4 has been answered: a refusal marks its virtual channel and drops its further writes; after the last
write comes step 5. -/
def Dev.discVcDone (d : Dev) (p v status : Nat) : Dev :=
  let d := if status = 0 then d else
    let d := d.markMismatch p v
    let x := d.cport p
    d.setCport p { x with bc := x.bc.filter (fun c =>
      !(c.use == .vcFormat v || c.use == .vcWidth v || c.use == .vcEn v)) }
  if (d.cport p).bc.any (fun c => c.use.disc) then d else d.discCount p

/-- The trigger count setting ends (R98, R110): the output is ungated; on OK COUNT_VALID is 1 and a resync sets E of the
port's contexts, but for those that are dark (R111), to the next trigger count; otherwise CAM_COUNT_LOST. -/
def Dev.countDone (d : Dev) (p : Nat) (ok : Bool) : Dev :=
  match d.portTrig p with
  | none => d
  | some out =>
    let d := d.gateTrig p out false
    if ok then
      let d := d.put ⟨R.CAM_VLP_STATUS p, 1, 1⟩ 1
      let next := ((d.reg (R.TDL_TRIGn_COUNT out)).toNat + 1) % 2 ^ 32
      if (d.cport p).resync then
        let d := d.setCport p { d.cport p with resync := false }
        ((d.portCtxs p).filter (fun c => !d.ctxDark c)).foldl (fun d c =>
          d.setCtxRx c { d.ctxRx c with e := some next, orphans := 0 }) d
      else d
    else (d.put ⟨R.CAM_VLP_STATUS p, 1, 1⟩ 0).vlpEvent p 2

/-- A resync of a context's port (R110). -/
def Dev.resyncCtx (d : Dev) (c : Nat) : Dev :=
  let n := d.fld ⟨R.CTX_MATCH_CFG c, 16, 8⟩
  let x := d.ctxRx c
  if 0 < n ∧ n ≤ x.orphans then
    let p := d.ctxPort c
    let d := (((d.setCtxRx c { x with orphans := 0 }).bump ⟨R.CTX_RESYNC_CNT c, 0, 16⟩).ctxEvent c 6).raise 0x2 (8 * c + 3)
    let d := d.setCport p { d.cport p with resync := true }
    d.setCount p false
  else d

/-- Enter ACTIVE: from DESKEW discovery runs; SEQ of every virtual channel is adopted anew (R74, R97). -/
def Dev.camActive (d : Dev) (p : Nat) (deskewed : Bool) : Dev :=
  let d := (List.range 4).foldl (fun d v => d.setVcRx p v { d.vcRx p v with seq := none }) d
  let d := (d.setCport p { d.cport p with deskewFails := 0, relock := false, lpAsked := none, lpExit := false }).setPortState p 7
  if deskewed then (d.camEvent p 0).discover p else d.camEvent p 7

/-- The alignment fails (R47, R51): DESKEW_FAIL and a retrain, or FAULT after the second failed retrain in a row. -/
def Dev.deskewFail (d : Dev) (p : Nat) : Dev :=
  let d := d.camEvent p 8
  let n := (d.cport p).deskewFails + 1
  let d := d.setCport p { d.cport p with deskewFails := n }
  if 3 ≤ n then d.camFault p 5 else d.camRelock p

/-! ### The end of a back-channel command (R87, R89, R97, R98, R100) -/

/-- What the end of the outstanding command brings: the camera's status and words, or no reply. -/
def Dev.bcAct (d : Dev) (p : Nat) (c : BcCmd) (reply : Option (Nat × List Nat)) : Dev :=
  match c.use, reply with
  | .host _ id, none => d.mbAnswer id stNoReply []
  | .host code id, some (st, words) =>
    if st ≠ 0 then d.mbAnswer id (stCamError + st % 256) []
    else
      let d := d.mbAnswer id stOk (words.flatMap (leBytes 4))
      if code = 0x020A then d.camTrain p else d
  | .count disc, none =>
    let d := d.countDone p false
    if disc then d.camFault p 6 else d
  | .count disc, some (st, _) =>
    let d := d.countDone p (st == 0)
    if disc then d.discEnd p else d
  | .ident, some (st, words) => d.discIdent p st words
  | .pktMax, some (st, _) =>
    if st = 0 then d.discVcs p else ((d.mappedVcs p).foldl (fun d v => d.markMismatch p v) d).discCount p
  | .vcFormat v, some (st, _) => d.discVcDone p v st
  | .vcWidth v, some (st, _) => d.discVcDone p v st
  | .vcEn v, some (st, _) => d.discVcDone p v st
  | .mirror _ true, some (0, _) => d
  | .mirror _ true, _ => d.mirrorDrop p
  | .mirror _ false, _ => d
  | .pattern mask true, some (0, _) => d.patternLanes p mask true
  | .pattern mask false, _ => d.patternLanes p mask false
  | .pattern _ _, _ => d
  | .stale, _ => d
  | _, none => d.camFault p 6

/-- The outstanding command ends; what it brings is acted on before the next command leaves (R86, R97, R100). -/
def Dev.bcEnd (d : Dev) (p : Nat) (reply : Option (Nat × List Nat)) : Dev :=
  match (d.cport p).bc with
  | [] => d
  | c :: _ => ((d.bcDrop p).bcAct p c reply).bcKick p

end Sys2Proof.Machine
end

