-- ==== Sys2Proof/Machine/Camera.lean ====
section
/-! DEFINITION. The commands and events of *Camera Lanes: Physical Layer and Training* (R39 to R67). -/

namespace Sys2Proof.Machine

/-- An event of a port that the variant lacks does not occur (R39). -/
def onPort (p : Nat) (f : Dev → Dev) (s : State) : Res := onDev (fun d => if p < d.variant.ports then f d else d) s

/-- A command's port argument (R67, R100): BAD_ARG above 15, UNIT_ABSENT where the variant lacks the port. -/
def Dev.portArg (d : Dev) (p : Nat) (act : Act) : Act :=
  if 16 ≤ p then .fail stBadArg else if d.variant.ports ≤ p then .fail stUnitAbsent else act

/-! ### Low power (R62, R65) -/

/-- Has every active lane brought the entry ordered set (R65)? -/
def Dev.entryDone (d : Dev) (p : Nat) : Bool := (d.lanesUsed p).all (fun k => (d.cport p).acked.contains k)

/-- LP_REQ 0 to 2 as a request: entry from ACTIVE, exit from EBB and SLACK; an exit wanted while the entry goes on waits for
it (R65). -/
def Dev.lpRequest (d : Dev) (p req : Nat) : Dev :=
  let x := d.cport p
  let st := d.portState p
  if req = 0 then
    if (st = 8 ∨ st = 9) ∧ d.entryDone p then d.linkSend p 0x9 0xF 0 0 0
    else if st = 8 ∨ st = 9 ∨ x.lpAsked.isSome then d.setCport p { x with lpExit := true } else d
  else if st = 7 ∧ x.lpAsked = none then
    (d.setCport p { x with lpAsked := some req, acked := [], lpExit := false }).linkSend p 0x9 0xF req 0 0
  else d

/-- May LP_REQ change: only in ACTIVE, EBB and SLACK (R65). -/
def Dev.lpOk (d : Dev) (p : Nat) : Bool := d.portState p == 7 || d.portState p == 8 || d.portState p == 9

/-- A write to CAM_CTRL (Table 3-10): EYE_MIN, LP_REQ where it may change (3 is ignored), and TRAIN. -/
def Dev.camCtrlWrite (d : Dev) (p : Nat) (v : Word) : Dev :=
  let req := getBits v 1 2
  let d := d.put ⟨R.CAM_CTRL p, 8, 8⟩ (getBits v 8 8)
  let d := if req < 3 ∧ d.lpOk p then (d.put ⟨R.CAM_CTRL p, 1, 2⟩ req).lpRequest p req else d
  if getBits v 0 1 = 1 then d.camTrain p else d

/-- TRAIN: a host write to CAM_CTRL with bit 0 set (R51, Table 3-10). -/
def execTrain (port : Nat) (v : Word) (s : State) : Res := onPort port (fun d => d.camCtrlWrite port v) s

/-- LP_REQ: a host write to CAM_CTRL (R62, R65). -/
def execLpReq (port : Nat) (v : Word) (s : State) : Res := onPort port (fun d => d.camCtrlWrite port v) s

/-! ### Test patterns (R61) -/

/-- One bit of the pattern by its polynomial: PRBS-7 x^7 + x^6 + 1, or PRBS-31 x^31 + x^28 + 1; the newest bit first. -/
def prbsNext (p31 : Bool) (w : List Bool) : Bool :=
  if p31 then (w.getD 30 false) != (w.getD 27 false) else (w.getD 6 false) != (w.getD 5 false)

/-- The checker takes a bit: it synchronises on the first 31 error-free bits; then it runs on its own and tells whether the
bit mismatches (R61). -/
def checkBit (p31 : Bool) (x : CamLane) (b : Bool) : CamLane × Bool :=
  let n := if p31 then 31 else 7
  if 31 ≤ x.run then
    let want := prbsNext p31 x.check
    ({ x with check := (want :: x.check).take n }, want != b)
  else if x.check.length < n then ({ x with check := b :: x.check, run := x.run + 1 }, false)
  else if prbsNext p31 x.check == b then ({ x with check := (b :: x.check).take n, run := x.run + 1 }, false)
  else ({ x with check := (b :: x.check).take n, run := n }, false)

/-- The raw bits of a lane pass its checker while PRBS_EN is 1: PRBS_LOCK, and CAM_PRBS_CNTk for every later mismatch. -/
def Dev.prbsBits (d : Dev) (p k : Nat) (bits : List Bool) : Dev :=
  if d.bit ⟨R.CAM_PRBS_CTRL p, k, 1⟩ then
    let p31 := d.bit ⟨R.CAM_PRBS_CTRL p, 8 + k, 1⟩
    let r := bits.foldl (fun (r : CamLane × Nat) b =>
      let (x, bad) := checkBit p31 r.1 b
      (x, r.2 + (if bad then 1 else 0))) (d.lane p k, 0)
    ((d.setLane p k r.1).putBit ⟨R.CAM_PRBS_CTRL p, 16 + k, 1⟩ (decide (31 ≤ r.1.run))).bumpBy ⟨R.CAM_PRBS_CNTk p k, 0, 32⟩ r.2
  else d

/-- A write to CAM_PRBS_CTRL: the checkers of lanes whose enable or pattern changes start afresh, unlocked. -/
def Dev.prbsWrite (d : Dev) (p : Nat) (v : Word) : Dev :=
  (List.range 5).foldl (fun d k =>
    let en := getBits v k 1
    let sel := getBits v (8 + k) 1
    if en = d.fld ⟨R.CAM_PRBS_CTRL p, k, 1⟩ ∧ sel = d.fld ⟨R.CAM_PRBS_CTRL p, 8 + k, 1⟩ then d
    else
      let d := ((d.put ⟨R.CAM_PRBS_CTRL p, k, 1⟩ en).put ⟨R.CAM_PRBS_CTRL p, 8 + k, 1⟩ sel).put ⟨R.CAM_PRBS_CTRL p, 16 + k, 1⟩ 0
      d.setLane p k { d.lane p k with check := [], run := 0 }) d

/-- PRBS_EN: a host write to CAM_PRBS_CTRL, with the raw bits its lanes then receive (R61). -/
def execPrbsEn (port : Nat) (v : Word) (stream : List (Nat × List Bool)) (s : State) : Res :=
  onPort port (fun d =>
    (stream.filter (fun x => decide (x.1 < 5))).foldl (fun d x => d.prbsBits port x.1 x.2) (d.prbsWrite port v)) s

/-! ### Mailbox commands (Table 3-13) -/

/-- CAM_RETRAIN: as TRAIN. -/
def execCamRetrain (tag : Word) (args : List Word) (s : State) : Res :=
  onDev (fun d => d.mailbox 0x0201 false (args.length == 1) tag args (fun d =>
    let p := (args.getD 0 0).toNat
    d.portArg p (.ok (d.camTrain p) []))) s

/-- CAM_LP: as LP_REQ; BAD_STATE unless the port is in ACTIVE, EBB or SLACK (R65). -/
def execCamLp (tag : Word) (args : List Word) (s : State) : Res :=
  onDev (fun d => d.mailbox 0x0202 false (args.length == 2) tag args (fun d =>
    let p := (args.getD 0 0).toNat
    let req := (args.getD 1 0).toNat
    d.portArg p (if 3 ≤ req then .fail stBadArg
      else if d.lpOk p then .ok ((d.put ⟨R.CAM_CTRL p, 1, 2⟩ req).lpRequest p req) [] else .fail stBadState))) s

/-- CAM_PRBS: sends TEST_PATTERN and sets CAM_PRBS_CTRL (R61, Table 3-13). The lanes carry the pattern once the camera has said OK. -/
def execCamPrbs (tag : Word) (args : List Word) (s : State) : Res :=
  onDev (fun d => d.mailbox 0x0203 false (args.length == 4) tag args (fun d =>
    let p := (args.getD 0 0).toNat
    let mask := (args.getD 1 0).toNat
    let pat := (args.getD 2 0).toNat
    let en := (args.getD 3 0).toNat
    d.portArg p (if 32 ≤ mask ∨ 2 ≤ pat ∨ 2 ≤ en then .fail stBadArg
      else if d.portState p ≠ 7 then .fail stBadState
      else
        let r := d.reg (R.CAM_PRBS_CTRL p)
        let m := BitVec.ofNat 32 mask
        let r := if en = 1 then (r ||| m) else (r &&& ~~~m)
        let r := if en = 1 then (if pat = 1 then (r ||| (m <<< 8)) else (r &&& ~~~(m <<< 8))) else r
        let d := d.prbsWrite p r
        .ok (d.bcPush p { use := .pattern mask (en == 1), code := 0x04, payload := leBytes 1 mask ++ leBytes 1 pat ++ leBytes 1 en ++ leBytes 1 0 })
          []))) s

/-- CAM_LANE_INFO: CAM_STATUS, CAM_LANE_MAP and every CAM_LANEk_EQ. -/
def execCamLaneInfo (tag : Word) (args : List Word) (s : State) : Res :=
  onDev (fun d => d.mailbox 0x0204 false (args.length == 1) tag args (fun d =>
    let p := (args.getD 0 0).toNat
    d.portArg p (.ok d (d.regsBytes (R.CAM_STATUS p :: R.CAM_LANE_MAP p :: addrs (R.CAM_LANEk_EQ p 0) 5))))) s

/-! ### Symbols of a lane (R43 to R48) -/

/-- The groups that a lane receives become symbols; code violations and disparity errors count (R43), and the last eight violations are
remembered (R48). A lane under a test pattern carries no symbols (R61, R94). -/
def Dev.laneSyms (d : Dev) (p k : Nat) (groups : List Nat) : List Sym × Dev :=
  let x := d.lane p k
  if d.patternNow p k then ([], d)
  else
    let (syms, code, disp, rd) := decodeLane x.rd groups
    let bad := (syms.zipIdx.filter (fun s => s.1 == .bad)).map (fun s => x.seen + s.2)
    let d := d.setLane p k { x with rd := rd, seen := x.seen + groups.length, viol := (bad.reverse ++ x.viol).take 8,
                                    dwellBad := x.dwellBad + code }
    (syms, (d.bumpBy ⟨R.CAM_LANEk_ERR p k, 0, 16⟩ code).bumpBy ⟨R.CAM_LANEk_ERR p k, 16, 16⟩ disp)

/-- A lane that has received eight code violations within 1,024 consecutive symbols loses lock (R48), while the port trains or
runs. -/
def Dev.lockCheck (d : Dev) (p k : Nat) : Dev :=
  let x := d.lane p k
  let st := d.portState p
  if 4 ≤ st ∧ st ≤ 7 ∧ x.viol.length = 8 ∧ x.viol.headD 0 - x.viol.getD 7 0 < 1024 then
    (d.setLane p k { x with viol := [] }).laneFail p k
  else d

/-- The byte of a symbol where a byte is wanted: what the receiver takes for a code violation is a free value (assumption 107). -/
def Dev.symByte (d : Dev) : Sym → Byte × Dev
  | .data b => (b, d)
  | .ctl b => (b, d)
  | .bad =>
    let (v, d) := d.drawNat
    (BitVec.ofNat 8 v, d)

def Dev.symBytes (d : Dev) : List Sym → List Byte × Dev
  | [] => ([], d)
  | s :: ss =>
    let (b, d) := d.symByte s
    let (bs, d) := d.symBytes ss
    (b :: bs, d)

/-- 24 bits of PRBS-15, x^15 + x^14 + 1, first bit lowest, after the last 15 bits `w`, newest lowest (R44). -/
def prbs15Run : Nat → Nat → Nat → Nat → Nat × Nat
  | 0, w, _, acc => (acc, w)
  | n + 1, w, i, acc =>
    let b := (w / 2 ^ 14 + w / 2 ^ 13) % 2
    prbs15Run n ((w * 2 + b) % 2 ^ 15) (i + 1) (acc + b * 2 ^ i)

/-- The last 15 of 24 received bits, newest lowest. -/
def prbs15Seed (v : Nat) : Nat := (List.range 15).foldl (fun acc i => acc + v / 2 ^ (23 - i) % 2 * 2 ^ i) 0

/-- An idle ordered set of a lane (R44): the first after symbol lock synchronises the generator; later mismatching bytes count in
IDLE_ERR. In ACTIVE it counts towards the freeze of CTLE (R57). -/
def Dev.idleSet (d : Dev) (p k : Nat) (syms : List Sym) : Dev :=
  let (bs, d) := d.symBytes syms
  let x := d.lane p k
  let x := { x with idles := if d.portState p = 7 then x.idles + 1 else 0 }
  let v := leNat bs
  match x.prbs15 with
  | none => d.setLane p k { x with prbs15 := some (prbs15Seed v) }
  | some w =>
    let (want, w') := prbs15Run 24 w 0 0
    let bad := ((List.range 3).filter (fun i => want / 256 ^ i % 256 != v / 256 ^ i % 256 || syms.getD i .bad == .bad)).length
    (d.setLane p k { x with prbs15 := some w' }).bumpBy ⟨R.CAM_LANEk_ERR2 p k, 0, 16⟩ bad

/-- Symbols of a lane outside idle ordered sets and markers (R57). -/
def Dev.laneBusy (d : Dev) (p k n : Nat) : Dev :=
  if n = 0 then d else d.setLane p k { d.lane p k with idles := 0, busy := (d.lane p k).busy + n }

/-- The lanes in use agree on a marker count: the skews are shown, or DESKEW_FAIL (R47). -/
def Dev.alignLanes (d : Dev) (p : Nat) : Dev :=
  let use := d.lanesUsed p
  let ms := use.map (fun k => (d.lane p k).marker)
  match ms.head? with
  | some (some (c, t0)) =>
    if ms.all (fun m => match m with
      | some (c', _) => c' == c
      | none => false) then
      let ts := ms.map (fun m => match m with
        | some (_, t) => t
        | none => t0)
      let lo := ts.foldl min t0
      if ts.any (fun t => decide (48 < t - lo)) then d.deskewFail p
      else
        let d := (List.range ts.length).foldl (fun d i => d.put ⟨R.CAM_DESKEW p, 8 * i, 6⟩ (ts.getD i lo - lo)) d
        d.setCport p { d.cport p with agree := (d.cport p).agree + 1 }
    else d
  | _ => d

/-- Is SP about to begin or end a mirror, so that its markers may leap to the count of another lane (R60, R93)? -/
def Dev.spLeaps (d : Dev) (p k : Nat) : Bool :=
  k == 4 && ((match (d.cport p).mirror with
    | some (_, false) => true
    | _ => false) || (d.cport p).bc.any (fun c => match c.use with
    | .mirror _ _ => true
    | _ => false))

/-- Is the lane byte of a marker on SP that of a copy, while SP is to mirror a lane: physical lane 4, and the logical lane of the
mirrored lane (R46, R60)? -/
def Dev.copyByte (d : Dev) (p b : Nat) : Bool :=
  match (d.cport p).mirror with
  | some (k, false) => b / 16 % 8 == 4 && d.laneOf p (b % 8) == k
  | _ => true

/-- A marker of SP and one of the lane it mirrors agree when they carry one count (R60 step 3). -/
def Dev.mirrorSeen (d : Dev) (p : Nat) : Dev :=
  match (d.cport p).mirror, (d.lane p 4).marker with
  | some (k, false), some (c, _) =>
    let x := d.cport p
    if ((d.lane p k).marker.map (·.1)) = some c ∧ x.mirrorCount ≠ some c then
      d.setCport p { x with mirrorAgree := x.mirrorAgree + 1, mirrorCount := some c }
    else d
  | _, _ => d

/-- An alignment marker of a lane, at its symbol time of the port (R46 to R48): a wrong count or check counts AM_ERR and loses the lane
its lock, and so do two markers missed in a row; a good one aligns the lanes in use. Markers come every 16,384 symbols, so that the
time since the last one tells how many were missed. Before DESKEW, and in the low-power states, markers are not judged. -/
def Dev.markerSet (d : Dev) (p k : Nat) (syms : List Sym) (at_ : Nat) : Dev :=
  if d.portState p ≠ 6 ∧ d.portState p ≠ 7 then d
  else
    let x := d.lane p k
    match syms with
    | [.data laneByte, .data count, .data check] =>
      let (countOk, missed) := match x.marker with
        | some (c, t) =>
          let n := max 1 ((at_ - t + 8192) / 16384)
          (count.toNat == (c + n) % 256 || d.spLeaps p k, decide (3 ≤ n) && !d.spLeaps p k)
        | none => (true, false)
      if check == ~~~(laneByte ^^^ count) && countOk then
        let d := d.setLane p k { x with marker := if k = 4 && !d.copyByte p laneByte.toNat then none else some (count.toNat, at_) }
        if missed then d.laneFail p k
        else
          let d := if (d.lanesUsed p).contains k then d.alignLanes p else d
          d.mirrorSeen p
      else (d.bump ⟨R.CAM_LANEk_ERR2 p k, 16, 8⟩).laneFail p k
    | _ => (d.bump ⟨R.CAM_LANEk_ERR2 p k, 16, 8⟩).laneFail p k

/-! ### Link management (R49, R51 to R54) -/

/-- A link management message (R49). -/
structure LinkMsg where
  s1 : Byte
  a0 : Byte
  a1 : Byte
  a2 : Byte
  seq : Byte
deriving DecidableEq, Repr

def LinkMsg.ty (m : LinkMsg) : Nat := m.s1.toNat / 16
def LinkMsg.code (m : LinkMsg) : Nat := m.s1.toNat % 16

/-- The message of an ordered set: its frame and CHK hold, and its type is not reserved (R49, Table 3-4). -/
def linkOf : List Sym → Option LinkMsg
  | [.ctl f, .data s1, .data a0, .data a1, .data a2, .data seq, .data chk, .ctl e] =>
    let m : LinkMsg := { s1 := s1, a0 := a0, a1 := a1, a2 := a2, seq := seq }
    if f = kLink ∧ e = kLink ∧ chk = s1 ^^^ a0 ^^^ a1 ^^^ a2 ^^^ seq ^^^ 0x5A ∧ m.ty ≠ 0 ∧ m.ty ≠ 8 ∧ m.ty < 0xC then some m else none
  | _ => none

/-- A link management ordered set arrives on a lane: one with a wrong CHK, or of a reserved type, is discarded and counts in TS_ERR
(R49); `f` takes what it says. -/
def Dev.linkSet (d : Dev) (p k : Nat) (groups : List Nat) (f : Option LinkMsg → Dev → Dev) : Dev :=
  if 5 ≤ k then d
  else
    let (syms, d) := d.laneSyms p k groups
    let d := d.laneBusy p k syms.length
    let m := linkOf syms
    let d := if m.isNone ∧ syms ≠ [] then d.bump ⟨R.CAM_LANEk_ERR2 p k, 24, 8⟩ else d
    (f m d).lockCheck p k

/-- A row for link messages of some types: others of the table are ignored there. -/
def linkMsg (p k : Nat) (groups : List Nat) (tys : List Nat) (f : LinkMsg → Dev → Dev) (s : State) : Res :=
  onPort p (fun d => d.linkSet p k groups (fun m d => match m with
    | some m => if tys.contains m.ty then f m d else d
    | none => d)) s

/-- HELLO (R51): RATE is sent, or FAULT RATE_UNSUP when the camera's highest rate is below LANE_RATE. It comes on D0, and on SP. -/
def execHello (port lane : Nat) (groups : List Nat) (s : State) : Res :=
  linkMsg port lane groups [0xA] (fun m d =>
    if d.portState port = 1 ∧ (lane = 0 ∨ lane = 4) then
      let rate := d.fld ⟨R.CAM_CFG port, 1, 2⟩
      let d := d.put (spPresent port) (m.a1.toNat % 2)
      if m.a0.toNat < rate then d.camFault port 2
      else (d.setPortState port 2).linkSend port 0xB 0xF rate 0 0
    else d) s

/-- 100 ms in DETECT: FAULT NO_CAMERA (R51). -/
def execDetectTimeout (port : Nat) (s : State) : Res :=
  onPort port (fun d => if d.portState port = 1 then (d.expire (d.cport port).since 100000000).camFault port 1 else d) s

/-- The ACK to RATE moves the port to LOCK (R51). -/
def execRateAck (port lane : Nat) (groups : List Nat) (s : State) : Res :=
  linkMsg port lane groups [0x2] (fun _ d => if d.portState port = 2 ∧ lane = 0 then d.setPortState port 3 else d) s

/-- LOCK ends after 1 ms (R51): lanes without symbol lock are failing. An exit from Slack, in which the active lanes and SP took part,
then returns to ACTIVE with its held settings (R62, R63); otherwise every locked lane starts its sweep. -/
def execLockEnd (port : Nat) (locked : List Nat) (s : State) : Res :=
  onPort port (fun d =>
    if d.portState port ≠ 3 then d
    else
      let d := d.expire (d.cport port).since 1000000
      if (d.cport port).relock then
        let use := d.lanesUsed port
        let there := use ++ (if d.bit (spPresent port) ∧ ¬ use.contains 4 then [4] else [])
        let d := there.foldl (fun d k =>
          let x := d.lane port k
          d.setLane port k { x with locked := locked.contains k, works := x.works && locked.contains k, prbs15 := none, marker := none,
                                    rd := none, viol := [] }) d
        let lost := there.filter (fun k => !locked.contains k)
        let d := lost.foldl (fun d k => d.put (laneFailBit port k) 1) d
        if lost.all (fun k => !use.contains k) then d.camActive port false else d.camChoose port
      else
        let d := d.setPortState port 4
        (d.lanesThere port).foldl (fun d k =>
          let d := d.setLane port k { locked := locked.contains k }
          if locked.contains k then d.startSweep port k else d.put (laneFailBit port k) 1) d) s

/-- A lane sweeps: in TX_EQ, or in ACTIVE while it is retrained live. -/
def Dev.sweeping (d : Dev) (p : Nat) : Bool := d.portState p == 4 || d.portState p == 7

/-- ACK or NAK (R52, R53): the applied coefficients are in use and the dwell starts; after the REQ for the selected point the lane
works. -/
def execAck (port lane : Nat) (groups : List Nat) (s : State) : Res :=
  linkMsg port lane groups [0x2, 0x3] (fun m d =>
    let x := d.lane port lane
    let a := m.a0.toNat % 8
    let b := m.a1.toNat % 16
    let took (x : CamLane) (seq : Nat) : Dev :=
      if d.sweeping port && m.code == lane && m.seq.toNat == seq then
        ((d.setLane port lane { x with since := d.now2, dwellBad := 0 }).put ⟨R.CAM_LANEk_EQ port lane, 0, 3⟩ a).put
          ⟨R.CAM_LANEk_EQ port lane, 4, 4⟩ b
      else d
    match x.sweep with
    | .asked pre post seq _ =>
      took { x with sweep := .dwell pre post a b, naks := if m.ty = 3 then (a, b) :: x.naks else x.naks } seq
    | .last _ _ seq _ => took { x with sweep := .done, works := true } seq
    | _ => d) s

/-- 4 µs without an answer (R52): the REQ is repeated up to three times; after that the lane fails. -/
def execReqTimeout (port lane : Nat) (s : State) : Res :=
  onPort port (fun d =>
    let again (pre post seq tries : Nat) (sweep : Sweep) : Dev :=
      let d := d.expire (d.lane port lane).since 4000
      if tries < 3 then
        (d.setLane port lane { d.lane port lane with sweep := sweep, since := d.now2 }).emit (.linkMsg port (0x10 + lane) pre post 0 seq)
      else d.laneFail port lane
    match (d.lane port lane).sweep with
    | .asked pre post seq tries => again pre post seq tries (.asked pre post seq (tries + 1))
    | .last pre post seq tries => again pre post seq tries (.last pre post seq (tries + 1))
    | _ => d) s

/-- A dwell ends, 250 µs after its ACK or NAK (R53): its margin is recorded and the next point asked for, or the sweep ends. -/
def execDwellEnd (port lane margin ctle violations : Nat) (s : State) : Res :=
  onPort port (fun d =>
    match (d.lane port lane).sweep with
    | .dwell pre post a b =>
      let d := d.expire (d.lane port lane).since 250000
      let x := d.lane port lane
      let d := ((d.bumpBy ⟨R.CAM_LANEk_ERR port lane, 0, 16⟩ violations).put ⟨R.CAM_LANEk_EQ port lane, 8, 4⟩ (ctle % 16)).put
        ⟨R.CAM_LANEk_EQ port lane, 16, 8⟩ (min margin 255)
      let d := d.setLane port lane { x with best := some (betterPoint margin a b x.best) }
      match nextPoint x.naks 129 (pre * 16 + post + 1) with
      | some (pre', post') => d.sendReq port lane pre' post' 0
      | none => d.endSweep port lane (violations + x.dwellBad)
    | _ => d) s

/-- Has a lane's sweep ended, one way or the other? -/
def Sweep.over : Sweep → Bool
  | .idle => true
  | .done => true
  | _ => false

/-- TX_EQ ends (R53, R54): when every sweep has ended, or else after 40 ms. Lanes whose sweep found no working setting are failing, and
the lanes are chosen. -/
def execSweepEnd (port : Nat) (s : State) : Res :=
  onPort port (fun d =>
    if d.portState port = 4 then
      let d := if (d.lanesThere port).all (fun k => (d.lane port k).sweep.over) then d else d.expire (d.cport port).since 40000000
      ((d.lanesThere port).foldl (fun d k =>
        if (d.lane port k).works then d
        else (d.setLane port k { d.lane port k with sweep := .idle }).put (laneFailBit port k) 1) d).camChoose port
    else d) s

/-- DONE_ACK with the DONE echoed: when every lane used has sent it the port aligns (R51). -/
def execDoneAck (port lane : Nat) (groups : List Nat) (s : State) : Res :=
  linkMsg port lane groups [0x5] (fun m d =>
    let x := d.cport port
    let use := d.lanesUsed port
    let n := use.length
    let at_ := fun i => if i < n then use.getD i 0 else 0
    if d.portState port = 5 ∧ use.contains lane ∧ m.a0.toNat = n ∧ m.a1.toNat = at_ 0 + 16 * at_ 1 ∧
        m.a2.toNat = at_ 2 + 16 * at_ 3 then
      let acked := if x.acked.contains lane then x.acked else lane :: x.acked
      let d := d.setCport port { x with acked := acked, agree := 0 }
      if use.all (fun k => acked.contains k) then d.setPortState port 6 else d
    else d) s

/-- 10 µs without every DONE_ACK: DONE is sent again, up to 8 times; then FAULT NO_ACK (R51). -/
def execDoneRetry (port : Nat) (s : State) : Res :=
  onPort port (fun d =>
    if d.portState port ≠ 5 then d
    else
      let d := d.expire (d.cport port).doneAt 10000
      let x := d.cport port
      if x.dones < 8 then (d.setCport port { x with dones := x.dones + 1, doneAt := d.now2 }).sendDone port
      else d.camFault port 6) s

/-! ### Ordered sets in service (R44 to R48, R57) -/

/-- An alignment marker arrives on a lane (R46 to R48). -/
def execAlignmentMarker (l : LaneAt) (g0 g1 g2 g3 : Nat) (at_ : Nat) (s : State) : Res :=
  onPort l.port (fun d =>
    if 5 ≤ l.lane then d
    else
      let (syms, d) := d.laneSyms l.port l.lane [g0, g1, g2, g3]
      let d := if syms.head? = some (.ctl kMarker) then d.markerSet l.port l.lane (syms.drop 1) at_ else d
      d.lockCheck l.port l.lane) s

/-- The alignment is decided (R51): four consecutive agreeing markers move the port to ACTIVE; otherwise it fails. -/
def execDeskewDone (port : Nat) (s : State) : Res :=
  onPort port (fun d =>
    if d.portState port = 6 then (if 4 ≤ (d.cport port).agree then d.camActive port true else d.deskewFail port) else d) s

/-- An idle ordered set arrives on a lane (R44, R57). -/
def execIdleOrderedSet (l : LaneAt) (g0 g1 g2 g3 : Nat) (s : State) : Res :=
  onPort l.port (fun d =>
    if 5 ≤ l.lane then d
    else
      let (syms, d) := d.laneSyms l.port l.lane [g0, g1, g2, g3]
      let d := if syms.head? = some (.ctl kIdle) then d.idleSet l.port l.lane (syms.drop 1) else d
      d.lockCheck l.port l.lane) s

/-- CTLE freezes in ACTIVE once 256 idle ordered sets have come in a row (R57). -/
def execCtleFreeze (port lane : Nat) (s : State) : Res :=
  onPort port (fun d =>
    if d.portState port = 7 ∧ lane < 5 ∧ 256 ≤ (d.lane port lane).idles then
      (d.setLane port lane { d.lane port lane with busy := 0 }).put ⟨R.CAM_LANEk_EQ port lane, 12, 1⟩ 1
    else d) s

/-- CTLE resumes once 64 further symbols outside idle ordered sets and markers have come (R57). -/
def execCtleResume (port lane : Nat) (s : State) : Res :=
  onPort port (fun d =>
    if lane < 5 ∧ 64 ≤ (d.lane port lane).busy then
      (d.setLane port lane { d.lane port lane with idles := 0 }).put ⟨R.CAM_LANEk_EQ port lane, 12, 1⟩ 0
    else d) s

/-- A lane loses lock (R48): with these groups it has received eight code violations within 1,024 symbols, or it has missed two markers
in a row. It is a failing lane. -/
def execLossOfLock (port lane : Nat) (groups : List Nat) (missed : Bool) (s : State) : Res :=
  onPort port (fun d =>
    if 5 ≤ lane then d
    else
      let (syms, d) := d.laneSyms port lane groups
      let d := (d.laneBusy port lane syms.length).lockCheck port lane
      if missed && (d.portState port == 6 || d.portState port == 7) then d.laneFail port lane else d) s

/-! ### The spare lane (R58 to R60) -/

/-- SP can be taken: present, working, held by nobody, and asked for by nobody before (R58, R59). -/
def Dev.spFree (d : Dev) (p : Nat) : Bool :=
  d.bit (spPresent p) && (d.cport p).spHolder.isNone && (d.lane p 4).works

/-- A holder takes SP and asks the camera for the mirror (R60 step 1); a live retrain counts. -/
def Dev.spTake (d : Dev) (p : Nat) (h : SpHold) (k : Nat) : Dev :=
  let d := match h with
    | .retrain _ => d.bump ⟨R.CAM_RETRAIN_CNT p, 16, 16⟩
    | _ => d
  let d := (d.setCport p { d.cport p with spHolder := some h, mirror := some (k, false), mirrorAgree := 0, mirrorCount := none }).put
    (spBusy p) 1
  d.bcPush p { use := .mirror k true, code := 0x03, payload := leBytes 1 k ++ leBytes 1 1 ++ leBytes 2 0 }

/-- A request for SP: served when it is free and none waits before it, otherwise it waits in order of arrival (R59). -/
def Dev.spRequest (d : Dev) (p : Nat) (h : SpHold) (k : Nat) : Dev :=
  if d.spFree p ∧ (d.cport p).spWait = [] then d.spTake p h k
  else d.setCport p { d.cport p with spWait := (d.cport p).spWait ++ [h] }

/-- Does a live retrain of a lane find SP free, or held by calibration, which it waits for (R58, R59, R483)? -/
def Dev.spForRetrain (d : Dev) (p : Nat) : Bool :=
  d.bit (spPresent p) && (d.lane p 4).works && match (d.cport p).spHolder with
    | none => true
    | some (.recal _) => true
    | _ => false

/-- A lane's margin stays below EYE_MIN (R58): RETRAIN_REQ; live on SP when it is free or with calibration, otherwise the whole port. For
SP itself, while it carries no logical lane, the spec names no way: the whole port retrains (DESIGN CHOICE, assumption 112). -/
def execRetrainReq (port lane margin : Nat) (s : State) : Res :=
  onPort port (fun d =>
    if d.portState port ≠ 7 ∨ ¬ (lane = 4 ∧ d.bit (spPresent port) ∨ (d.lanesUsed port).contains lane) then d
    else
      let d := d.put ⟨R.CAM_LANEk_EQ port lane, 16, 8⟩ (min margin 255)
      if d.fld ⟨R.CAM_CTRL port, 8, 8⟩ ≤ margin then d
      else
        let d := d.camEvent port 2
        if lane < 4 ∧ d.spForRetrain port then d.spRequest port (.retrain lane) lane else d.camRelock port) s

/-- One second in FAULT with RETRY_EN: the port trains again (R56). -/
def execFaultRetry (port : Nat) (s : State) : Res :=
  onPort port (fun d =>
    if d.portState port = 10 ∧ d.bit ⟨R.CAM_CFG port, 3, 1⟩ then (d.expire (d.cport port).since 1000000000).camDetect port else d) s

/-- SP is free and the oldest waiting request is served (R59). -/
def execSpGrant (port : Nat) (s : State) : Res :=
  onPort port (fun d =>
    match (d.cport port).spWait with
    | [] => d
    | h :: hs =>
      if d.spFree port then
        let d := d.setCport port { d.cport port with spWait := hs }
        match h with
        | .retrain k => d.spTake port h k
        | .recal k => d.spTake port h k
        | .replace => d
      else d) s

/-- SP mirrors lane k: with symbol lock and four markers that agree with lane k, logical lane k is taken from SP (R60 step 3); a lane
under retraining sweeps. -/
def execSpareMirror (port : Nat) (s : State) : Res :=
  onPort port (fun d =>
    match (d.cport port).mirror with
    | some (k, false) =>
      if (d.lane port 4).works ∧ 4 ≤ (d.cport port).mirrorAgree then
        let d := (d.setCport port { d.cport port with mirror := some (k, true) }).remapLane port k 4
        match (d.cport port).spHolder with
        | some (.retrain _) => d.startSweep port k
        | _ => d
      else d
    | _ => d) s

/-- May the mirror of a lane end: its logical lane comes from SP, and a lane under retraining has ended its sweep (R60 step 4)? -/
def Dev.mirrorOver (d : Dev) (p k : Nat) : Bool :=
  (d.cport p).mirror == some (k, true) && match (d.cport p).spHolder with
    | some (.retrain _) => (d.lane p k).sweep.over
    | _ => true

/-- Logical lane k returns to lane k and the mirror is released (R60 step 4, R93); when SP has lost lock the mirror is
abandoned and lane k stays the source. A calibration item goes on with the next data lane, or is abandoned (R481, R483). -/
def execSpareReturn (port : Nat) (spLost : Bool) (s : State) : Res :=
  onPort port (fun d =>
    match (d.cport port).mirror with
    | some (k, _) =>
      let stop := fun (d : Dev) =>
        d.bcPush port { use := .mirror k false, code := 0x03, payload := leBytes 1 k ++ leBytes 1 0 ++ leBytes 2 0 }
      if spLost then stop (d.laneFail port 4)
      else if d.mirrorOver port k then
        let recal := match (d.cport port).spHolder with
          | some (.recal _) => true
          | _ => false
        let d := stop (d.mirrorDrop port)
        if recal && decide (k < 3) && d.cal.running.contains port then d.spRequest port (.recal (k + 1)) (k + 1) else d
      else d
    | none => d) s

/-! ### Low power (R62, R63) -/

/-- LP_IDLE_T in nanoseconds: 0 is treated as 1 ms (Table 3-9). -/
def Dev.lpIdleNs (d : Dev) (p : Nat) : Nat := max 1 (d.fld ⟨R.CAM_CFG p, 16, 16⟩) * 1000000

/-- Automatic entry: LP_AUTO is 1, the line-speed source still, and the port has received no line for LP_IDLE_T (R62). -/
def execLpIdleT (port : Nat) (s : State) : Res :=
  onPort port (fun d =>
    if d.bit ⟨R.CAM_CFG port, 4, 1⟩ && d.still d.lss && d.portState port == 7 then
      let x := d.cport port
      (d.expire (max x.lineAt x.since) (d.lpIdleNs port)).lpRequest port (1 + d.fld ⟨R.CAM_CFG port, 5, 1⟩)
    else d) s

/-- The entry ordered set (R62): any copy that checks brings the port into EBB or SLACK (R49). An exit wanted meanwhile is sent once
every active lane has brought its set, a copy that does not check among them (R65; DEDUCED, assumption 113). -/
def execEbbEnter (port lane : Nat) (groups : List Nat) (s : State) : Res :=
  onPort port (fun d => d.linkSet port lane groups (fun m d =>
    let st := d.portState port
    let x := d.cport port
    if x.lpAsked.isSome ∨ st = 8 ∨ st = 9 then
      let d := d.setCport port { x with acked := if x.acked.contains lane then x.acked else lane :: x.acked }
      let d := match m with
        | some m =>
          if st = 7 ∧ (m.ty = 6 ∨ m.ty = 7) ∧ x.lpAsked = some (m.ty - 5) then
            ((d.setCport port { d.cport port with lpAsked := none }).setPortState port (if m.ty = 6 then 8 else 9)).camEvent port 6
          else d
        | none => d
      if d.portState port ≠ 7 ∧ (d.cport port).lpExit ∧ d.entryDone port then
        (d.setCport port { d.cport port with lpExit := false }).lpRequest port 0
      else d
    else d)) s

/-- The camera wakes (R63): from Ebb the port is ACTIVE again; from Slack it locks first, keeping its settings. -/
def execLpExit (port : Nat) (s : State) : Res :=
  onPort port (fun d =>
    if d.portState port = 8 then d.camActive port false
    else if d.portState port = 9 then (d.setCport port { d.cport port with relock := true }).setPortState port 3
    else d) s

end Sys2Proof.Machine
end

