-- ==== Sys2Proof/Machine/Host.lean ====
section
/-! DEFINITION. The USB4 host interface: the global mailbox commands and the log, the DMA engines in ring and copy mode, and
attachment (R342 to R362). -/

namespace Sys2Proof.Machine

/-! ### Global commands (R360) -/

/-- 0x0101 GLB_INFO: GLB registers 0x0000 to 0x0474, then HIF_STATUS. -/
def execGlbInfo (tag : Word) (args : List Word) (s : State) : Res :=
  onDev (fun d => d.mailbox 0x0101 false (args.length == 0) tag args fun d =>
    .ok d (d.regsBytes (listedIn 0x0 0x474 ++ [R.HIF_STATUS]))) s

/-- The 48 bytes of a log entry (Table 16-7). Each datum takes eight bytes of DATA. DESIGN CHOICE (assumption 23). -/
def LogEntry.bytes (e : LogEntry) : List Byte :=
  leBytes 4 e.seq ++ leBytes 2 e.unit ++ leBytes 2 (Config.logCode e.what.ctorIdx).toNat ++ leBytes 8 e.t2 ++ e.t0.bytes ++
  leBytes 4 0 ++ (e.data.flatMap (fun x => leBytes 8 x) ++ List.replicate 16 0).take 16

/-- 0x0102 LOG_READ. -/
def execLogRead (tag : Word) (args : List Word) (s : State) : Res :=
  onDev (fun d => d.mailbox 0x0102 false (args.length == 2) tag args fun d =>
    let n := (args.getD 1 0).toNat
    if n = 0 ∨ 5461 < n then .fail stBadArg
    else
      match d.glb.log.reverse.dropWhile (fun e => e.seq != (args.getD 0 0).toNat) with
      | [] => .fail stNotFound
      | es => .ok d ((es.take n).flatMap LogEntry.bytes)) s

/-- 0x0103 GLB_RESET: it replies; the reset follows the reply, at MAILBOX_COMPLETION. -/
def execGlbReset (tag : Word) (args : List Word) (s : State) : Res :=
  onDev (fun d => d.mailbox 0x0103 true (args.length == 0) tag args fun d => .ok d []) s

/-- Is a code one of Table 16-5 and of the chapters it names (R359)? -/
def codeDefined (c : Nat) : Bool :=
  let n := c % 0x100
  decide (0 < n) && match c / 0x100 with
    | 0x01 => decide (n ≤ 3)
    | 0x02 => decide (n ≤ 0xA)
    | 0x03 => decide (n ≤ 0xB)
    | 0x05 => decide (n ≤ 5)
    | 0x06 => decide (n ≤ 3)
    | 0x07 => decide (n ≤ 4)
    | 0x08 => decide (n ≤ 5)
    | 0x09 => decide (n ≤ 5)
    | 0x0A => decide (n ≤ 3)
    | 0x0C => decide (n ≤ 5)
    | 0x0D => decide (n ≤ 2)
    | 0x0E => decide (n ≤ 4)
    | 0x0F => decide (n ≤ 5)
    | 0x10 => decide (n ≤ 0x10)
    | 0x11 => decide (n ≤ 3)
    | 0x12 => decide (n ≤ 5)
    | _ => false

/-- A doorbell write with a code of no command: BAD_CODE before any other check (R358). A defined code is another row. -/
def execBadCode (code : Nat) (tag : Word) (args : List Word) (s : State) : Res :=
  onDev (fun d =>
    if codeDefined code then d
    else
      let d := d.mbWrite tag args
      if d.mbBusy then d.dbOverrun else (d.mbStart code tag).mbReply stBadCode []) s

/-- A doorbell write while BUSY is 1 is dropped (R357). -/
def execDbOverrun (_v : Word) (s : State) : Res := onDev (fun d => if d.mbBusy then d.dbOverrun else d) s

/-- A BAR0 access of another size or alignment (R344). -/
def execBar0Size (read : Bool) (s : State) : Res :=
  onDev (fun d =>
    let d := d.sticky ⟨R.HIF_EVENT, 0, 1⟩ 1 true
    if read then d.emit (.barRead (leBytes 4 0) false) else d) s

/-! ### DMA engines (R348 to R353) -/

def Dev.dmaCopyMode (d : Dev) (e : Nat) : Bool := d.bit ⟨R.HIF_DMAe_CFG e, 1, 1⟩

/-- Entries of the host ring: 2^SIZE, SIZE 4 to 20, others treated as 4. -/
def Dev.dmaEntries (d : Dev) (e : Nat) : Nat :=
  let z := d.fld ⟨R.HIF_DMAe_CFG e, 2, 5⟩
  2 ^ (if 4 ≤ z ∧ z ≤ 20 then z else 4)

/-- WR − RD modulo 2^32. -/
def Dev.dmaHeld (d : Dev) (e : Nat) : Nat := (d.reg (R.HIF_DMAe_WR e) - d.reg (R.HIF_DMAe_RD e)).toNat

/-- The rings an engine serves that hold a record, one entry per record in placement order (R236, R349). -/
def Dev.dmaHeads (d : Dev) (e : Nat) : List Nat :=
  d.shf.placed.filter (fun n => d.ringDest n == 2 && d.ringEngine n == e && !(d.ringElems n).isEmpty)

/-- Ring-mode work that can go on. -/
def Dev.dmaRingWork (d : Dev) (e : Nat) : Bool :=
  d.engineRunning e && !d.dmaCopyMode e && decide (d.dmaHeld e < d.dmaEntries e) && !(d.dmaHeads e).isEmpty

/-- A copy engine has a descriptor. -/
def Dev.dmaCopyWork (d : Dev) (e : Nat) : Bool := d.engineRunning e && d.dmaCopyMode e && d.dmaHeld e != 0

/-- Engines of one mode take turns in ascending number (R351): is it e's turn after `last`? -/
def turnOf (work : Nat → Bool) (last e : Nat) : Bool :=
  ((List.range 16).map (fun i => (last + 1 + i) % 16)).find? work == some e

/-- FULL shows a ring-mode host ring without free space (R348, R349); a promotion stands while its engine has a descriptor (R351). -/
def Dev.dmaShow (d : Dev) (e : Nat) : Dev :=
  let d := { d with hif := { d.hif with promoted := d.hif.promoted.filter d.dmaCopyWork } }
  d.putBit ⟨R.HIF_DMAe_STATUS e, 2, 1⟩ (!d.dmaCopyMode e && decide (d.dmaEntries e ≤ d.dmaHeld e))

/-- The next descriptor of an engine waits for service from now on (R351). -/
def Dev.dmaWaits (d : Dev) (e : Nat) : Dev := { d with hif := { d.hif with waitFrom := tset (fun _ => 0) d.hif.waitFrom e d.now2 } }

/-- A write-back covers n entries: the vector is requested once INT_CNT of them have been written since the last (R353). -/
def Dev.dmaSignal (d : Dev) (e n : Nat) : Dev :=
  let old := tget (fun _ => 0) d.hif.unsignalled e
  let u := old + n
  let due := decide (max 1 (d.fld ⟨R.HIF_DMAe_MOD e, 16, 16⟩) ≤ u)
  let first := if old = 0 then d.now2 else tget (fun _ => 0) d.hif.signalAt e
  let d := { d with hif := { d.hif with unsignalled := tset (fun _ => 0) d.hif.unsignalled e (if due then 0 else u)
                                        signalAt := tset (fun _ => 0) d.hif.signalAt e first } }
  if due then d.irq (2 + e) else d

/-- A write of RUN = 1: the engine starts in its mode (R355). -/
def execDmaRun (e : Nat) (v : Word) (s : State) : Res :=
  onDev (fun d =>
    if 16 ≤ e ∨ v.toNat % 2 = 0 then d
    else
      let worked := d.dmaCopyWork e
      let d := d.put ⟨R.HIF_DMAe_CFG e, 0, 7⟩ v.toNat
      let d := { d with hif := { d.hif with d3hot := false } }
      let d := if d.engineRunning e then d
        else (d.put ⟨R.HIF_DMAe_STATUS e, 0, 1⟩ 1).put ⟨R.HIF_DMAe_STATUS e, 1, 1⟩ 0
      (if worked then d else d.dmaWaits e).dmaShow e) s

/-- An engine stops between two takes (R352): what it has promoted or begun goes with it. -/
def Dev.dmaHalt (d : Dev) (e : Nat) : Dev :=
  let d := d.put ⟨R.HIF_DMAe_STATUS e, 0, 1⟩ 0
  { d with hif := { d.hif with promoted := d.hif.promoted.filter (fun x => x != e)
                               copied := tset (fun _ => 0) d.hif.copied e 0 } }

/-- A write of RUN = 0 (R352). -/
def execDmaStop (e : Nat) (v : Word) (s : State) : Res :=
  onDev (fun d =>
    if 16 ≤ e ∨ v.toNat % 2 = 1 then d
    else ((d.put ⟨R.HIF_DMAe_CFG e, 0, 7⟩ v.toNat).dmaHalt e).dmaShow e) s

/-- A host write to WR: it posts descriptors in copy mode, and is RO in ring mode (R350, R362). -/
def execDmaWr (e : Nat) (v : Word) (s : State) : Res :=
  onDev (fun d =>
    if e < 16 ∧ d.dmaCopyMode e then
      let e' := d.setReg (R.HIF_DMAe_WR e) v
      (if d.dmaCopyWork e then e' else e'.dmaWaits e).dmaShow e
    else d) s

/-- A host write to RD: it frees entries in ring mode, and is RO in copy mode (R348, R362). -/
def execDmaRd (e : Nat) (v : Word) (s : State) : Res :=
  onDev (fun d => if e < 16 ∧ !d.dmaCopyMode e then (d.setReg (R.HIF_DMAe_RD e) v).dmaShow e else d) s

/-- The records that a burst of up to n takes, each with its ring: as many as the host ring has room for, the ring whose head was
placed earliest first (R348, R349). -/
def Dev.dmaTake (d : Dev) (e n : Nat) : List (Nat × Nat) :=
  let rs := (d.dmaHeads e).take (min n (d.dmaEntries e - d.dmaHeld e))
  (List.range rs.length).map fun i =>
    let r := rs.getD i 0
    (r, (d.ringElems r).getD ((rs.take i).filter (· == r)).length 0)

/-- One record goes to entry WR mod 2^SIZE, and WR advances (R348). -/
def Dev.dmaEntry (d : Dev) (e elem : Nat) : Dev :=
  match d.memRead 0x07 (d.elemAddr elem) 128 with
  | (bs, _, d) =>
    let wr := d.reg (R.HIF_DMAe_WR e)
    let d := d.emit (.hostWrite (d.reg64 (R.HIF_DMAe_BASE_LO e) + 128 * (wr.toNat % d.dmaEntries e)) bs)
    (d.setReg (R.HIF_DMAe_WR e) (wr + 1)).bump ⟨R.HIF_DMAe_CNT e, 0, 32⟩

/-- A burst of a ring-mode engine: records taken, WR written back as eight bytes, then the vector; a record counts as
delivered with the write-back that covers it (R348, R349, R351). -/
def Dev.dmaBurst (d : Dev) (e n : Nat) : Dev :=
  if e < 16 ∧ 0 < n ∧ d.hif.promoted.isEmpty ∧ turnOf d.dmaRingWork d.hif.lastRing e then
    let takes := d.dmaTake e n
    let d := takes.foldl (fun d t => d.dmaEntry e t.2) d
    let d := d.emit (.hostWrite (d.reg64 (R.HIF_DMAe_WB_LO e)) (leBytes 8 (d.reg (R.HIF_DMAe_WR e)).toNat))
    let d := takes.foldl (fun d t => d.ringPop t.1) d
    let d := { d with hif := { d.hif with lastRing := e } }
    (d.dmaShow e).dmaSignal e takes.length
  else d

/-- DMA_BURST (R351). -/
def execDmaBurst (e n : Nat) (s : State) : Res := onFab (fun d => d.dmaBurst e n) s

/-- The end of a copy descriptor: bytes 20 to 23 written back, RD advanced, and RD written back when IRQ is set (R350). -/
def Dev.copyEnd (d : Dev) (e cflags : Nat) (err : Bool) : Dev :=
  let rd := d.reg (R.HIF_DMAe_RD e)
  let at_ := d.reg64 (R.HIF_DMAe_BASE_LO e) + 32 * (rd.toNat % d.dmaEntries e)
  let d := d.emit (.hostWrite (at_ + 20) (leBytes 4 (cflags % 2 + (if err then 2 else 0) + 4)))
  let d := (d.setReg (R.HIF_DMAe_RD e) (rd + 1)).bump ⟨R.HIF_DMAe_CNT e, 0, 32⟩
  let d := ({ d with hif := { d.hif with copied := tset (fun _ => 0) d.hif.copied e 0 } }).dmaWaits e
  if cflags % 2 = 1 then
    (d.emit (.hostWrite (d.reg64 (R.HIF_DMAe_WB_LO e)) (leBytes 8 (rd + 1).toNat))).dmaSignal e 1
  else d

/-- A copy-mode engine is served (R350, R351): its next descriptor whole, or, promoted above waiting ring work, one burst of
AGE_BURST bytes of it. -/
def execCopyDescriptor (e : Nat) (desc : List Byte) (fault : Bool) (s : State) : Res :=
  onFab (fun d =>
    let ring := (List.range 16).any d.dmaRingWork
    let prom := d.hif.promoted.head? == some e
    if e < 16 ∧ d.dmaCopyWork e ∧
        (prom ∨ (d.hif.promoted.isEmpty ∧ !ring ∧ turnOf d.dmaCopyWork d.hif.lastCopy e)) then
      let src := fieldAt desc 0 8
      let dst := fieldAt desc 8 8
      let len := fieldAt desc 16 4
      let cf := fieldAt desc 20 4
      let d := { d with hif := { d.hif with promoted := d.hif.promoted.filter (fun x => x != e)
                                            lastCopy := if prom then d.hif.lastCopy else e } }
      if len = 0 ∨ 16777216 < len ∨ d.variant.dramBytes < src + len ∨ 8 ≤ cf then d.copyEnd e cf true
      else if fault then
        ((d.put ⟨R.HIF_DMAe_STATUS e, 1, 1⟩ 1).dmaHalt e).sticky ⟨R.HIF_EVENT, 2, 1⟩ 1 true
      else
        let from_ := tget (fun _ => 0) d.hif.copied e
        let n := if ring then min (len - from_) (1024 * max 1 (d.fld ⟨R.HIF_AGE_CFG, 16, 16⟩)) else len - from_
        let (bs, err, d) := d.memRead 0x07 (src + from_) n
        let d := d.emit (.hostWrite (dst + from_) bs)
        if from_ + n < len then
          ({ d with hif := { d.hif with copied := tset (fun _ => 0) d.hif.copied e (from_ + n) } }).dmaWaits e
        else d.copyEnd e cf err
    else d) s

/-- INT_T has passed since the first unsignalled entry: 0 treated as 1 µs (R353). -/
def execIntT (e : Nat) (s : State) : Res :=
  onDev (fun d =>
    if tget (fun _ => 0) d.hif.unsignalled e = 0 then d
    else
      let d := d.expire (tget (fun _ => 0) d.hif.signalAt e) (max 1 (d.fld ⟨R.HIF_DMAe_MOD e, 0, 16⟩) * 1000)
      ({ d with hif := { d.hif with unsignalled := tset (fun _ => 0) d.hif.unsignalled e 0 } }).irq (2 + e)) s

/-- A copy descriptor that has waited AGE_T, 0 treated as 100 µs, is promoted above ring work for one burst (R351). -/
def execAgeT (e : Nat) (s : State) : Res :=
  onDev (fun d =>
    if e < 16 ∧ d.dmaCopyWork e ∧ !d.hif.promoted.contains e then
      let d := d.expire (tget (fun _ => 0) d.hif.waitFrom e) (max 1 (d.fld ⟨R.HIF_AGE_CFG, 0, 16⟩) * 100000)
      { d with hif := { d.hif with promoted := d.hif.promoted ++ [e] } }
    else d) s

/-- What the tunnelled function says of itself (R343): vendor, revision, class code, the largest payload and read request, and
its MSI-X vectors; the device number is the variant's. -/
structure PciIdentity where
  vendor : Nat
  device : Nat
  revision : Nat
  classCode : Nat
  maxPayload : Nat
  maxRead : Nat
  vectors : Nat
deriving DecidableEq, Repr

def Variant.pci (v : Variant) : PciIdentity :=
  { vendor := 0x1F3A, device := v.device, revision := 0xB0, classCode := 0x118000, maxPayload := 512, maxRead := 4096, vectors := 64 }

/-- D3hot stops every engine; inspection goes on (R343). -/
def execD3hot (s : State) : Res :=
  onDev (fun d =>
    let d := (List.range 16).foldl (fun d e => d.dmaHalt e) d
    { d with hif := { d.hif with d3hot := true } }) s

/-- The link trains and the function enumerates, every engine stopped (R342, R355). -/
def execAttach (gen2 : Bool) (s : State) : Res :=
  onDev (fun d =>
    let d := d.putBit ⟨R.HIF_STATUS, 0, 2⟩ gen2
    { d with hif := { d.hif with attached := true, d3hot := false } }) s

end Sys2Proof.Machine
end

