-- ==== Sys2Proof/Machine/Net.lean ====
section
/-! DEFINITION. The network ports: what they accept, roles and the plant arbiter, the switchover, self-test and health, the
record stream, and the status responder (R320 to R341). -/

namespace Sys2Proof.Machine

/-! ### Ports -/

/-- A NET_EVENT bit sets; it interrupts when enabled (vector 21). -/
def Dev.netEvent (d : Dev) (bit : Nat) : Dev := d.sticky ⟨R.NET_EVENT, bit, 1⟩ 21 (d.bit ⟨R.NET_IRQ_EN, bit, 1⟩)

def Dev.netMac (d : Dev) (p : Nat) : Nat := d.reg64 (R.NETP_MAC_LO p) % 2 ^ 48
def Dev.netDeviceId (d : Dev) : Nat := d.reg64 R.NET_DEVICE_ID_LO % 2 ^ 48

/-- A frame leaves a port. -/
def Dev.netFrame (d : Dev) (p dst etype : Nat) (payload : List Byte) : Dev :=
  (d.netTx p).emit (.frame p (d.netTag p) dst etype payload)

/-- The 16-bit sum of bytes as big-endian words, for the checksum of a datagram. -/
def beSum : List Byte → Nat
  | [] => 0
  | [a] => a.toNat * 256
  | a :: b :: bs => a.toNat * 256 + b.toNat + beSum bs

/-- The UDP checksum over pseudo header, header and payload; a sum of 0 is sent as all ones (R336). -/
def udpChecksum (srcIp dstIp srcPort dstPort : Nat) (payload : List Byte) : Nat :=
  let n := payload.length + 8
  let s := srcIp / 65536 + srcIp % 65536 + dstIp / 65536 + dstIp % 65536 + 17 + n + srcPort + dstPort + n + beSum payload
  let s := s % 65536 + s / 65536
  let s := s % 65536 + s / 65536
  if 65535 ≤ s then 65535 else 65535 - s

/-- A UDP datagram leaves a port. -/
def Dev.netUdp (d : Dev) (p dstMac dstIp srcPort dstPort : Nat) (payload : List Byte) : Dev :=
  let src := (d.reg (R.NETP_IP p)).toNat
  (d.netTx p).emit (.udp p (d.netTag p) dstMac src dstIp srcPort dstPort (udpChecksum src dstIp srcPort dstPort payload) payload)

/-! ### Roles (R320, R324, R325) -/

/-- ROLE of both ports follows the enables and the active port. -/
def Dev.netRoles (d : Dev) : Dev :=
  (List.range d.variant.netPorts).foldl (fun d p =>
    d.put ⟨R.NETP_STATUS p, 12, 2⟩ (if !d.netEn p then 2 else if d.netActive == some p then 1 else 0)) d

/-- A port takes the active role. -/
def Dev.netSetActive (d : Dev) (p : Nat) : Dev := ((d.put ⟨R.NET_STATUS, 0, 1⟩ p).put ⟨R.NET_STATUS, 1, 1⟩ 1).netRoles

/-! ### The record stream (R336, R337) -/

/-- The 32-byte header of a datagram (Table 15-6). -/
def Dev.netHeader (d : Dev) (p count fflags ring : Nat) : List Byte :=
  let h := leBytes 4 0x53524743 ++ leBytes 1 1 ++ leBytes 1 count ++ leBytes 1 p ++ leBytes 1 fflags ++
    leBytes 8 (d.fld ⟨R.REC_SEQ_HI, 20, 12⟩ * 2 ^ 52 + ((d.netPort p).sent + 1) % 2 ^ 52) ++ leBytes 6 d.netDeviceId ++
    leBytes 2 ring ++ leBytes 4 0
  h ++ leBytes 4 (crc32c h)

/-- A record stream datagram leaves a port. -/
def Dev.netSend (d : Dev) (p dstMac dstIp dstPort count fflags ring : Nat) (body : List Byte) : Dev :=
  let h := d.netHeader p count fflags ring
  let d := d.setNetPort p { d.netPort p with sent := (d.netPort p).sent + 1 }
  d.netUdp p dstMac dstIp (d.fld ⟨R.NETP_UDP p, 0, 16⟩) dstPort (h ++ body)

/-- Does the dual-transmit window stand (R330)? -/
def Dev.netDual (d : Dev) : Bool := d.bit ⟨R.NET_STATUS, 4, 1⟩ && !d.timeUp d.net.dual 8000

/-- The oldest closed datagram leaves a port. -/
def Dev.frameOut (d : Dev) (p : Nat) (f : NetFrame) : Dev :=
  d.netSend p (d.reg64 (R.NETP_DST_MAC_LO p) % 2 ^ 48) (d.reg (R.NETP_DST_IP p)).toNat (d.fld ⟨R.NETP_UDP p, 16, 16⟩)
    f.elems.length (if d.netDual then 1 else 0) f.ring f.recs.flatten

/-- Its records are delivered: each leaves its ring, and the port goes on. -/
def Dev.frameDone (d : Dev) (p : Nat) (f : NetFrame) : Dev :=
  d.fabric fun d => (f.elems.foldl (fun d _ => d.ringPop f.ring) d).netFill p

/-! ### The switchover (R329 to R331) -/

/-- A switchover starts (R329): the old port takes no further record, its closed datagrams still leave; the new port takes
over at the oldest record whose frame had not left. -/
def Dev.netSwitch (d : Dev) (old new : Nat) : Dev :=
  let d := if d.bit ⟨R.NETP_STATUS new, 5, 1⟩ then d else d.netEvent 3
  let d := d.setNetPort old { d.netPort old with cur := none }
  let d := d.setNetPort new { d.netPort new with fifo := [], cur := none }
  let d := { d with net := { d.net with switch := some (new, d.now2), dual := d.now2 } }
  ((d.put ⟨R.NET_STATUS, 3, 1⟩ 1).put ⟨R.NET_STATUS, 4, 1⟩ 1).fabric fun d => d.netFill new

/-- The arbiter names a port (R324, R325, R329, R331). -/
def Dev.netName (d : Dev) (p : Nat) : Dev :=
  if !d.netEn p then (d.bump ⟨R.NET_GRANT_ERR, 8, 8⟩).netEvent 10
  else if d.net.switch.isSome then { d with net := { d.net with held := some p } }
  else if !d.inspReady then d
  else
    match d.netActive with
    | none => (d.netSetActive p).fabric fun d => d.netFill p
    | some a => if a = p then d else d.netSwitch a p

/-- GRANT_OK is refreshed; after GRANT_LOST it raises GRANT_BACK (R328). -/
def Dev.grantRefresh (d : Dev) : Dev :=
  let d := if d.net.lost then d.netEvent 2 else d
  ({ d with net := { d.net with lost := false, since := d.now2 } }).put ⟨R.NET_STATUS, 2, 1⟩ 1

/-- The new port's first frame completes the switchover; a held grant then applies (R329, R331). -/
def Dev.netSwitched (d : Dev) (p t : Nat) : Dev :=
  let d := { d with net := { d.net with switch := none } }
  let d := ((d.put ⟨R.NET_STATUS, 3, 1⟩ 0).netSetActive p).bump ⟨R.NET_SWITCH_CNT, 0, 32⟩
  let d := ((d.keepMax ⟨R.NET_GAP_MAX, 0, 24⟩ (d.now2 - t)).netEvent 0).raise 0x7 0
  match d.net.held with
  | none => d
  | some h => ({ d with net := { d.net with held := none } }).netName h

/-- A frame of the port is the first of a switchover to it: that switchover is complete. -/
def Dev.netFirst (d : Dev) (p : Nat) : Dev :=
  match d.net.switch with
  | some (q, t) => if q = p then d.netSwitched p t else d
  | none => d

/-- The frame in progress has fully left: it counts, and on the port that carries the stream its records are delivered
(R330). The DUAL window marks it. On the new port of a switchover it is the first, if none went before (R329). -/
def execFrameSent (port : Nat) (s : State) : Res :=
  onDev (fun d =>
    if port < d.variant.netPorts ∧ d.netLink port then
      let d := d.fabric fun d => d.netFill port
      match (d.netPort port).fifo with
      | [] => d
      | f :: rest =>
        let carries := decide (d.netSender = some port)
        let d := (d.frameOut port f).setNetPort port { (d.frameOut port f).netPort port with fifo := rest }
        let d := if carries then d.frameDone port f else d
        d.netFirst port
    else d) s

/-- BATCH_T closes the open datagram with the records it has (R337). -/
def execBatchT (port : Nat) (s : State) : Res :=
  onDev (fun d =>
    match (d.netPort port).cur with
    | none => d
    | some c => if c.due then d else (d.expire c.t d.batchT).fabric fun d => d.netDue port) s

/-- Roles at INSP_READY (R320, R324, R325): the only enabled port, else the one INIT_PORT names; with WAIT none until the
arbiter names one, an ARB_SEL level that has already counted included. -/
def Dev.netReady (d : Dev) : Dev :=
  let en := (List.range 2).filter d.netEn
  match en with
  | [] => d.netRoles
  | [p] => d.netSetActive p
  | _ =>
    match d.fld ⟨R.NET_CFG, 2, 2⟩ with
    | 1 => d.netSetActive 1
    | 2 =>
      if d.bit ⟨R.NET_CFG, 4, 1⟩ && d.net.selSeen then
        d.netSetActive (if d.fld ⟨R.NET_STATUS, 5, 1⟩ = d.fld ⟨R.NET_CFG, 5, 1⟩ then 1 else 0)
      else d.netRoles
    | _ => d.netSetActive 0

/-- The NONCE of the port's PROBE comes back (R333, R334): PROBE_RTT. -/
def Dev.probeEcho (d : Dev) (p nonce : Nat) : Dev :=
  let x := d.netPort p
  match x.probe with
  | some (v, t) =>
    if v = nonce ∧ x.rtt = none then
      (d.setNetPort p { x with rtt := some (d.now2 - t) }).setReg (R.NETP_PROBE_RTT p)
        (BitVec.ofNat 32 (min (d.now2 - t) 0xFFFFFFFE))
    else d
  | none => d

/-- A grant frame's payload on a port (R326, R327). -/
def Dev.grant (d : Dev) (p src : Nat) (pl : List Byte) : Dev :=
  let err (lo : Nat) := d.bump ⟨R.NET_GRANT_ERR, lo, 8⟩
  let whole := decide (32 ≤ pl.length) && byteAt pl 0 == 1 && byteAt pl 1 == 1 && crc32c (pl.take 28) == fieldAt pl 28 4
  let pin := d.bit ⟨R.NET_CFG, 4, 1⟩
  let d := if whole then d.probeEcho p (fieldAt pl 16 8) else d
  if d.variant.netPorts = 1 then d
  else if pin then d.bump ⟨R.NET_GRANT_ERR, 24, 8⟩
  else if !whole then err 0
  else
    let arb := d.fld ⟨R.NET_ARB_CFG, 0, 16⟩
    let target := fieldAt pl 8 6
    let gp := byteAt pl 14
    let seq := fieldAt pl 4 4
    if fieldAt pl 2 2 ≠ arb ∨ (target ≠ d.netDeviceId ∧ target ≠ 0xFFFFFFFFFFFF) ∨ 2 ≤ gp then d.bump ⟨R.NET_GRANT_ERR, 8, 8⟩
    else if d.net.granted ∧ toSigned 32 (seq + 2 ^ 32 - (d.reg R.NET_GRANT_SEQ).toNat) ≤ 0 then
      d.bump ⟨R.NET_GRANT_ERR, 16, 8⟩
    else
      let d := { d with net := { d.net with granted := true } }
      let d := (d.setReg R.NET_GRANT_SEQ (BitVec.ofNat 32 seq)).setReg R.NET_LAST_GRANT
        (BitVec.ofNat 32 (arb + gp * 2 ^ 16 + p * 2 ^ 17))
      let d := d.setNetPort p { d.netPort p with grant := some (src, seq, arb, gp) }
      d.grantRefresh.netName gp

/-- A frame of GRANT_ETYPE for the port's MAC or for all (R323, R327). -/
def execGrant (w : NetWire) (dst src : Nat) (payload : List Byte) (s : State) : Res :=
  onDev (fun d => d.netIn w.port w fun d =>
    if dst = d.netMac w.port ∨ dst = 0xFFFFFFFFFFFF then d.grant w.port src payload else d.netDiscard w.port) s

/-- A counted ARB_SEL level (R326). -/
def execArbSel (level : Bool) (s : State) : Res :=
  onDev (fun d =>
    let d := d.putBit ⟨R.NET_STATUS, 5, 1⟩ level
    let d := { d with net := { d.net with selSeen := true } }
    if d.variant.netPorts = 2 ∧ d.bit ⟨R.NET_CFG, 4, 1⟩ then
      d.grantRefresh.netName (if d.fld ⟨R.NET_STATUS, 5, 1⟩ = d.fld ⟨R.NET_CFG, 5, 1⟩ then 1 else 0)
    else d) s

/-- The new port starts its first frame, closed with the records that wait, and the switchover is complete (R329, R331). With no
link or nothing to carry it goes on (DEDUCED, assumption 125). -/
def execSwitched (s : State) : Res :=
  onDev (fun d =>
    match d.net.switch with
    | none => d
    | some (p, t) =>
      if d.netLink p then
        let d := d.fabric fun d => d.netFill p
        let d := if (d.netPort p).fifo = [] then d.fabric fun d => d.netDue p else d
        if (d.netPort p).fifo = [] then d else d.netSwitched p t
      else d) s

/-- The dual-transmit window closes 8 µs after the arrival point (R330). -/
def execDualWindowEnd (s : State) : Res :=
  onDev (fun d => if d.bit ⟨R.NET_STATUS, 4, 1⟩ then (d.expire d.net.dual 8000).put ⟨R.NET_STATUS, 4, 1⟩ 0 else d) s

/-- GRANT_TO in ns: 0 treated as 1 ms. -/
def Dev.grantTo (d : Dev) : Nat := max 1 (d.fld ⟨R.NET_ARB_TIME, 0, 8⟩) * 1000000

/-- GRANT_TO since GRANT_OK was refreshed, in either mode of the arbiter: the active port stays (R328). -/
def execGrantLost (s : State) : Res :=
  onDev (fun d =>
    if d.net.lost then d
    else
      let d := d.expire d.net.since d.grantTo
      (({ d with net := { d.net with lost := true } }).put ⟨R.NET_STATUS, 2, 1⟩ 0).netEvent 1) s

/-- A port loses its link and keeps its role; its records stay in their rings (R328). -/
def execLinkDown (port : Nat) (s : State) : Res :=
  onDev (fun d =>
    if port < d.variant.netPorts ∧ d.netLink port then
      let d := (d.put ⟨R.NETP_STATUS port, 0, 3⟩ 0).setNetPort port { d.netPort port with cycDown := true }
      (d.netEvent (5 + port)).raise 0x7 (1 + port)
    else d) s

/-! ### Self-test and health (R333 to R335) -/

/-- Does FEC run on a port: FEC_EN, at 25GBASE-R (R321)? -/
def Dev.netFec (d : Dev) (p : Nat) : Bool := d.bit ⟨R.NETP_CFG p, 1, 1⟩ && !d.bit ⟨R.NETP_CFG p, 0, 1⟩

/-- The five test bits of a cycle (Table 15-4). -/
def Dev.netTests (d : Dev) (p : Nat) (c : NetCycle) : Nat :=
  let x := d.netPort p
  let limit := max 1 (d.fld ⟨R.NET_ARB_TIME, 8, 8⟩) * 1000000
  let b (i : Nat) (v : Bool) := if v then 2 ^ i else 0
  b 0 (d.netLink p && !x.cycDown) +
  b 1 (c.blockHeld && d.netLink p && decide (c.pcs ≤ d.fld ⟨R.NETP_HEALTH_TH p, 16, 16⟩)) +
  b 2 (!d.netFec p || (c.fecHeld && decide (c.uncorr ≤ d.fld ⟨R.NETP_HEALTH_TH p, 0, 16⟩))) +
  b 3 (match x.rtt with
    | some t => decide (t ≤ limit)
    | none => false) +
  b 4 (c.noDdm || decide (d.fld ⟨R.NETP_TX_PWR_MIN p, 0, 16⟩ ≤ c.txPwr))

/-- BODY of a PORT_HEALTH record (Table 15-5), after NETP_STATUS has taken the cycle's results. -/
def Dev.healthBody (d : Dev) (p tests : Nat) (c : NetCycle) : List Byte :=
  let x := d.netPort p
  let ddm (v : Nat) := if c.noDdm then 0 else v
  let (seq, arb, gp) := match x.grant with
    | some (_, q, a, g) => (q, a, g)
    | none => (0, 0, 0)
  leBytes 1 p ++ leBytes 1 (d.fld ⟨R.NETP_STATUS p, 12, 2⟩) ++
  leBytes 1 (d.fld ⟨R.NETP_STATUS p, 0, 2⟩ + d.fld ⟨R.NETP_CFG p, 1, 1⟩ * 4 + d.fld ⟨R.NETP_STATUS p, 2, 1⟩ * 8 +
    d.fld ⟨R.NETP_STATUS p, 3, 2⟩ * 16 + d.fld ⟨R.NETP_STATUS p, 11, 1⟩ * 64 + d.fld ⟨R.NETP_STATUS p, 5, 1⟩ * 128) ++
  leBytes 1 tests ++ leBytes 4 c.corr ++ leBytes 4 c.uncorr ++ leBytes 4 c.pcs ++ leBytes 4 x.cycTx ++ leBytes 4 x.cycRx ++
  leBytes 4 x.cycFcs ++ leBytes 4 (x.rtt.getD 0xFFFFFFFF) ++ leBytes 2 (ddm c.temp) ++ leBytes 2 (ddm c.txPwr) ++
  leBytes 2 (ddm c.rxPwr) ++ leBytes 2 (ddm c.bias) ++ leBytes 4 seq ++ leBytes 2 arb ++ leBytes 1 gp ++
  leBytes 1 (d.fld ⟨R.NET_STATUS, 2, 1⟩) ++ leBytes 4 (d.reg R.NET_SWITCH_CNT).toNat ++ leBytes 4 0

/-- The first value from `v` on, modulo 2^64, that is not among those used. -/
def freshFrom (used : List Nat) : Nat → Nat → Nat
  | 0, v => v
  | k + 1, v => if used.contains v then freshFrom used k ((v + 1) % 2 ^ 64) else v

/-- A PROBE leaves a port with link, with a NONCE not used before (R334). Beyond that its value is open: it is free. -/
def Dev.sendProbe (d : Dev) (p : Nat) : Dev :=
  if d.netLink p then
    let (v, d) := d.drawNat
    let nonce := freshFrom d.net.nonces d.net.nonces.length (v % 2 ^ 64)
    let pl := leBytes 1 1 ++ leBytes 1 3 ++ leBytes 2 (d.fld ⟨R.NET_ARB_CFG, 0, 16⟩) ++ leBytes 4 0 ++ leBytes 6 d.netDeviceId ++
      leBytes 1 p ++ leBytes 1 0 ++ leBytes 8 nonce ++ leBytes 4 0
    let dst := match (d.netPort p).grant with
      | some (m, _) => m
      | none => 0xFFFFFFFFFFFF
    let d := { d with net := { d.net with nonces := nonce :: d.net.nonces } }
    let d := d.netFrame p dst (d.fld ⟨R.NET_ARB_CFG, 16, 16⟩) (pl ++ leBytes 4 (crc32c pl) ++ List.replicate 14 0)
    d.setNetPort p { d.netPort p with probe := some (nonce, d.now2) }
  else d

/-- A self-test cycle starts: its counts are 0, and its PROBE goes out (R333, R334). -/
def Dev.cycleStart (d : Dev) (p : Nat) : Dev :=
  let x := { d.netPort p with cycTx := 0, cycRx := 0, cycFcs := 0, cycAt := d.now2, cycDown := !d.netLink p, rtt := none, probe := none }
  ((d.setNetPort p x).setReg (R.NETP_PROBE_RTT p) 0xFFFFFFFF).sendProbe p

/-- A self-test cycle ends, a second after it started: tests, health, counters, the record, and the next cycle with its PROBE (R333 to
R335). -/
def execSelfTestCycle (port : Nat) (c : NetCycle) (s : State) : Res :=
  onDev (fun d =>
    if port < d.variant.netPorts then
      let d := d.expire (d.netPort port).cycAt 1000000000
      let tests := d.netTests port c
      let was := d.bit ⟨R.NETP_STATUS port, 5, 1⟩
      let d := (d.putBit ⟨R.NETP_STATUS port, 3, 1⟩ c.modPresent).putBit ⟨R.NETP_STATUS port, 4, 1⟩ c.los
      let d := ((d.putBit ⟨R.NETP_STATUS port, 5, 1⟩ (tests == 31)).put ⟨R.NETP_STATUS port, 6, 5⟩ tests).putBit
        ⟨R.NETP_STATUS port, 11, 1⟩ c.noDdm
      let d := ((d.bumpBy ⟨R.NETP_FEC_CORR port, 0, 32⟩ c.corr).bumpBy ⟨R.NETP_FEC_UNCORR port, 0, 32⟩ c.uncorr).bumpBy
        ⟨R.NETP_PCS_ERR port, 0, 32⟩ c.pcs
      let d := if was && tests != 31 then d.netEvent 4 else d
      let body := d.healthBody port tests c
      let d := d.fabric fun d => d.recNew { ty := 5, mos := 0xFF, stamp := d.tim.tb0.stamp, body := body }
      (d.setNetPort port { d.netPort port with health := body }).cycleStart port
    else d) s

/-- Birrix firmware writes a port's latencies for its rate and FEC mode from the fused calibration (R308). -/
def Dev.netLatency (d : Dev) (f : Fuses) (p : Nat) : Dev :=
  let k := 8 * p + 4 * d.fld ⟨R.NETP_CFG p, 0, 1⟩ + (if d.netFec p then 2 else 0)
  (d.setReg (R.TIM_Pp_TX_LAT p) (BitVec.ofNat 32 (tget (fun _ => 0) f.netLat k))).setReg (R.TIM_Pp_RX_LAT p)
    (BitVec.ofNat 32 (tget (fun _ => 0) f.netLat (k + 1)))

/-- An enabled port with a valid MAC gains link: block lock, and FEC lock where FEC runs (R321, R332, R432). It stays in its
role; in NO_IMAGE both ports stay down (R415). A cycle that has sent no PROBE sends it now (R334), and the port that sends records takes those that wait. -/
def execLinkUp (port : Nat) (s : State) : Res :=
  onDev (fun d =>
    if d.netEn port ∧ !d.netLink port ∧ d.netMac port ≠ 0 ∧ !d.bit ⟨R.GLB_STATUS, 1, 1⟩ then
      let d := ((d.netLatency s.nv.fuses port).put ⟨R.NETP_STATUS port, 0, 2⟩ 3).putBit ⟨R.NETP_STATUS port, 2, 1⟩ (d.netFec port)
      let d := d.netEvent (7 + port)
      let d := if (d.netPort port).probe = none then d.sendProbe port else d
      d.fabric fun d => d.netFill port
    else d) s

/-! ### Other frames (R323, R338, R339) -/

/-- An ARP request for the port's own address is answered (R323). -/
def execArpRequest (w : NetWire) (senderMac senderIp targetIp : Nat) (s : State) : Res :=
  onDev (fun d => d.netIn w.port w fun d =>
    if targetIp = (d.reg (R.NETP_IP w.port)).toNat then
      let be (n v : Nat) := (leBytes n v).reverse
      d.netFrame w.port senderMac 0x0806 (be 2 1 ++ be 2 0x0800 ++ be 1 6 ++ be 1 4 ++ be 2 2 ++ be 6 (d.netMac w.port) ++
        be 4 targetIp ++ be 6 senderMac ++ be 4 senderIp)
    else d.netDiscard w.port) s

/-- A frame with a wrong FCS counts; any other that no row of Table 15-1 takes is discarded (R323). -/
def execRxErr (w : NetWire) (fcs : Bool) (s : State) : Res :=
  onDev (fun d => d.netArrives w.port w fun d =>
    let d := d.netRx w.port
    if fcs then
      (d.bump ⟨R.NETP_RX_ERR w.port, 0, 16⟩).setNetPort w.port { d.netPort w.port with cycFcs := (d.netPort w.port).cycFcs + 1 }
    else d.netDiscard w.port) s

/-- BODY of a STATUS record (Table 15-7). -/
def Dev.statusBody (d : Dev) (reqId : Nat) : List Byte :=
  let mos := (List.range 4).filter d.mosEn
  let bits (l : List Nat) := l.foldl (fun n i => n ||| 2 ^ i) 0
  let blind := (List.range 4).foldl (fun n m => n ||| (d.reg (R.SEAM_BLIND m)).toNat) 0
  let hot := (List.range 12).foldl (fun (h : Int) t => max h (toSigned 16 (d.fld ⟨R.CAL_TSENt t, 0, 16⟩))) (-32768)
  leBytes 4 (d.reg R.GLB_STATUS).toNat ++ leBytes 4 (d.reg R.GLB_LOAD_STATUS).toNat ++
  leBytes 1 (d.fld ⟨R.NET_STATUS, 0, 1⟩ + d.fld ⟨R.NET_STATUS, 2, 1⟩ * 2 + d.fld ⟨R.NETP_STATUS 0, 5, 1⟩ * 4 +
    d.fld ⟨R.NETP_STATUS 1, 5, 1⟩ * 8) ++
  leBytes 1 (readReg d R.TIM_STATUS).toNat ++ leBytes 2 (bits mos) ++ leBytes 4 blind ++
  leBytes 4 (min d.lode.tracks.length 0xFFFFFFFF) ++ leBytes 4 (d.reg64 R.REC_SEQ_LO % 2 ^ 52 - 1) ++ leBytes 4 reqId ++
  leBytes 4 (d.reg R.CFG_IMG_VER_LO).toNat ++ leBytes 2 (d.fld ⟨R.CFG_IMG_VER_HI, 0, 16⟩) ++
  leBytes 1 (d.variant.device % 256) ++ leBytes 1 0xB0 ++ leBytes 2 (ofSigned 16 hot) ++
  leBytes 2 (d.fld ⟨R.SEC_STATUS, 5, 3⟩) ++ leBytes 8 d.now2 ++ leBytes 8 0

/-- A status request (R338, R339): a STATUS record by REC_SYS_ROUTE, and a copy direct to the requester. -/
def execStatusRequest (w : NetWire) (srcMac srcIp srcPort : Nat) (payload : List Byte) (s : State) : Res :=
  onDev (fun d => d.netIn w.port w fun d =>
    if payload.length ≠ 8 ∨ fieldAt payload 0 4 ≠ 0x51534743 then d.netDiscard w.port
    else
      let recent := (d.netPort w.port).answers.filter (fun t => !d.timeUp t 1000000000)
      if d.fld ⟨R.NET_STATUS_CFG, 16, 16⟩ ≤ recent.length then (d.bump ⟨R.NET_STATUS_DROP, 0, 32⟩).netEvent 9
      else
        let d := d.setNetPort w.port { d.netPort w.port with answers := d.now2 :: recent }
        let r : RecDraft := { ty := 6, mos := 0xFF, stamp := d.tim.tb0.stamp, body := d.statusBody (fieldAt payload 4 4) }
        let reply := copyBytes (d.recFill r.whole) 0 false
        (d.fabric fun d => d.recNew r).netSend w.port srcMac srcIp srcPort 1 (2 + if d.netDual then 1 else 0) 0xFFF reply) s

/-! ### Mailbox (R341) -/

/-- 0x0A01 NET_INFO. -/
def execNetInfo (tag : Word) (args : List Word) (s : State) : Res :=
  onDev (fun d => d.mailbox 0x0A01 false (args.length == 0) tag args fun d => .ok d (d.regsBytes (listedIn 0xA00000 0xA0003C))) s

/-- The checks of a port argument. -/
def Dev.netArg (d : Dev) (w : Word) : Option Nat :=
  if 2 ≤ w.toNat then some stBadArg else if d.variant.netPorts ≤ w.toNat then some stUnitAbsent else none

/-- 0x0A02 NET_PORT_INFO: the port's registers, then bytes 64 to 119 of its last PORT_HEALTH record. -/
def execNetPortInfo (tag : Word) (args : List Word) (s : State) : Res :=
  onDev (fun d => d.mailbox 0x0A02 false (args.length == 1) tag args fun d =>
    match d.netArg (args.getD 0 0) with
    | some st => .fail st
    | none =>
      let p := (args.getD 0 0).toNat
      let h := (d.netPort p).health
      .ok d (d.regsBytes (listedIn (R.NETP_CFG p) (R.NETP_PROBE_RTT p)) ++ h ++ List.replicate (56 - h.length) 0)) s

/-- 0x0A03 NET_MOD_READ. -/
def execNetModRead (tag : Word) (args : List Word) (answer : Option (List Byte)) (s : State) : Res :=
  onDev (fun d => d.mailbox 0x0A03 false (args.length == 4) tag args fun d =>
    let dev := (args.getD 1 0).toNat
    let off := (args.getD 2 0).toNat
    let n := (args.getD 3 0).toNat
    if 2 ≤ (args.getD 0 0).toNat ∨ (dev ≠ 0xA0 ∧ dev ≠ 0xA2) ∨ 256 ≤ off ∨ n = 0 ∨ 128 < n then .fail stBadArg
    else
      match d.netArg (args.getD 0 0), answer with
      | some st, _ => .fail st
      | none, none => .fail stNotFound
      | none, some bs => .ok d (bs.take n)) s

end Sys2Proof.Machine
end

