-- ==== Sys2Proof/Machine/Sluice.lean ====
section
/-! DEFINITION. Sluice: the stream format and its encoder, jobs, lanes, and the mailbox commands (R385 to R398). -/

namespace Sys2Proof.Machine

/-! ### The encoder (R386 to R388) -/

/-- Deltas of a line, modulo m (R386). -/
def lineDeltas (m : Nat) : Nat → List Nat → List Nat
  | _, [] => []
  | prev, x :: xs => ((x + m - prev) % m) :: lineDeltas m x xs

/-- Samples of 16 bits, little-endian. -/
def samples16 : List Byte → List Nat
  | a :: b :: bs => (a.toNat + 256 * b.toNat) :: samples16 bs
  | _ => []

/-- The byte string that a line yields (R386). -/
def codedLine (mode : Nat) (line : List Byte) : List Byte :=
  match mode with
  | 1 => (lineDeltas 256 0 (line.map (·.toNat))).map (BitVec.ofNat 8)
  | 2 =>
    let ds := lineDeltas 65536 0 (samples16 line)
    ds.map (fun v => BitVec.ofNat 8 v) ++ ds.map (fun v => BitVec.ofNat 8 (v / 256))
  | _ => line

/-- The width of the next code after n codes (R387). -/
def codeWidth (n : Nat) : Nat := ((List.range 8).map (· + 9)).find? (fun w => decide (257 + n < 2 ^ w)) |>.getD 16

/-- The encoder while it runs: entries (prefix code, byte, code), codes since the start or the last CLEAR, bytes coded since
the dictionary filled, the string in hand (its code and length), and the codes written so far with their widths, newest
first. -/
structure Lzw where
  dict : List (Nat × Nat × Nat) := []
  n : Nat := 0
  full : Nat := 0
  cur : Option (Nat × Nat) := none
  out : List (Nat × Nat) := []
deriving DecidableEq, Repr

/-- The next byte extends the string in hand, or its code is written and an entry added; a dictionary full for CLEAR_AFTER
bytes is cleared before the next data code (R387, R388). -/
def Lzw.step (clearAfter : Nat) (z : Lzw) (b : Byte) : Lzw :=
  match z.cur with
  | none => { z with cur := some (b.toNat, 1) }
  | some (c, l) =>
    match z.dict.find? (fun e => e.1 == c && e.2.1 == b.toNat) with
    | some e => { z with cur := some (e.2.2, l + 1) }
    | none =>
      let wasFull := decide (65535 < 258 + z.n)
      let z := { z with out := (c, codeWidth z.n) :: z.out, cur := some (b.toNat, 1), n := z.n + 1
                        dict := if wasFull then z.dict else (c, b.toNat, 258 + z.n) :: z.dict
                        full := if wasFull then z.full + l else 0 }
      if wasFull && decide (clearAfter ≤ z.full) then
        { z with out := (256, codeWidth z.n) :: z.out, n := 0, full := 0, dict := [] }
      else z

/-- The last data code and END. -/
def Lzw.finish (z : Lzw) : List (Nat × Nat) :=
  match z.cur with
  | none => ((257, codeWidth z.n) :: z.out).reverse
  | some (c, _) => ((257, codeWidth (z.n + 1)) :: (c, codeWidth z.n) :: z.out).reverse

/-- Codes as bits, least significant first. -/
def codeBits : List (Nat × Nat) → List Bool
  | [] => []
  | (c, w) :: cs => (List.range w).map (fun i => c / 2 ^ i % 2 == 1) ++ codeBits cs

/-- Bits packed into bytes, the last filled with 0 (R387). -/
def packBits : List Bool → List Byte
  | [] => []
  | b0 :: b1 :: b2 :: b3 :: b4 :: b5 :: b6 :: b7 :: bs =>
    BitVec.ofNat 8 (b0.toNat + 2 * b1.toNat + 4 * b2.toNat + 8 * b3.toNat + 16 * b4.toNat + 32 * b5.toNat + 64 * b6.toNat +
      128 * b7.toNat) :: packBits bs
  | bs => [BitVec.ofNat 8 (bs.foldr (fun b n => b.toNat + 2 * n) 0)]

/-- The body of a coded stream (R387, R388). -/
def sluiceBody (clearAfter : Nat) (coded : List Byte) : List Byte :=
  packBits (codeBits (coded.foldl (Lzw.step clearAfter) {}).finish)

/-- The stream header (Table 18-1). -/
def sluiceHeader (mode width lines inLen inCrc : Nat) : List Byte :=
  let h := leBytes 4 0x4C534743 ++ leBytes 1 1 ++ leBytes 1 mode ++ leBytes 2 0 ++ leBytes 4 width ++ leBytes 4 lines ++
    leBytes 8 inLen ++ leBytes 4 inCrc
  h ++ leBytes 4 (crc32c h)

/-! ### Jobs (R389 to R394) -/

/-- The fields of a descriptor (Table 18-3). -/
structure SluDesc where
  src : Nat
  width : Nat
  lines : Nat
  stride : Nat
  mode : Nat
  jflags : Nat
  chainCnt : Nat
  chain : Nat
  zeros : Bool

def SluDesc.of (b : List Byte) : SluDesc :=
  { src := fieldAt b 0 8, width := fieldAt b 8 4, lines := fieldAt b 12 4, stride := fieldAt b 16 4, mode := byteAt b 20
    jflags := byteAt b 21, chainCnt := fieldAt b 22 2, chain := fieldAt b 24 8
    zeros := byteAt b 43 == 0 && fieldAt b 52 12 == 0 }

def SluDesc.lineBytes (j : SluDesc) : Nat := j.width * (if j.mode = 2 then 2 else 1)
def SluDesc.inLen (j : SluDesc) : Nat := j.lines * j.lineBytes

/-- The step from line to line. -/
def SluDesc.pitch (j : SluDesc) : Nat := if j.stride = 0 then j.lineBytes else j.stride

/-- Read a chain: address, length and fill bytes of each entry (R390). -/
def chainOf : Nat → List Byte → List (Nat × Nat × Nat)
  | 0, _ => []
  | n + 1, bs => (fieldAt bs 0 8, fieldAt bs 8 4, fieldAt bs 12 4) :: chainOf n (bs.drop 16)

/-- A job is refused before it reads input (R389, R391). -/
def Dev.sluBadArg (d : Dev) (j : SluDesc) (chain : List (Nat × Nat × Nat)) : Bool :=
  decide (2 < j.mode) || decide (4 ≤ j.jflags) || !j.zeros || j.width == 0 || decide (16777216 < j.width) || j.lines == 0 ||
  decide (16777216 < j.lines) || decide (268435456 < j.inLen) || (j.stride != 0 && decide (j.stride < j.lineBytes)) ||
  j.chainCnt == 0 || decide (j.chain % 16 ≠ 0) || !d.inHostPart j.chain (16 * j.chainCnt) ||
  decide (d.variant.dramBytes < j.src + (j.lines - 1) * j.pitch + j.lineBytes) ||
  chain.any (fun e => e.2.1 == 0 || e.2.2 != 0 || !d.inHostPart e.1 e.2.1)

/-- Sluice writes a range of a host partition (R389, R390, R394). -/
def Dev.sluWrite (d : Dev) (a : Nat) (bs : List Byte) : Dev := d.memWrite 0x06 a bs

/-- Output fills the buffers in chain order, each to its LEN (R390). -/
def Dev.sluChain (d : Dev) : List (Nat × Nat × Nat) → List Byte → Dev
  | [], _ => d
  | (a, n, _) :: cs, bs => if bs.isEmpty then d else Dev.sluChain (d.sluWrite a (bs.take n)) cs (bs.drop n)

/-- Free bytes: output that is void. -/
def Dev.drawBytes (d : Dev) : Nat → List Byte × Dev
  | 0 => ([], d)
  | n + 1 =>
    let (v, d) := d.drawNat
    let (bs, d) := Dev.drawBytes d n
    (BitVec.ofNat 8 v :: bs, d)

/-- The lines of the input as read, and whether a read was uncorrectable. -/
def Dev.sluRead (d : Dev) (a pitch n : Nat) : Nat → List (List Byte) × Bool × Dev
  | 0 => ([], false, d)
  | k + 1 =>
    let (bs, e, d) := d.memRead 0x06 a n
    let (more, e2, d) := Dev.sluRead d (a + pitch) pitch n k
    (bs :: more, e || e2, d)

/-- The end of a job: status, OUT_LEN, CRC, input bytes read. -/
structure SluEnd where
  status : Nat
  outLen : Nat
  crc : Nat
  read : Nat

/-- A job ends with its output void: what its buffers then hold, how much of it was written, how much input was read and its
CRC are open, so they are free values (R391 to R393). -/
def Dev.sluVoid (d : Dev) (status : Nat) (outLen : Option Nat) (inLen room : Nat) (chain : List (Nat × Nat × Nat)) : SluEnd × Dev :=
  let (w, d) := d.drawNat
  let w := w % (min inLen room + 1)
  let (bs, d) := d.drawBytes w
  let d := d.sluChain chain bs
  let (c, d) := d.drawNat
  let (r, d) := d.drawNat
  ({ status := status, outLen := outLen.getD w, crc := c % 2 ^ 32, read := r % (inLen + 1) }, d)

/-- Run a job (R385 to R393): `mismatch` when the verifier finds a byte that differs. -/
def Dev.sluJob (d : Dev) (desc : List Byte) (descErr mismatch : Bool) : SluEnd × Dev :=
  let j := SluDesc.of desc
  let fits := d.inHostPart j.chain (16 * j.chainCnt)
  let (cb, ce, d) := if fits then d.memRead 0x06 j.chain (16 * j.chainCnt) else ([], false, d)
  let chain := chainOf (if fits then j.chainCnt else 0) cb
  let room := chain.foldl (fun n e => n + e.2.1) 0
  if descErr || ce then ({ status := stMemErr, outLen := 0, crc := 0, read := 0 }, d)
  else if d.sluBadArg j chain then ({ status := stBadArg, outLen := 0, crc := 0, read := 0 }, d)
  else
    let (ls, err, d) := d.sluRead j.src j.pitch j.lineBytes j.lines
    if err then d.sluVoid stMemErr none j.inLen room chain
    else if mismatch then
      let (e, d) := d.sluVoid stVerifyFail none j.inLen room chain
      (e, d.logPut 0x0D .sluiceVerify [j.src])
    else
      let input := ls.flatten
      let crc := crc32c input
      let body := sluiceBody (max 1 (d.reg R.SLU_CLEAR_AFTER).toNat) (ls.flatMap (codedLine j.mode))
      let len := 32 + body.length
      if len < j.inLen then
        let s := sluiceHeader j.mode j.width j.lines j.inLen crc ++ body
        if room < len then
          let (r, d) := d.drawNat
          ({ status := stOutOfSpace, outLen := room, crc := crc, read := r % (j.inLen + 1) }, d.sluChain chain (s.take room))
        else ({ status := stOk, outLen := len, crc := crc, read := j.inLen }, d.sluChain chain s)
      else if room < j.inLen then d.sluVoid stOutOfSpace (some room) j.inLen room chain
      else if j.jflags / 2 % 2 = 1 then
        let s := sluiceHeader 3 j.width j.lines j.inLen crc ++ input
        if room < 32 + j.inLen then
          ({ status := stOutOfSpace, outLen := room, crc := crc, read := j.inLen }, d.sluChain chain (s.take room))
        else ({ status := stNoGain, outLen := 32 + j.inLen, crc := crc, read := j.inLen }, d.sluChain chain s)
      else d.sluVoid stNoGain (some 0) j.inLen room chain

/-! ### Lanes and the ring (R389, R394, R396) -/

def Dev.sluLane (d : Dev) (l : Nat) : Option SluJob := tget noneAt d.slu.lanes l
def Dev.sluEn (d : Dev) : Bool := d.bit ⟨R.SLU_CTRL, 0, 1⟩

/-- A SLU_EVENT bit sets; it interrupts when enabled (vector 44). -/
def Dev.sluEvent (d : Dev) (bit : Nat) : Dev := d.sticky ⟨R.SLU_EVENT, bit, 1⟩ 44 (d.bit ⟨R.SLU_IRQ_EN, bit, 1⟩)

/-- Jobs posted and not taken. -/
def Dev.sluWaiting (d : Dev) : Nat := (d.reg R.SLU_JOB_WR - BitVec.ofNat 32 d.slu.taken).toNat

/-- SLU_STATUS and the lane status follow the lanes. -/
def Dev.sluShow (d : Dev) : Dev :=
  let d := (List.range 4).foldl (fun d l =>
    match d.sluLane l with
    | some j => (d.put ⟨R.SLU_STATUS, l, 1⟩ 1).setReg (R.SLU_LANEl_STATUS l)
        (BitVec.ofNat 32 (1 + (if j.mailbox then 2 else 0) + j.index % 65536 * 65536))
    | none => (d.put ⟨R.SLU_STATUS, l, 1⟩ 0).setReg (R.SLU_LANEl_STATUS l) 0) d
  d.put ⟨R.SLU_STATUS, 16, 16⟩ (min 65535 (d.sluWaiting + d.slu.runs.length))

/-- Host write to SLU_CTRL (R396). -/
def execSluEn (v : Word) (s : State) : Res :=
  onDev (fun d =>
    let was := d.sluEn
    let d := d.put ⟨R.SLU_CTRL, 0, 1⟩ v.toNat
    if !was && d.sluEn then
      let z := d.fld ⟨R.SLU_RING_SIZE, 0, 5⟩
      let lanes := (List.range 4).foldl (fun t l => tset noneAt t l ((d.sluLane l).map (fun j => { j with stale := true })))
        d.slu.lanes
      let d := { d with slu := { d.slu with base := d.reg64 R.SLU_RING_BASE_LO, lanes := lanes, taken := 0, ended := []
                                            slots := 2 ^ (if 4 ≤ z ∧ z ≤ 16 then z else 4) } }
      ((d.setReg R.SLU_JOB_WR 0).setReg R.SLU_JOB_RD 0).sluShow
    else d) s

/-- Host write to SLU_JOB_WR posts jobs (R389). -/
def execSluJobWr (v : Word) (s : State) : Res := onDev (fun d => (d.setReg R.SLU_JOB_WR v).sluShow) s

/-- A free lane takes the SLU_RUN that waits, or the next job of the ring, while SLU_EN is 1 (R389, R396). -/
def execLaneTake (lane : Nat) (s : State) : Res :=
  onFab (fun d =>
    if 4 ≤ lane ∨ (d.sluLane lane).isSome ∨ !d.sluEn then d
    else
      let give (d : Dev) (j : SluJob) : Dev := ({ d with slu := { d.slu with lanes := tset noneAt d.slu.lanes lane (some j) } }).sluShow
      match d.slu.runs with
      | (id, b) :: rest => give { d with slu := { d.slu with runs := rest } } { desc := b, mailbox := true, id := id }
      | [] =>
        if d.sluWaiting != 0 then
          let i := d.slu.taken
          let a := d.slu.base + 64 * (i % d.slu.slots)
          let (b, e, d) := d.memRead 0x06 a 64
          give { d with slu := { d.slu with taken := (i + 1) % 2 ^ 32 } }
            { desc := b, mailbox := false, index := i, addr := a, memErr := e }
        else d) s

/-- SLU_JOB_RD passes every job that is DONE (R394). -/
def Dev.sluRetire (d : Dev) : Nat → Dev
  | 0 => d
  | n + 1 =>
    let rd := (d.reg R.SLU_JOB_RD).toNat
    if d.slu.ended.contains rd then
      Dev.sluRetire (({ d with slu := { d.slu with ended := d.slu.ended.filter (fun i => i != rd) } }).setReg R.SLU_JOB_RD
        (BitVec.ofNat 32 (rd + 1))) n
    else d

/-- Counters of KB: bytes that make no whole KB wait for the next job (Table 18-4). -/
def Dev.sluCount (d : Dev) (e : SluEnd) : Dev :=
  let i := d.slu.inRem + e.read
  let o := d.slu.outRem + e.outLen
  let d := { d with slu := { d.slu with inRem := i % 1024, outRem := o % 1024 } }
  ((d.bumpBy ⟨R.SLU_IN_KB, 0, 32⟩ (i / 1024)).bumpBy ⟨R.SLU_OUT_KB, 0, 32⟩ (o / 1024)).bump ⟨R.SLU_JOB_CNT, 0, 32⟩

/-- The event and the error counter of a status. -/
def Dev.sluStatus (d : Dev) (st : Nat) : Dev :=
  if st = stOk then d
  else
    let k := if st = stNoGain then 0 else if st = stOutOfSpace then 1 else if st = stVerifyFail then 2 else 3
    (d.bump ⟨R.SLU_ERR_CNT, 8 * k, 8⟩).sluEvent (k + 1)

/-- A job ends: bytes 40 to 51 of its descriptor written with DONE last, events, counters, and the reply to SLU_RUN (R394,
R398). -/
def execJobDone (lane : Nat) (mismatch : Bool) (s : State) : Res :=
  onFab (fun d =>
    match d.sluLane lane with
    | none => d
    | some j =>
      let (e, d) := d.sluJob j.desc j.memErr mismatch
      let res := leBytes 2 e.status ++ leBytes 1 (1 + 2 * lane) ++ leBytes 1 0 ++ leBytes 4 e.outLen ++ leBytes 4 e.crc
      let d := { d with slu := { d.slu with lanes := tset noneAt d.slu.lanes lane none } }
      let d := if j.mailbox then d else d.sluWrite (j.addr + 40) res
      let d := if j.mailbox || j.stale then d
        else { d with slu := { d.slu with ended := d.slu.ended ++ [j.index] } }.sluRetire 5
      let d := (d.sluStatus e.status).sluCount e
      let d := if byteAt j.desc 21 % 2 = 1 then d.sluEvent 0 else d
      let d := d.sluShow
      if j.mailbox then d.mbAnswer j.id e.status res else d) s

/-! ### Mailbox (R398) -/

/-- 0x0D01 SLU_INFO. -/
def execSluInfo (tag : Word) (args : List Word) (s : State) : Res :=
  onDev (fun d => d.mailbox 0x0D01 false (args.length == 0) tag args fun d => .ok d (d.regsBytes (listedIn 0xD00000 0xD0004C))) s

/-- 0x0D02 SLU_RUN: the job waits for a lane. -/
def execSluRun (tag : Word) (args : List Word) (s : State) : Res :=
  onDev (fun d => d.mailbox 0x0D02 false (args.length == 10) tag args fun d =>
    if !d.sluEn then .fail stBadState
    else .wait ({ d with slu := { d.slu with runs := d.slu.runs ++ [(d.hif.taken, wordsBytes args)] } }).sluShow) s

end Sys2Proof.Machine
end

