-- ==== Sys2Proof/Machine/Cvu.lean ====
section
/-! DEFINITION. The check-value units: taps, polynomials, modes, saving and restoring, and the alive checker (R399 to R407). -/

namespace Sys2Proof.Machine

/-- EN of a unit. -/
def Dev.cvEn (d : Dev) (u : Nat) : Bool := d.bit ⟨R.CV_CFG u, 0, 1⟩

/-- MODE, 3 treated as 0. -/
def cvMode (cfg : Word) : Nat := if getBits cfg 1 2 = 3 then 0 else getBits cfg 1 2

/-- TAP_SEL, 5 to 7 treated as 0. -/
def cvSel (cfg : Word) : Nat := if 5 ≤ getBits cfg 8 3 then 0 else getBits cfg 8 3

/-- The polynomial a unit runs: POLY, 3 treated as 0; in MODE 2 that of the tap's check field (R401, R402). -/
def cvPoly (cfg : Word) : Nat :=
  if cvMode cfg = 2 then (if cvSel cfg = 2 then 1 else 0) else if getBits cfg 3 2 = 3 then 0 else getBits cfg 3 2

/-- Fold bytes with a polynomial of Table 19-2. -/
def cvFold (poly r : Nat) (bs : List Byte) : Nat :=
  match poly with
  | 1 => crc32Fold r bs
  | 2 => crc16 (r % 65536) bs
  | _ => crc32cFold r bs

/-- The final XOR of Table 19-2. -/
def cvResult (poly v : Nat) : Nat := if poly = 2 then v % 65536 else v ^^^ 0xFFFFFFFF

/-- CV_VALUE takes a value, and CV_RESULT follows it; a 16-bit register has no upper half (R401). -/
def Dev.cvPut (d : Dev) (u v : Nat) : Dev :=
  let poly := cvPoly (d.reg (R.CV_CFG u))
  let v := if poly = 2 then v % 65536 else v
  (d.setReg (R.CV_VALUE u) (BitVec.ofNat 32 v)).setReg (R.CV_RESULT u) (BitVec.ofNat 32 (cvResult poly v))

/-- A CV_EVENT bit sets; CVU_IRQ_EN enables vector 45 for the unit. -/
def Dev.cvEvent (d : Dev) (u bit : Nat) : Dev := d.sticky ⟨R.CV_EVENT u, bit, 1⟩ 45 (d.bit ⟨R.CVU_IRQ_EN, u, 1⟩)

/-- Does the image claim a unit (R399, R424)? -/
def Dev.cvImage (d : Dev) (u : Nat) : Bool :=
  match d.claimOn 7 u with
  | some c => !c.host
  | none => false

/-- MODE 2 on a tap without a check field, or ALIVE_EN on a tap that is no record tap (R402, R405). -/
def cvRefused (cfg : Word) : Bool :=
  (cvMode cfg == 2 && decide (3 ≤ cvSel cfg)) || (getBits cfg 5 1 == 1 && cvSel cfg != 1)

/-- A camera or network port that the variant lacks (R407). -/
def Dev.cvAbsent (d : Dev) (cfg : Word) : Bool :=
  match cvSel cfg with
  | 0 => decide (d.variant.ports ≤ getBits cfg 16 4)
  | 2 => decide (d.variant.netPorts ≤ getBits cfg 16 1)
  | _ => false

/-- CV_CFG is written: EN 0 to 1 loads CV_INIT and clears CV_BYTES, VOID and ADOPTED; while EN is 1 the mode, the polynomial
and the tap stay (R402, R404, Table 19-5). -/
def Dev.cvConfig (d : Dev) (u : Nat) (v : Word) : Dev :=
  let was := d.reg (R.CV_CFG u)
  let new := v &&& 0x0FFF073F
  let new := if was.toNat % 2 = 1 then (was &&& 0x0FFF071E) ||| (new &&& 0x21) else new
  let d := d.setReg (R.CV_CFG u) new
  if was.toNat % 2 = 0 ∧ new.toNat % 2 = 1 then
    ((d.cvPut u (d.reg (R.CV_INIT u)).toNat).setReg64 (R.CV_BYTES_LO u) 0).put ⟨R.CV_ALIVE u, 8, 2⟩ 0
  else d.cvPut u (d.reg (R.CV_VALUE u)).toNat

/-- Host write to CV_CFG (R402, R407, R424): refused settings are ignored; a unit the image claims is denied. -/
def execCvEn (u : Nat) (v : Word) (s : State) : Res :=
  onDev (fun d =>
    if 8 ≤ u then d
    else if d.cvImage u then d.denied
    else if cvRefused v || d.cvAbsent v then d
    else d.cvConfig u v) s

/-- CV_VALUE is restored: VOID clears and CV_BYTES takes CV_SAVED_BYTES (R404). -/
def Dev.cvRestore (d : Dev) (u v : Nat) : Dev :=
  ((d.cvPut u v).put ⟨R.CV_ALIVE u, 9, 1⟩ 0).setReg64 (R.CV_BYTES_LO u) (d.reg64 (R.CV_SAVED_BYTES_LO u))

/-- Host write to CV_VALUE (R404). -/
def execCvValue (u : Nat) (v : Word) (s : State) : Res :=
  onDev (fun d => if 8 ≤ u then d else if d.cvImage u then d.denied else d.cvRestore u v.toNat) s

/-- CV_VALUE and CV_BYTES are captured together (R404). -/
def Dev.cvCapture (d : Dev) (u : Nat) : Dev :=
  (d.setReg (R.CV_SAVED_VALUE u) (d.reg (R.CV_VALUE u))).setReg64 (R.CV_SAVED_BYTES_LO u) (d.reg64 (R.CV_BYTES_LO u))

/-- Host write to CV_SAVE (R404). -/
def execSave (u : Nat) (v : Word) (s : State) : Res :=
  onDev (fun d => if u < 8 ∧ v.toNat % 2 = 1 then d.cvCapture u else d) s

/-- The alive checker sees a record's first beat (R405). -/
def Dev.cvAlive (d : Dev) (u : Nat) (bs : List Byte) : Dev :=
  let v := byteAt bs 4
  let l := d.fld ⟨R.CV_ALIVE u, 0, 8⟩
  let d := if byteAt bs 2 / 32 % 2 = 1 then d.bump ⟨R.CV_LOSS_SEEN u, 0, 32⟩ else d
  let d :=
    if !d.bit ⟨R.CV_ALIVE u, 8, 1⟩ then d.put ⟨R.CV_ALIVE u, 8, 1⟩ 1
    else if v = l then (d.bump ⟨R.CV_ALIVE_ERR u, 0, 16⟩).cvEvent u 1
    else if v = (l + 1) % 256 then d
    else ((d.bump ⟨R.CV_ALIVE_ERR u, 16, 16⟩).bumpBy ⟨R.CV_SKIPPED u, 0, 32⟩ ((v + 511 - l) % 256)).cvEvent u 1
  d.put ⟨R.CV_ALIVE u, 0, 8⟩ v

/-- Does a unit snoop a beat (Table 19-1)? -/
def Dev.cvSnoops (d : Dev) (u : Nat) (b : TapBeat) : Bool :=
  let cfg := d.reg (R.CV_CFG u)
  d.cvEn u && cvSel cfg == b.sel && match b.sel with
    | 0 => getBits cfg 16 6 == b.idx
    | 1 => getBits cfg 16 12 == b.idx
    | 2 => getBits cfg 16 2 == b.idx
    | 3 => true
    | _ =>
      let base := d.reg64 (R.CV_WIN_BASE_LO u)
      decide (base ≤ b.addr) && decide (b.addr + 64 ≤ base + 64 * d.fld ⟨R.CV_WIN_SIZE u, 0, 24⟩)

/-- The end of an item: MODE 1 and MODE 2 keep the result; MODE 2 compares it with the check field, which for a record is
its own last four bytes (R402). -/
def Dev.cvItemEnd (d : Dev) (u : Nat) (before : Nat) (b : TapBeat) : Dev :=
  let cfg := d.reg (R.CV_CFG u)
  let d := (d.setReg (R.CV_LAST u) (d.reg (R.CV_RESULT u))).bump ⟨R.CV_ITEMS u, 0, 32⟩
  if cvMode cfg = 2 then
    let n := b.bytes.length
    let ok :=
      if b.sel = 1 then cvResult 0 (cvFold 0 before (b.bytes.take (n - 4))) == fieldAt b.bytes (n - 4) 4
      else (d.reg (R.CV_RESULT u)).toNat == b.check
    if ok then d else (d.bump ⟨R.CV_CHK_ERR u, 0, 32⟩).cvEvent u 0
  else d

/-- A unit folds a beat, or misses a block it cannot take (R402, R403, R405). -/
def Dev.cvBeat (d : Dev) (u : Nat) (b : TapBeat) : Dev :=
  if b.sel = 4 ∧ b.late = true then
    ((d.put ⟨R.CV_ALIVE u, 9, 1⟩ 1).bump ⟨R.CV_MISS u, 0, 32⟩).cvEvent u 2
  else
    let cfg := d.reg (R.CV_CFG u)
    let items := decide (cvMode cfg ≠ 0)
    let d := if items && b.first then d.cvPut u (d.reg (R.CV_INIT u)).toNat else d
    let before := (d.reg (R.CV_VALUE u)).toNat
    let d := d.cvPut u (cvFold (cvPoly cfg) before b.bytes)
    let d := d.setReg64 (R.CV_BYTES_LO u) (min (2 ^ 64 - 1) (d.reg64 (R.CV_BYTES_LO u) + b.bytes.length))
    let d := if items && b.last then d.cvItemEnd u before b else d
    if b.sel = 1 && b.first && getBits cfg 5 1 == 1 then d.cvAlive u b.bytes else d

/-- A beat of a tap is folded into every unit that snoops it (R400, R402). -/
def execTapBeat (b : TapBeat) (s : State) : Res :=
  onDev (fun d => (List.range 8).foldl (fun d u => if d.cvSnoops u b then d.cvBeat u b else d) d) s

/-! ### Mailbox (R407) -/

/-- 0x0E01 CV_INFO. -/
def execCvInfo (tag : Word) (args : List Word) (s : State) : Res :=
  onDev (fun d => d.mailbox 0x0E01 false (args.length == 1) tag args fun d =>
    let u := (args.getD 0 0).toNat
    if 8 ≤ u then .fail stBadArg else .ok d (d.regsBytes (listedIn (R.CV_CFG u) (R.CV_EVENT u)))) s

/-- 0x0E02 CV_SET. -/
def execCvSet (tag : Word) (args : List Word) (s : State) : Res :=
  onDev (fun d => d.mailbox 0x0E02 false (args.length == 6) tag args fun d =>
    let u := (args.getD 0 0).toNat
    let cfg := args.getD 1 0
    if 8 ≤ u ∨ cvRefused cfg then .fail stBadArg
    else if d.cvImage u then .fail stConflict
    else if d.cvAbsent cfg then .fail stUnitAbsent
    else
      let d := d.cvConfig u (d.reg (R.CV_CFG u) &&& 0xFFFFFFFE)
      let d := (d.setReg (R.CV_INIT u) (args.getD 2 0)).setReg64 (R.CV_WIN_BASE_LO u)
        (word64 (args.getD 3 0) (args.getD 4 0) / 64 * 64 % 2 ^ 37)
      let d := d.put ⟨R.CV_WIN_SIZE u, 0, 24⟩ (args.getD 5 0).toNat
      .ok ((d.cvConfig u (cfg &&& 0xFFFFFFFE)).cvConfig u cfg) []) s

/-- 0x0E03 CV_SAVE: the value and the byte count. -/
def execCvSave (tag : Word) (args : List Word) (s : State) : Res :=
  onDev (fun d => d.mailbox 0x0E03 false (args.length == 1) tag args fun d =>
    let u := (args.getD 0 0).toNat
    if 8 ≤ u then .fail stBadArg
    else
      let d := d.cvCapture u
      .ok d (wordBytes (d.reg (R.CV_SAVED_VALUE u)) ++ leBytes 8 (d.reg64 (R.CV_SAVED_BYTES_LO u)))) s

/-- 0x0E04 CV_RESTORE. -/
def execCvRestore (tag : Word) (args : List Word) (s : State) : Res :=
  onDev (fun d => d.mailbox 0x0E04 false (args.length == 4) tag args fun d =>
    let u := (args.getD 0 0).toNat
    if 8 ≤ u then .fail stBadArg
    else if d.cvImage u then .fail stConflict
    else .ok ((d.setReg64 (R.CV_SAVED_BYTES_LO u) (word64 (args.getD 2 0) (args.getD 3 0))).cvRestore u (args.getD 1 0).toNat) []) s

end Sys2Proof.Machine
end

