-- ==== Sys2Proof/Machine/Crypto.lean ====
section
/-! DEFINITION. The cryptography of images, sessions and quotes (R428): SHA-384 as FIPS 180-4 gives it, and ECDSA on
brainpoolP384r1 as RFC 5639 and FIPS 186 give it. The manual names both and takes them from outside. PRESUMED (assumption 24). -/

namespace Sys2Proof.Machine

/-! ### SHA-384 -/

/-- Bit by bit from place `n` down, the greatest number from `r` on whose `k`-th power is at most `x`. -/
def rootBits (k x : Nat) : Nat → Nat → Nat
  | 0, r => r
  | n + 1, r => rootBits k x n (if (r + 2 ^ n) ^ k ≤ x then r + 2 ^ n else r)

/-- The first 64 bits of the fraction of the `k`-th root of a small number. -/
def rootFrac (k p : Nat) : BitVec 64 := BitVec.ofNat 64 (rootBits k (p * 2 ^ (64 * k)) 68 0)

/-- The first eighty primes, ascending. -/
def shaPrimes : List Nat := (List.range 410).filter (fun n => decide (2 ≤ n) && (List.range n).all (fun q => decide (q < 2) || n % q != 0))

/-- The round constants: FIPS 180-4 takes them from the cube roots of the first eighty primes. -/
def shaK : List (BitVec 64) := shaPrimes.map (rootFrac 3)

/-- The initial hash value of SHA-384: from the square roots of the ninth to sixteenth primes. -/
def shaInit : List (BitVec 64) := ((shaPrimes.drop 8).take 8).map (rootFrac 2)

/-- A big-endian number of bytes. -/
def beNat (bs : List Byte) : Nat := bs.foldl (fun n b => n * 256 + b.toNat) 0

/-- `v` as `n` bytes, big-endian. -/
def beBytes (n v : Nat) : List Byte := (leBytes n v).reverse

/-- Bytes as 64-bit words, big-endian. -/
def beWords : Nat → List Byte → List (BitVec 64)
  | 0, _ => []
  | n + 1, bs => BitVec.ofNat 64 (beNat (bs.take 8)) :: beWords n (bs.drop 8)

/-- The next word of the message schedule, from the last sixteen, newest first. -/
def shaNext (w : List (BitVec 64)) : BitVec 64 :=
  let a := w.getD 1 0
  let b := w.getD 14 0
  (a.rotateRight 19 ^^^ a.rotateRight 61 ^^^ a >>> 6) + w.getD 6 0 +
  (b.rotateRight 1 ^^^ b.rotateRight 8 ^^^ b >>> 7) + w.getD 15 0

/-- The message schedule beyond its first sixteen words, newest first. -/
def shaSched : Nat → List (BitVec 64) → List (BitVec 64)
  | 0, w => w
  | n + 1, w => shaSched n (shaNext w :: w)

/-- One round. -/
def shaRound (h : List (BitVec 64)) (kw : BitVec 64 × BitVec 64) : List (BitVec 64) :=
  match h with
  | [a, b, c, d, e, f, g, x] =>
    let t1 := x + (e.rotateRight 14 ^^^ e.rotateRight 18 ^^^ e.rotateRight 41) + ((e &&& f) ^^^ (~~~e &&& g)) + kw.1 + kw.2
    let t2 := (a.rotateRight 28 ^^^ a.rotateRight 34 ^^^ a.rotateRight 39) + ((a &&& b) ^^^ (a &&& c) ^^^ (b &&& c))
    [t1 + t2, a, b, c, d + t1, e, f, g]
  | h => h

/-- One block of 128 bytes. -/
def shaBlock (h : List (BitVec 64)) (bs : List Byte) : List (BitVec 64) :=
  let w := (shaSched 64 (beWords 16 bs).reverse).reverse
  List.zipWith (fun x y => x + y) h ((List.zip shaK w).foldl shaRound h)

/-- The blocks of a padded message. -/
def shaBlocks : Nat → List (BitVec 64) → List Byte → List (BitVec 64)
  | 0, h, _ => h
  | n + 1, h, bs => shaBlocks n (shaBlock h (bs.take 128)) (bs.drop 128)

/-- SHA-384: 48 bytes. -/
def sha384 (bs : List Byte) : List Byte :=
  let n := (bs.length + 17 + 127) / 128
  let msg := bs ++ [0x80] ++ List.replicate (128 * n - 17 - bs.length) 0 ++ beBytes 16 (8 * bs.length)
  (shaBlocks n shaInit msg).take 6 |>.flatMap (fun w => beBytes 8 w.toNat)

/-! ### ECDSA on brainpoolP384r1 -/

/-- The field's prime, the curve's coefficients, the base point and its order. -/
def ecP : Nat := 0x8CB91E82A3386D280F5D6F7E50E641DF152F7109ED5456B412B1DA197FB71123ACD3A729901D1A71874700133107EC53
def ecA : Nat := 0x7BC382C63D8C150C3C72080ACE05AFA0C2BEA28E4FB22787139165EFBA91F90F8AA5814A503AD4EB04A8C7DD22CE2826
def ecB : Nat := 0x04A8C7DD22CE28268B39B55416F0447C2FB77DE107DCD2A62E880EA53EEB62D57CB4390295DBC9943AB78696FA504C11
def ecGx : Nat := 0x1D1C64F068CF45FFA2A63A81B7C13F6B8847A3E77EF14FE3DB7FCAFE0CBD10E8E826E03436D646AAEF87B2E247D4AF1E
def ecGy : Nat := 0x8ABE1D7520F9C2A45CB1EB8E95CFD55262B70B29FEEC5864E19C054FF99129280E4646217791811142820341263C5315
def ecN : Nat := 0x8CB91E82A3386D280F5D6F7E50E641DF152F7109ED5456B31F166E6CAC0425A7CF3AB6AF6B7FC3103B883202E9046565

/-- A power modulo a prime, over the low bits of the exponent. -/
def powMod (m : Nat) : Nat → Nat → Nat → Nat → Nat
  | 0, _, _, acc => acc
  | n + 1, b, e, acc => powMod m n (b * b % m) (e / 2) (if e % 2 = 1 then acc * b % m else acc)

/-- The inverse modulo a prime of 384 bits. -/
def invMod (m x : Nat) : Nat := powMod m 384 (x % m) (m - 2) 1

/-- A point in Jacobian coordinates (x, y, z); z = 0 at infinity. -/
abbrev EcPoint := Nat × Nat × Nat

/-- Subtraction modulo the field's prime. -/
def ecSub (a b : Nat) : Nat := (a + ecP - b % ecP) % ecP

/-- Twice a point. -/
def ecDouble (p : EcPoint) : EcPoint :=
  let (x, y, z) := p
  if z = 0 ∨ y = 0 then (1, 1, 0)
  else
    let yy := y * y % ecP
    let s := 4 * x * yy % ecP
    let zz := z * z % ecP
    let m := (3 * x * x + ecA * (zz * zz % ecP)) % ecP
    let x' := ecSub (m * m) (2 * s)
    (x', ecSub (m * ecSub s x') (8 * (yy * yy % ecP)), 2 * y * z % ecP)

/-- The sum of two points. -/
def ecAdd (p q : EcPoint) : EcPoint :=
  let (x1, y1, z1) := p
  let (x2, y2, z2) := q
  if z1 = 0 then q
  else if z2 = 0 then p
  else
    let a := z1 * z1 % ecP
    let b := z2 * z2 % ecP
    let u1 := x1 * b % ecP
    let u2 := x2 * a % ecP
    let s1 := y1 * (b * z2 % ecP) % ecP
    let s2 := y2 * (a * z1 % ecP) % ecP
    if u1 = u2 then (if s1 = s2 then ecDouble p else (1, 1, 0))
    else
      let h := ecSub u2 u1
      let r := ecSub s2 s1
      let hh := h * h % ecP
      let hhh := hh * h % ecP
      let v := u1 * hh % ecP
      let x3 := ecSub (r * r) (hhh + 2 * v)
      (x3, ecSub (r * ecSub v x3) (s1 * hhh), z1 * z2 % ecP * h % ecP)

/-- A multiple of a point, over the low bits of the factor. -/
def ecMul : Nat → Nat → EcPoint → EcPoint → EcPoint
  | 0, _, _, acc => acc
  | n + 1, k, p, acc => ecMul n (k / 2) (ecDouble p) (if k % 2 = 1 then ecAdd acc p else acc)

/-- A public key of R428: 0x04, X, Y, each coordinate below the prime, on the curve. -/
def ecKey (key : List Byte) : Option EcPoint :=
  let x := beNat ((key.drop 1).take 48)
  let y := beNat ((key.drop 49).take 48)
  if key.length = 97 ∧ key.getD 0 0 = 4 ∧ x < ecP ∧ y < ecP ∧ y * y % ecP = (x * x * x + ecA * x + ecB) % ecP then some (x, y, 1)
  else none

/-- Does a 96-byte signature, r then s (R428), verify under a public key over a message's SHA-384? -/
def ecVerify (key msg sig : List Byte) : Bool :=
  let r := beNat (sig.take 48)
  let s := beNat ((sig.drop 48).take 48)
  match ecKey key with
  | none => false
  | some q =>
    if sig.length ≠ 96 ∨ r = 0 ∨ s = 0 ∨ ecN ≤ r ∨ ecN ≤ s then false
    else
      let w := invMod ecN s
      let e := beNat (sha384 msg)
      let (x, _, z) := ecAdd (ecMul 384 (e * w % ecN) (ecGx, ecGy, 1) (1, 1, 0)) (ecMul 384 (r * w % ecN) q (1, 1, 0))
      if z = 0 then false
      else
        let zi := invMod ecP z
        x * (zi * zi % ecP) % ecP % ecN == r

end Sys2Proof.Machine
end

