-- ==== Sys2Proof/Machine/Pause.lean ====
section
/-! DEFINITION. The activation pause as the image path meets it: the discarding of lines, the end of the pause at the first
line accepted, and the start of a trial (R448, R449, R452, R453). -/

namespace Sys2Proof.Machine

/-- A SEC_EVENT bit sets (R459). -/
def Dev.secEvent (d : Dev) (bit : Nat) : Dev := d.sticky ⟨R.SEC_EVENT, bit, 1⟩ 46 (d.bit ⟨R.SEC_IRQ_EN, bit, 1⟩)

/-- UPD_STAGE changes; TRIAL in GLB_STATUS follows it. -/
def Dev.setStage (d : Dev) (n : Nat) : Dev := (d.put ⟨R.SEC_STATUS, 5, 3⟩ n).putBit ⟨R.GLB_STATUS, 3, 1⟩ (n == 5)

/-- Set or clear the trial. -/
def Dev.setTrial (d : Dev) (t : Option Trial) : Dev := { d with sec := { d.sec with trial := t } }

/-- The checks of Table 21-5 that hold now are recorded. -/
def Dev.trialChecks (d : Dev) : Dev :=
  let d := d.trialLanes
  let d := if d.bit ⟨R.MEM_STATUS, 0, 1⟩ then d.trialNote 1 else d
  let d := if d.cfg.selfFail = 0 then d.trialNote 2 else d
  if d.tb0Locked || d.tb0Src != 1 then d.trialNote 3 else d

/-- A trial begins (R448 step 6, R452): the stage is TRIAL, and no check of Table 21-5 is recorded but those that hold now. -/
def Dev.trialStart (d : Dev) (prev : Nat) (faults : Tbl Nat) : Dev :=
  ((((d.setStage 5).put ⟨R.SEC_TRIAL, 0, 5⟩ 0).setTrial (some { start := d.now2, prev := prev, faults := faults })).secEvent
    4).trialChecks

/-- Do the ports discard every line (R448 step 1)? -/
def Dev.discards (d : Dev) : Bool :=
  match d.sec.activation with
  | some a => a.discard
  | none => false

/-- The BLIND_STRETCH record of a mosaic (R234, R449): from the first grid line of the pause to the last one below the
position `pos` of the first line that follows it. -/
def Dev.blindStretch (d : Dev) (m : Nat) (start pos : Int) (stamp : Stamp) : Dev :=
  let g := d.mosGrid m
  let k0 := g.next (start - 1)
  let k1 := g.next (pos - 1)
  let (um, d) := d.mdUm m start
  d.recNew { ty := 4, mos := m, stamp := stamp, mdCu := start, mdUm := um, bbCd := d.mosWidth m * d.colPitch m / 1000,
             body := leBytes 8 (ofSigned 64 (g.at (k1 - 1))) ++ leBytes 8 (k1 - k0).toNat ++ leBytes 1 1 }

/-- The position that ends the pause for a mosaic: that of the accepted line for its own mosaic, and for another the last
stamp in the history of its member 0's TRIG output. DESIGN CHOICE (assumption 33). -/
def Dev.pauseEndPos (d : Dev) (c : Nat) (pos : Int) (m : Nat) : Option Int :=
  if d.ctxMosaic c = m then some pos else (d.seamMos m).stamps.head?.map (·.1)

/-- The first line accepted ends the pause: the kept units take their BOOT fields of the new image in one step, inspection
resumes, the trial begins, and one BLIND_STRETCH record per enabled mosaic is placed (R448, R449). -/
def Dev.pauseEnd (d : Dev) (c : Nat) (pos : Int) : Dev :=
  match d.sec.activation with
  | none => d
  | some a =>
    if a.discard || !a.committed then d
    else
      let d := d.cfg.deferred.foldl (fun d r => d.setReg r.1 r.2) d
      let d := { d with cfg := { d.cfg with deferred := [] }, sec := { d.sec with activation := none } }
      let d := (List.range 4).foldl (fun d m => d.setSeamMos m { d.seamMos m with paused := false }) d
      let d := d.trialStart (1 - d.fld ⟨R.CFG_BOOT_STATUS, 0, 1⟩) a.faults
      (List.range 4).foldl (fun d m =>
        if !d.mosEn m then d
        else
          let (p1, d) := match d.pauseEndPos c pos m with
            | some p => (p, d)
            | none =>
              let (v, d) := d.drawNat
              (toSigned 64 v, d)
          let (p0, d) := match tget noneAt a.starts m with
            | some p => (p, d)
            | none =>
              let (v, d) := d.drawNat
              (toSigned 64 v, d)
          d.blindStretch m p0 p1 a.stamp) d

/-- Inspection is paused and its pause has not ended. -/
def Dev.paused (d : Dev) : Bool := d.sec.activation.isSome

end Sys2Proof.Machine
end

