-- ==== Sys2Proof/Machine/Flash.lean ====
section
/-! DEFINITION. The configuration flash and the fuses: the layout, and the records that P0 keeps in it in two copies (R408 to
R411, R432, R434, R440, R452, R472, R484). -/

namespace Sys2Proof.Machine

/-! ### Layout (Table 20-1) -/

def slotSize : Nat := 50331648
def slotBase (slot : Nat) : Nat := if slot = 0 then 0x00010000 else 0x03010000
def storeBase (copy : Nat) : Nat := if copy = 0 then 0x06010000 else 0x06410000
def storeSize : Nat := 0x400000
def journalSlot (i : Nat) : Nat := 0x06810000 + 1024 * i
def journalHalf (h : Nat) : Nat := if h = 0 then 0x06810000 else 0x06850000
def halfSize : Nat := 0x40000
def idBase : Nat := 0x06890000

/-! ### Reading, writing, erasing -/

def NonVol.read (n : NonVol) (a len : Nat) : List Byte := tgetMany flashInit n.flash a len

/-- Program bytes. Every writer of this device erases first, so that what is programmed is what is read. -/
def NonVol.prog (n : NonVol) (a : Nat) (bs : List Byte) : NonVol := { n with flash := tsetMany flashInit n.flash a bs }

/-- Erase a range. -/
def NonVol.erase (n : NonVol) (a len : Nat) : NonVol :=
  { n with flash := n.flash.filter (fun e => decide (e.1 < a) || decide (a + len ≤ e.1)) }

/-- Erase a 4 KB sector and write a record into it. -/
def NonVol.sector (n : NonVol) (a : Nat) (bs : List Byte) : NonVol := (n.erase a 4096).prog a bs

/-- Higher by sequence number: (a − b) modulo 2^32 read as signed is above 0 (R411). -/
def seqAbove (a b : Nat) : Bool :=
  let x := (a % 2 ^ 32 + 2 ^ 32 - b % 2 ^ 32) % 2 ^ 32
  decide (0 < x) && decide (x < 2 ^ 31)

/-- The last four bytes are the CRC-32C of the bytes before them (R70). -/
def crcHolds (bs : List Byte) : Bool := fieldAt bs (bs.length - 4) 4 == crc32c (bs.take (bs.length - 4))

/-- Bytes with their CRC-32C after them. -/
def withCrc (bs : List Byte) : List Byte := bs ++ leBytes 4 (crc32c bs)

/-- Of two copies, each with its sequence number when it is valid: the one to use, the higher. -/
def newerCopy (a b : Option Nat) : Option Nat :=
  match a, b with
  | some x, some y => some (if seqAbove y x then 1 else 0)
  | some _, none => some 0
  | none, some _ => some 1
  | none, none => none

/-- The copy to write: an invalid one, or the one with the lower sequence number (R434). With neither valid, copy 0. -/
def olderCopy (a b : Option Nat) : Nat :=
  match a, b with
  | none, _ => 0
  | some _, none => 1
  | some x, some y => if seqAbove y x then 0 else 1

/-- The sequence number that a new record takes. -/
def nextSeq (a b : Option Nat) : Nat :=
  match newerCopy a b with
  | some 0 => (a.getD 0 + 1) % 2 ^ 32
  | some _ => (b.getD 0 + 1) % 2 ^ 32
  | none => 1

/-! ### The epoch record (R411) -/

def epochAt (copy : Nat) : Nat := if copy = 0 then 0x1000 else 0x2000

/-- Epoch and sequence number of a copy, when it is valid. -/
def NonVol.epochCopy (n : NonVol) (copy : Nat) : Option (Nat × Nat) :=
  let bs := n.read (epochAt copy) 16
  if crcHolds bs then some (fieldAt bs 0 2 % 4096, fieldAt bs 4 4) else none

/-- The epoch in force before the boot: that of the higher copy, 4,095 when neither is valid. -/
def NonVol.epochNow (n : NonVol) : Nat × Nat :=
  match newerCopy ((n.epochCopy 0).map (·.2)) ((n.epochCopy 1).map (·.2)) with
  | some c => (n.epochCopy c).getD (4095, 0)
  | none => (4095, 0)

/-- The write that P0 starts at boot. -/
def NonVol.epochNext (n : NonVol) : EpochWrite :=
  let e := n.epochNow
  { copy := match newerCopy ((n.epochCopy 0).map (·.2)) ((n.epochCopy 1).map (·.2)) with
      | some 0 => 1
      | _ => 0
    epoch := (e.1 + 1) % 4096, seq := (e.2 + 1) % 2 ^ 32 }

def EpochWrite.bytes (w : EpochWrite) : List Byte := withCrc (leBytes 2 w.epoch ++ leBytes 2 0 ++ leBytes 4 w.seq ++ leBytes 4 0)

/-! ### The activation record (R452) -/

def actAt (copy : Nat) : Nat := if copy = 0 then 0x8000 else 0xC000

/-- An activation record: SLOT, PREV_SLOT, STATE and sequence number. -/
structure ActRec where
  slot : Nat
  prev : Nat
  state : Nat
  seq : Nat
deriving DecidableEq, Repr

/-- A copy, when it is valid: magic, format, slots, state and CRC. -/
def NonVol.actCopy (n : NonVol) (copy : Nat) : Option ActRec :=
  let bs := n.read (actAt copy) 128
  let r : ActRec := { slot := byteAt bs 5, prev := byteAt bs 6, state := byteAt bs 7, seq := fieldAt bs 8 4 }
  if fieldAt bs 0 4 = 0x52414743 ∧ byteAt bs 4 = 1 ∧ r.slot ≤ 1 ∧ r.prev ≤ 1 ∧ 1 ≤ r.state ∧ r.state ≤ 3 ∧ crcHolds bs = true then
    some r else none

/-- The newest valid record. -/
def NonVol.act (n : NonVol) : Option ActRec :=
  match newerCopy ((n.actCopy 0).map (·.seq)) ((n.actCopy 1).map (·.seq)) with
  | some c => n.actCopy c
  | none => none

/-- Write an activation record (R434, R452). -/
def NonVol.actWrite (n : NonVol) (slot prev state epoch : Nat) : NonVol :=
  let a := (n.actCopy 0).map (·.seq)
  let b := (n.actCopy 1).map (·.seq)
  n.sector (actAt (olderCopy a b)) (withCrc (leBytes 4 0x52414743 ++ leBytes 1 1 ++ leBytes 1 slot ++ leBytes 1 prev ++
    leBytes 1 state ++ leBytes 4 (nextSeq a b) ++ leBytes 2 epoch ++ List.replicate 110 0))

/-- The slot that the activation record names, A when there is none (R414, R445). -/
def NonVol.actSlot (n : NonVol) : Nat := (n.act.map (·.slot)).getD 0

/-- The inactive slot (R445). -/
def NonVol.spareSlot (n : NonVol) : Nat := 1 - n.actSlot

/-! ### Owner slots and owner records (R429, R431, R434) -/

/-- The active owner slot: it holds a hash and is not retired. The device is owned while there is one. -/
def Fuses.owner (f : Fuses) : Option Nat :=
  (List.range 4).find? (fun i => (tget noneAt f.owners i).isSome && !f.retired.getLsbD i)

/-- The fused hash of the owner key. -/
def Fuses.ownerHash (f : Fuses) : Option (List Byte) := f.owner.bind (fun i => tget noneAt f.owners i)

/-- DEBUG_LOCK is in force: owned by a slot whose debug-lock fuse is burned (R439). -/
def Fuses.locked (f : Fuses) : Bool :=
  match f.owner with
  | some i => f.debugLock.getLsbD i
  | none => false

def ownerAt (copy : Nat) : Nat := idBase + 0x10000 + 0x1000 * copy

/-- An owner record: slot, OWNER_LOCK, sequence number, key. -/
structure OwnerRec where
  slot : Nat
  lock : Bool
  seq : Nat
  key : List Byte
deriving DecidableEq, Repr

/-- A copy, when it is valid (R434). -/
def NonVol.ownerCopy (n : NonVol) (copy : Nat) : Option OwnerRec :=
  let bs := n.read (ownerAt copy) 256
  if fieldAt bs 0 4 = 0x574F4743 ∧ byteAt bs 4 = 1 ∧ crcHolds bs = true then
    some { slot := byteAt bs 5, lock := byteAt bs 6 % 2 == 1, seq := fieldAt bs 8 4, key := (bs.drop 16).take 97 } else none

/-- The record P0 uses: the valid copy with the higher sequence number whose key hashes to the active fused slot (R434). -/
def NonVol.ownerRec (n : NonVol) : Option OwnerRec :=
  let use (c : Nat) : Option OwnerRec := (n.ownerCopy c).filter (fun r => some (sha384 r.key) == n.fuses.ownerHash)
  match newerCopy ((use 0).map (·.seq)) ((use 1).map (·.seq)) with
  | some c => use c
  | none => none

/-- The owner's public key. -/
def NonVol.ownerKey (n : NonVol) : Option (List Byte) := n.ownerRec.map (·.key)

def OwnerRec.bytes (r : OwnerRec) : List Byte :=
  withCrc (leBytes 4 0x574F4743 ++ leBytes 1 1 ++ leBytes 1 r.slot ++ leBytes 1 (if r.lock then 1 else 0) ++ leBytes 1 0 ++
    leBytes 4 r.seq ++ leBytes 4 0 ++ r.key ++ List.replicate 139 0)

def NonVol.ownerSeqs (n : NonVol) : Option Nat × Option Nat := ((n.ownerCopy 0).map (·.seq), (n.ownerCopy 1).map (·.seq))

/-- Write an owner record into the copy R434 names. -/
def NonVol.ownerWrite (n : NonVol) (slot : Nat) (lock : Bool) (key : List Byte) : NonVol :=
  let q := n.ownerSeqs
  n.sector (ownerAt (olderCopy q.1 q.2)) (OwnerRec.bytes { slot := slot, lock := lock, seq := nextSeq q.1 q.2, key := key })

/-- DEVICE_ID in its six bytes (R6). -/
def NonVol.idBytes (n : NonVol) : List Byte := leBytes 6 n.fuses.deviceId

/-- The MAC addresses of NETA and NETB, when the MAC record is valid (R432). The first byte in transmission order is the most
significant. -/
def NonVol.macs (n : NonVol) : Option (Nat × Nat) :=
  let bs := n.read (idBase + 0x3000) 32
  if fieldAt bs 0 4 = 0x414D4743 ∧ crcHolds bs = true then some (beNat ((bs.drop 4).take 6), beNat ((bs.drop 10).take 6)) else none

/-! ### The calibration store (R484) -/

/-- SEQ of a copy, when it is valid. -/
def NonVol.storeSeq (n : NonVol) (copy : Nat) : Option Nat :=
  let h := n.read (storeBase copy) 64
  let len := fieldAt h 12 4
  if fieldAt h 0 4 = 0x4C434743 ∧ byteAt h 4 = 1 ∧ fieldAt h 16 6 = n.fuses.deviceId ∧ len ≤ storeSize ∧ 4 ≤ len ∧
      crcHolds (n.read (storeBase copy) len) = true then some (fieldAt h 8 4) else none

/-- The copy in use: the valid one with the higher SEQ (R486). -/
def NonVol.storeCopy (n : NonVol) : Option Nat := newerCopy (n.storeSeq 0) (n.storeSeq 1)

/-! ### The sag journal (R472) -/

def NonVol.slotBytes (n : NonVol) (i : Nat) : List Byte := n.read (journalSlot i) 1024

def NonVol.slotErased (n : NonVol) (i : Nat) : Bool := (n.slotBytes i).all (fun b => b == 0xFF)

/-- JSEQ of a slot, when it is valid: MAGIC, VERSION and CRC are right. -/
def NonVol.slotSeq (n : NonVol) (i : Nat) : Option Nat :=
  let bs := n.slotBytes i
  if fieldAt bs 0 4 = 0x47534743 ∧ byteAt bs 4 = 1 ∧ crcHolds bs = true then some (fieldAt bs 8 4) else none

/-- The newest record: slot and JSEQ of the valid slot with the highest JSEQ. -/
def NonVol.newestSag (n : NonVol) : Option (Nat × Nat) :=
  (List.range 512).foldl (fun best i =>
    match n.slotSeq i, best with
    | some q, some (j, p) => if seqAbove q p then some (i, q) else some (j, p)
    | some q, none => some (i, q)
    | none, best => best) none

/-- The slots in journal order from one on, wrapping. -/
def slotsFrom (i : Nat) : List Nat := (List.range 512).map (fun j => (i + j) % 512)

/-- The newest non-erased slot: aborted saves that follow the newest record count; without a valid record the last non-erased
slot in journal order. -/
def NonVol.newestUsed (n : NonVol) : Option Nat :=
  match n.newestSag with
  | some (i, _) => ((slotsFrom i).takeWhile (fun j => !n.slotErased j)).getLast?
  | none => ((List.range 512).filter (fun j => !n.slotErased j)).getLast?

/-- The next slot: the first erased slot after the newest non-erased one; none when no slot is erased. -/
def NonVol.nextSlot (n : NonVol) : Option Nat :=
  match n.newestUsed with
  | none => some 0
  | some i => (slotsFrom (i + 1)).find? n.slotErased

/-- Valid records held. -/
def NonVol.sagCount (n : NonVol) : Nat := ((List.range 512).filter (fun i => (n.slotSeq i).isSome)).length

/-- The half that the next slot leaves, when it is to be erased: the next slot lies in the other half. -/
def NonVol.halfLeft (n : NonVol) : Option Nat :=
  match n.newestUsed, n.nextSlot with
  | some i, some j => if i / 256 = j / 256 then none else some (i / 256)
  | some i, none => some (1 - i / 256)
  | none, _ => none

end Sys2Proof.Machine
end

