-- ==== Sys2Proof/Machine/Runnel.lean ====
section
/-! DEFINITION. Runnel: identifiers, security, groups, the cycle check, channel configuration and the tasks that belong to
Runnel itself, with the GPIO pins that are its producers and consumers (R278 to R292, R500). -/

namespace Sys2Proof.Machine

/-! ### Identifiers (R280) -/

/-- How an identifier word stands: no identifier, valid, invalid, or naming a unit the variant lacks. -/
inductive IdKind where
  | empty | ok | bad | absent
deriving DecidableEq, Repr

def idUnit (w : Nat) : Nat := w / 0x100 % 16
def idIdx (w : Nat) : Nat := w % 0x100

/-- A producer word against Table 13-1 and the variant. -/
def producerKind (v : Variant) (w : Nat) : IdKind :=
  let i := idIdx w
  let chk (listed here : Bool) : IdKind := if listed then (if here then .ok else .absent) else .bad
  if w < 0x8000 then .empty
  else if w / 0x1000 % 8 ≠ 0 then .bad
  else match idUnit w with
    | 1 => chk (decide (i % 16 ≤ 8)) (decide (i / 16 < v.ports))
    | 2 => chk true (decide (i / 8 < v.contexts))
    | 3 => chk (decide (i < 32)) true
    | 4 => chk (decide (i ≤ 6)) (decide (3 ≤ i) || v.assay)
    | 5 => chk (decide (i ≤ 71)) true
    | 6 => chk (decide (i ≤ 18)) true
    | 7 => chk (decide (i ≤ 2)) (decide (i < 2) || decide (1 < v.netPorts))
    | 8 => chk (decide (i ≤ 3) || (decide (16 ≤ i) && decide (i ≤ 47))) true
    | 9 => chk (decide (i < 16)) true
    | _ => .bad

/-- A consumer word against Table 13-2 and the variant. -/
def consumerKind (v : Variant) (w : Nat) : IdKind :=
  let i := idIdx w
  let chk (listed here : Bool) : IdKind := if listed then (if here then .ok else .absent) else .bad
  if w < 0x8000 then .empty
  else if w / 0x1000 % 8 ≠ 0 then .bad
  else match idUnit w with
    | 1 => chk (decide (i < 128)) (decide (i / 4 < v.contexts))
    | 2 => chk (decide (i ≤ 71)) true
    | 3 => chk (decide (i < 8)) true
    | 4 => chk (decide (i < 32)) true
    | 5 => chk (decide (i < 32)) true
    | 7 => chk (decide (i < 32)) true
    | 8 => chk (decide (i = 0)) true
    | _ => .bad

/-- The task inputs marked secure in Table 13-2. Whether a group is secure is tested at each activation, not when a channel is
wired (R285). -/
def secureInput (w : Nat) : Bool :=
  match idUnit w with
  | 2 => decide (idIdx w < 8)
  | 8 => true
  | _ => false

/-- The GPIO an identifier names, if it names one: a producer of unit 8, a consumer of unit 5. -/
def gpioProducer (w : Nat) : Option Nat := if idUnit w = 8 ∧ 16 ≤ idIdx w then some (idIdx w % 16) else none
def gpioConsumer (w : Nat) : Option Nat := if idUnit w = 5 then some (idIdx w % 16) else none

/-- The producer that a re-entering task raises (Table 13-2). -/
def reentry (w : Nat) : Option Nat :=
  match idUnit w with
  | 1 => if idIdx w % 4 = 2 then some (evtId 2 (idIdx w / 4 * 8 + 7)) else if idIdx w % 4 = 3 then
      some (evtId 2 (idIdx w / 4 * 8 + 6)) else none
  | 2 => if idIdx w < 8 then some (evtId 5 (60 + idIdx w)) else none
  | 3 => if 4 ≤ idIdx w then some (evtId 3 ((idIdx w - 4) * 8 + 6)) else none
  | _ => none

/-! ### The cycle check (R289) -/

/-- The producer and consumer words of every channel. -/
abbrev ChanMap := List (List Nat × List Nat)

/-- The channels that a channel's re-entering consumers lead to. -/
def chanNext (m : ChanMap) (c : Nat) : List Nat :=
  let outs := ((m.getD c ([], [])).2.filter idValid).filterMap reentry
  (List.range m.length).filter (fun k => (m.getD k ([], [])).1.any (fun p => idValid p && outs.contains p))

/-- The channels reached from a set in at most `n` further steps. -/
def chanReach (m : ChanMap) : Nat → List Nat → List Nat
  | 0, seen => seen
  | n + 1, seen => chanReach m n ((List.range m.length).filter (fun k =>
      seen.contains k || seen.any (fun c => (chanNext m c).contains k)))

/-- The channels that lie on a cycle. -/
def chanCycles (m : ChanMap) : List Nat :=
  (List.range m.length).filter (fun c => (chanReach m 128 (chanNext m c)).contains c)

def Dev.chanMap (d : Dev) : ChanMap := (List.range 128).map (fun c => (d.chSrc c, d.chDst c))

/-- CYCLE_WARN and CYCLE_CH follow the graph; CYCLE_WARN newly set is an event (R289). -/
def Dev.cycleCheck (d : Dev) : Dev :=
  match chanCycles d.chanMap with
  | [] => d.put ⟨R.RNL_STATUS, 0, 1⟩ 0
  | c :: _ =>
    let d := if d.bit ⟨R.RNL_STATUS, 0, 1⟩ then d else d.sticky ⟨R.RNL_EVENT, 1, 1⟩ 18 true
    (d.put ⟨R.RNL_STATUS, 0, 1⟩ 1).put ⟨R.RNL_STATUS, 8, 7⟩ c

/-! ### Channel configuration (R282 to R284, R290) -/

/-- OWNER of a channel: 0 HOST, 1 BOOT, 2 FW (R282). -/
def Dev.chOwner (d : Dev) (c : Nat) : Nat := d.chCfg c 6 2

/-- The checks of R284 at run time on a host channel's words: the status of the first failure. -/
def Dev.chRefusal (d : Dev) (srcs dsts : List Nat) : Option Nat :=
  if srcs.any (fun w => producerKind d.variant w = .bad) || dsts.any (fun w => consumerKind d.variant w = .bad) then some stBadArg
  else if srcs.any (fun w => producerKind d.variant w = .absent) || dsts.any (fun w => consumerKind d.variant w = .absent) then
    some stUnitAbsent
  else if dsts.any (fun w => idValid w && secureInput w) then some stConflict
  else if (srcs.filter idValid).any (fun w => match gpioProducer w with
      | some g => !d.gpioRunnel g
      | none => false) || (dsts.filter idValid).any (fun w => match gpioConsumer w with
      | some g => !d.gpioRunnel g
      | none => false) then some stConflict
  else none

def chWordAddrs (c : Nat) : List Nat :=
  [R.RNL_CHc_SRC01 c, R.RNL_CHc_SRC23 c, R.RNL_CHc_DST01 c, R.RNL_CHc_DST23 c, R.RNL_CHc_DST45 c, R.RNL_CHc_DST67 c]

/-- The sixteen-bit halves of the words at addresses, as held. -/
def Dev.halves (d : Dev) (as : List Nat) : List Nat := as.flatMap (fun a => [d.fld ⟨a, 0, 16⟩, d.fld ⟨a, 16, 16⟩])

/-- The held words and a configuration word take effect whole (R290). -/
def Dev.chApply (d : Dev) (c : Nat) (cfg : Nat) : Dev :=
  ((d.put ⟨R.RNL_CHc_CFG c, 0, 6⟩ cfg).applyRegs (R.RNL_CHc_CFG c :: chWordAddrs c)).cycleCheck

/-! ### Meanings -/

/-- A host write to RNL_CHc_CFG: on a HOST channel the held words pass the checks of R284 and apply whole, or the write is
rejected with WR_DENIED and they stay held (R282, R284, R290). -/
def execRnlChcCfg (c : Nat) (v : Word) (s : State) : Res :=
  onDev (fun d =>
    let c := c % 128
    let as := chWordAddrs c
    if d.chOwner c ≠ 0 then d.denied
    else match d.chRefusal (d.halves (as.take 2)) (d.halves (as.drop 2)) with
      | some _ => d.denied
      | none => d.chApply c (v.toNat % 64)) s

/-- RNL_CH_SET checks a whole channel configuration and writes it (R284, R289, R292). -/
def execRnlChSet (tag : Word) (args : List Word) (s : State) : Res :=
  onDev (fun d => d.mailbox 0x0801 false (args.length == 14) tag args (fun d =>
    let c := (args.getD 0 0).toNat
    let cfg := (args.getD 1 0).toNat
    let ids := (args.drop 2).map (fun w => w.toNat)
    let srcs := ids.take 4
    let dsts := ids.drop 4
    if 128 ≤ c ∨ 64 ≤ cfg ∨ ids.any (fun w => decide (0x10000 ≤ w)) then .fail stBadArg
    else if d.chOwner c ≠ 0 then .fail stDenied
    else match d.chRefusal srcs dsts with
      | some st => .fail st
      | none =>
        let w (i : Nat) : Word := BitVec.ofNat 32 (ids.getD (2 * i) 0 + ids.getD (2 * i + 1) 0 * 0x10000)
        let d := (List.range 6).foldl (fun d i => d.setReg ((chWordAddrs c).getD i 0) (w i)) d
        .ok (d.chApply c cfg) [])) s

/-- RNL_CH_INFO returns a channel's words and its counter, which is not cleared. -/
def execRnlChInfo (tag : Word) (args : List Word) (s : State) : Res :=
  onDev (fun d => d.mailbox 0x0802 false (args.length == 1) tag args (fun d =>
    let c := (args.getD 0 0).toNat
    if 128 ≤ c then .fail stBadArg else .ok d (d.regsBytes (addrs (R.RNL_CHc_CFG c) 8)))) s

/-- Write the masked group bits that are not secure; whether one of the others was named (R285). -/
def Dev.grpWrite (d : Dev) (mask v : Nat) : Bool × Dev :=
  let d' := (List.range 16).foldl (fun d' g =>
    if mask / 2 ^ g % 2 = 1 ∧ d.grpSecure g = false then d'.put ⟨R.RNL_GRP_EN, g, 1⟩ (v / 2 ^ g) else d') d
  ((List.range 16).any (fun g => mask / 2 ^ g % 2 == 1 && d.grpSecure g), d')

/-- RNL_GRP_SET writes the masked bits in one step; DENIED when a secure group is named, the others applied (R285, R292). -/
def execRnlGrpSet (tag : Word) (args : List Word) (s : State) : Res :=
  onDev (fun d => d.mailbox 0x0803 false (args.length == 2) tag args (fun d =>
    let r := d.grpWrite ((args.getD 0 0).toNat % 65536) (args.getD 1 0).toNat
    if r.1 then .failWith stDenied r.2 [] else .ok r.2 [])) s

/-- A host write to RNL_GRP_EN changes the groups that are not secure; the bit of a secure one is left as it is and sets
WR_DENIED (R285). -/
def execRnlGrpEn (v : Word) (s : State) : Res :=
  onDev (fun d =>
    let r := d.grpWrite 0xFFFF v.toNat
    if r.1 then r.2.denied else r.2) s

/-- Raise the software events of a mask, hop 0 (R288). -/
def Dev.swev (d : Dev) (mask : Nat) : Dev :=
  (List.range 16).foldl (fun d n => if mask / 2 ^ n % 2 = 1 then d.raise 0x9 n else d) d

/-- RNL_SWEV as a mailbox command. -/
def execRnlSwev (tag : Word) (args : List Word) (s : State) : Res :=
  onDev (fun d => d.mailbox 0x0804 false (args.length == 1) tag args (fun d => .ok (d.swev ((args.getD 0 0).toNat % 65536)) [])) s

/-- A write to RNL_SWEV raises SWEVn (R288). -/
def execSwev (v : Word) (s : State) : Res := onDev (fun d => d.swev (v.toNat % 65536)) s

/-- RNL_CYCLE_LIST returns CYCLE_WARN and the channels on cycles, at most 128 (R289). -/
def execRnlCycleList (tag : Word) (args : List Word) (s : State) : Res :=
  onDev (fun d => d.mailbox 0x0805 false (args.length == 0) tag args (fun d =>
    .ok d (leBytes 4 (d.fld ⟨R.RNL_STATUS, 0, 1⟩) ++ (chanCycles d.chanMap).flatMap (leBytes 4)))) s

/-- A group's task activation (R285): it acts for a SECURE channel always, for an OPEN one while the group is not secure;
otherwise it changes nothing and counts against the OPEN channels that brought it. -/
def Dev.grpTask (d : Dev) (g : Nat) (on : Bool) (a : HeldAct) : Dev :=
  if d.grpSecure g then
    let d := a.opens.foldl (fun d c => d.bump ⟨R.RNL_CHc_CNT c, 24, 8⟩) d
    if a.secure.isEmpty then d else d.putBit ⟨R.RNL_GRP_EN, g, 1⟩ on
  else d.putBit ⟨R.RNL_GRP_EN, g, 1⟩ on

/-- The enable task of a group. -/
def execEnableGrp (g : Nat) (s : State) : Res := onDev (fun d => d.task 0x4 (g % 16) (fun a d => d.grpTask (g % 16) true a)) s

/-- The disable task of a group. -/
def execDisableGrp (g : Nat) (s : State) : Res :=
  onDev (fun d => d.task 0x4 (16 + g % 16) (fun a d => d.grpTask (g % 16) false a)) s

/-- A host task sets a bit of RNL_HOST_EVT, which interrupts the host (R280, Table 16-3). -/
def execHostEvt (n : Nat) (s : State) : Res :=
  onDev (fun d => d.task 0x7 (n % 32) (fun _ d => d.sticky ⟨R.RNL_HOST_EVT, n % 32, 1⟩ 18 true)) s

/-- LOG_MARK writes a log entry with the channel and hop count (Table 13-2). -/
def execLogMark (s : State) : Res :=
  onDev (fun d => d.task 0x8 0 (fun a d => d.logPut 0x08 .logMark [a.chan, a.hop])) s

/-! ### GPIO (R500) -/

/-- The mode of a GPIO pin: 0 input, 1 push-pull, 2 open-drain (GLB_PIN_MODE). -/
def Dev.gpioMode (d : Dev) (n : Nat) : Nat := d.fld ⟨R.GLB_PIN_MODE, 2 * n, 2⟩

/-- A host write to GLB_GPIO_OUT: host GPIOs take their bits; a written bit of a pin claimed for another use is left
unchanged, and a change of it sets WR_DENIED (R424, Table 24-9). -/
def execGlbGpioOut (v : Word) (s : State) : Res :=
  onDev (fun d =>
    let d' := (List.range 16).foldl (fun d' n =>
      if d.gpioHost n then d'.put ⟨R.GLB_GPIO_OUT, n, 1⟩ (v.toNat / 2 ^ n) else d') d
    if (List.range 16).any (fun n => !d.gpioHost n && d.fld ⟨R.GLB_GPIO_OUT, n, 1⟩ != v.toNat / 2 ^ n % 2) then d'.denied else d') s

/-- A drive task on a Runnel GPIO in output mode sets its level; in input mode it changes nothing (R500). -/
def Dev.drive (d : Dev) (n : Nat) (high : Bool) : Dev :=
  if d.gpioRunnel n && d.gpioMode n != 0 then
    { d with pins := { d.pins with runnelOut := if high then d.pins.runnelOut ||| BitVec.ofNat 16 (2 ^ n)
        else d.pins.runnelOut &&& ~~~(BitVec.ofNat 16 (2 ^ n)) } }
  else d

/-- The drive-high task. -/
def execDriveHigh (n : Nat) (s : State) : Res := onDev (fun d => d.task 0x5 (n % 16) (fun _ d => d.drive (n % 16) true)) s

/-- The drive-low task. -/
def execDriveLow (n : Nat) (s : State) : Res := onDev (fun d => d.task 0x5 (16 + n % 16) (fun _ d => d.drive (n % 16) false)) s

/-- A GPIO input event: the level shows in GLB_GPIO_IN and its edge is a Runnel producer (R500, Table 13-1). -/
def execGpioEdge (n : Nat) (level : Bool) (s : State) : Res :=
  onDev (fun d =>
    let n := n % 16
    if d.bit ⟨R.GLB_GPIO_IN, n, 1⟩ = level then d
    else
      let d := d.putBit ⟨R.GLB_GPIO_IN, n, 1⟩ level
      if d.gpioRunnel n then d.raise 0x8 ((if level then 16 else 32) + n) else d) s

end Sys2Proof.Machine
end

