-- ==== Sys2Proof/Machine/Correct.lean ====
section
/-! DEFINITION. Pixel correction: sample expansion, black offset, defective columns, gain, remap, and the baseline tracker, each
on one line (R124 to R140). -/

namespace Sys2Proof.Machine

/-! ### Tables (R117, R121, R141, R142, R368) -/

def Dev.tblBank (d : Dev) (c : Nat) : Nat := d.fld ⟨R.CTX_BANK_STATUS c, 0, 1⟩

/-- The key of a table of a context: bank and identifier. -/
def tableKey (c bank id : Nat) : Nat := 16 * c + 8 * bank + id

/-- Where the loader placed what a key names. -/
def Dev.placeOf (d : Dev) (key : Nat) : Nat := tget (fun _ => 0) d.str.places key

/-- A table goes into a bank, in DRAM, and so into the mirror copy of a bank that lies in the mirror primary half (R121, R368); a DEFCOL
list shorter than its area is ended by the device (R141). `req` writes it: the strands, or the loader on a Pitman core. -/
def Dev.setTable (d : Dev) (req c bank id : Nat) (b : List Byte) : Dev :=
  let b := if id = 2 ∧ b.length < 4096 then b ++ [0xFF, 0xFF, 0xFF, 0xFF] else b
  let key := tableKey c bank id
  (if b = [] then d else d.memWrite req (d.placeOf key) b) |> fun d =>
    { d with str := { d.str with tables := tset noneAt d.str.tables key (some b.length) } }

/-- A table of the active bank as a stripe reads it: its bytes, none for neutral content, and those of its entries of `size` bytes that
an uncorrectable error made unreadable. -/
def Dev.readTable (d : Dev) (c id size : Nat) : Option (List Byte) × List Nat × Dev :=
  let key := tableKey c (d.tblBank c) id
  match tget noneAt d.str.tables key with
  | none => (none, [], d)
  | some n =>
    let a := d.placeOf key
    let (bs, bad, d) := d.memReadBad 0x01 a n
    (some bs, (List.range (n / size)).filter (fun i => bad.contains ((a + size * i) / 64)), d)

/-- BLACK[c], GAIN[c] of a table. -/
def blackAt (t : Option (List Byte)) (c : Nat) : Int :=
  match t with
  | none => 0
  | some b => toSigned 16 (fieldAt b (2 * c) 2)
def gainAt (t : Option (List Byte)) (c : Nat) : Nat :=
  match t with
  | none => 0x4000
  | some b => fieldAt b (2 * c) 2

/-- The words of a DEFCOL list. -/
def words32 : List Byte → List Nat
  | a :: b :: c :: e :: rest => leNat [a, b, c, e] :: words32 rest
  | _ => []

/-- The entries of a DEFCOL list up to its end entry (R128), but for those that are unreadable, which are absent (R142). -/
def defEntries (bs : List Byte) (bad : List Nat) : List Nat :=
  (((words32 bs).zipIdx.filter (fun e => !bad.contains e.2)).map (·.1)).takeWhile (· != 0xFFFFFFFF)

/-- The tables of a context as a stripe has read them: those of enabled stages only. -/
structure CtxTables where
  black : Option (List Byte) := none
  badBlack : List Nat := []
  defs : List Nat := []
  gain : Option (List Byte) := none
  remap : Option (List Byte) := none
  /-- BLACK or DEFCOL, or a table in both mirror halves, had an unreadable entry -/
  err : Bool := false

/-- A stripe reads the tables of its context (R117, R142). -/
def Dev.readTables (d : Dev) (c : Nat) : CtxTables × Dev :=
  let cfg := d.act (R.CORR_CFG c)
  let on (bit id size : Nat) (d : Dev) : Option (List Byte) × List Nat × Dev :=
    if getBits cfg bit 1 = 1 then d.readTable c id size else (none, [], d)
  let (black, e1, d) := on 0 1 2 d
  let (defs, e2, d) := on 1 2 4 d
  let (gain, e3, d) := on 2 3 2 d
  let (remap, e4, d) := on 3 4 4 d
  ({ black := black, badBlack := e1, defs := defEntries (defs.getD []) e2, gain := gain, remap := remap,
     err := !(e1.isEmpty && e2.isEmpty && e3.isEmpty && e4.isEmpty) }, d)

/-! ### Stages 1 to 4 (R125 to R130) -/

/-- Samples that saturation changed, at each stage: black, gain, remap, tracker. -/
structure Clips where
  black : Nat := 0
  gain : Nat := 0
  remap : Nat := 0
  track : Nat := 0

/-- The shift of a format (R125). -/
def formatShift : Nat → Nat
  | 0 => 8 | 1 => 6 | 2 => 4 | _ => 0

/-- FILL as a sample. -/
def Dev.fillSample (d : Dev) (c : Nat) : Nat := d.ctxFill c * 2 ^ formatShift (d.ctxFormat c)

/-- Stage 1: samples of the pixels read, FILL from PIX_END on. -/
def Dev.stage1 (d : Dev) (c pixEnd : Nat) (pixels : List Nat) : List Nat :=
  (List.range (d.ctxWidth c)).map (fun i =>
    if i < pixEnd then pixels.getD i 0 * 2 ^ formatShift (d.ctxFormat c) else d.fillSample c)

/-- Apply an offset or a gain to every sample before PIX_END, counting what saturation changes. -/
def mapSat (pixEnd : Nat) (f : Nat → Nat → Int) : Nat → List Nat → List Nat × Nat
  | _, [] => ([], 0)
  | i, x :: xs =>
    let (ys, n) := mapSat pixEnd f (i + 1) xs
    if i < pixEnd then
      let v := f i x
      let y := satU16 v
      (y :: ys, if (y : Int) = v then n else n + 1)
    else (x :: ys, n)

/-- The nearest number below `c`, or from `c + 1` on below `w`, that is not listed. -/
def goodLeft (bad : List Nat) : Nat → Option Nat
  | 0 => none
  | c + 1 => if bad.contains c then goodLeft bad c else some c
def goodRight (bad : List Nat) (w c : Nat) : Option Nat :=
  ((List.range (w - (c + 1))).map (· + (c + 1))).find? (fun i => !bad.contains i)

/-- Stage 3: each listed column takes a value from good columns (R129). -/
def stage3 (entries : List Nat) (fill : Nat) (xs : List Nat) : List Nat :=
  let bad := entries.map (· % 65536)
  (List.range xs.length).map (fun c =>
    match entries.find? (fun e => e % 65536 == c) with
    | none => xs.getD c 0
    | some e =>
      let mode := e / 65536 % 4
      let l := (goodLeft bad c).map (fun i => xs.getD i 0)
      let r := (goodRight bad xs.length c).map (fun i => xs.getD i 0)
      if mode = 3 then fill
      else match l, r with
        | none, none => fill
        | some a, none => a
        | none, some b => b
        | some a, some b => if mode = 0 then (a + b + 1) / 2 else if mode = 1 then a else b)

/-- Stages 1 to 4 of a line (R124 to R130); an unreadable BLACK entry is 0 (R142). -/
def Dev.correctLine (d : Dev) (c : Nat) (t : CtxTables) (pixEnd : Nat) (pixels : List Nat) : List Nat × Clips :=
  let cfg := d.act (R.CORR_CFG c)
  let x1 := d.stage1 c pixEnd pixels
  let (x2, n2) := if getBits cfg 0 1 = 1 then
      mapSat pixEnd (fun i x => (x : Int) - (if t.badBlack.contains i then 0 else blackAt t.black i)) 0 x1
    else (x1, 0)
  let x3 := if getBits cfg 1 1 = 1 then stage3 t.defs (d.fillSample c) x2 else x2
  let (x4, n4) := if getBits cfg 2 1 = 1 then
      mapSat pixEnd (fun i x => (((x * gainAt t.gain i + 8192) / 16384 : Nat) : Int)) 0 x3
    else (x3, 0)
  (x4, { black := n2, gain := n4 })

/-! ### Stage 6: cross-web remap (R131 to R134) -/

/-- The Catmull-Rom weights at a fraction of n/256, in units of 2^-14 (R133). -/
def cubicWeights (n : Nat) : List Int :=
  let x : Int := n
  let a := roundAway (-(x * x * x) + 512 * x * x - 65536 * x) 2048
  let c := roundAway (-3 * (x * x * x) + 1024 * x * x + 65536 * x) 2048
  let e := roundAway (x * x * x - 256 * x * x) 2048
  [a, 16384 - a - c - e, c, e]

/-- The interpolation ROM: INTERP 3 is treated as 0 (R133, Table 6-5). -/
def interpWeights (interp n : Nat) : List Int :=
  match interp with
  | 1 => [0, 16384 - 64 * (n : Int), 64 * (n : Int), 0]
  | 2 => if n < 128 then [0, 16384, 0, 0] else [0, 0, 16384, 0]
  | _ => cubicWeights n

/-- Weights times samples. -/
def weighted (ws : List Int) (xs : List Nat) : Int := (List.zip ws xs).foldl (fun a e => a + e.1 * (e.2 : Int)) 0

/-- Source column and fraction of an output column; none when it is not covered (R134). -/
def Dev.remapOf (d : Dev) (c : Nat) (table : Option (List Byte)) (i : Nat) : Option (Nat × Nat) :=
  if d.outCol0 c + i < d.mosWidth (d.ctxMosaic c) then
    if d.actFld ⟨R.CORR_CFG c, 3, 1⟩ = 0 then (if i < d.ctxWidth c then some (i, 0) else none)
    else
      let bs := table.getD []
      if 4 * i + 4 ≤ bs.length ∧ byteAt bs (4 * i + 3) / 128 = 1 then
        some (fieldAt bs (4 * i + 1) 2 % 2 ^ 15, byteAt bs (4 * i))
      else none
  else none

/-- Stage 6 of a line: a sample for each covered output column, none for NOCOV, and how many were clipped. -/
def Dev.remapLine (d : Dev) (c : Nat) (table : Option (List Byte)) (xs : List Nat) : List (Option Nat) × Nat :=
  let interp := d.actFld ⟨R.CORR_CFG c, 4, 2⟩
  let last := xs.length - 1
  let outs : List (Option (Nat × Bool)) := (List.range (d.outW c)).map (fun i => (d.remapOf c table i).map (fun sf =>
    let at_ (j : Nat) : Nat := xs.getD (min last (sf.1 + j - 1)) 0
    let v := (weighted (interpWeights interp sf.2) [at_ 0, at_ 1, at_ 2, at_ 3] + 8192) / 16384
    (satU16 v, decide ((satU16 v : Int) ≠ v))))
  (outs.map (fun o => o.map (·.1)), (outs.filter (fun o => match o with
    | some x => x.2
    | none => false)).length)

/-! ### Stage 7: the baseline tracker (R135 to R139) -/

/-- The tracker's settings for a line. -/
structure TrkSet where
  level : Nat
  th : Nat
  hold : Nat
  max_ : Nat
  k : Nat
  frozen : Bool
  held : Bool
  acquire : Bool

/-- One covered column (R135): its output, its state, whether it was clipped, whether FREEZE_MAX released it. -/
def trackColumn (p : TrkSet) (x : Nat) (s : TrkCol) : Nat × TrkCol × Bool × Bool :=
  if p.acquire || s.uninit then
    (p.level, if p.held then s else { b := x * 65536, hold := 0, run := 0, uninit := false }, false, false)
  else
    let bi : Int := ((s.b + 0x8000) / 65536 : Nat)
    let dv : Int := (x : Int) - bi
    let o := satU16 (dv + (p.level : Int))
    let clip := decide ((o : Int) ≠ dv + (p.level : Int))
    if p.frozen || p.held then (o, s, clip, false)
    else
      let beyond := decide (p.th < dv.natAbs)
      let hold := if beyond then p.hold else s.hold - 1
      if beyond || decide (0 < s.hold) then
        let run := min (s.run + 1) 0xFFFFF
        if p.max_ ≠ 0 ∧ p.max_ ≤ run then (o, { b := x * 65536, hold := 0, run := 0, uninit := false }, clip, true)
        else (o, { s with hold := hold, run := run }, clip, false)
      else
        let b := (s.b : Int) + ((x * 65536 : Nat) - (s.b : Int)) / 2 ^ p.k
        (o, { s with run := 0, b := b.toNat }, clip, false)

/-- What the tracker makes of a line: outputs, columns, clipped samples, columns released, columns frozen at its end. -/
structure TrkOut where
  vals : List (Option Nat) := []
  cols : Tbl TrkCol
  clips : Nat := 0
  freed : Nat := 0
  frozen : Nat := 0

def colInit (_ : Nat) : TrkCol := {}

/-- The tracker over a line, from output column `j` on. A column not covered holds its state and gives nothing (R139). -/
def trackLine (p : TrkSet) : Nat → List (Option Nat) → TrkOut → TrkOut
  | _, [], r => { r with vals := r.vals.reverse }
  | j, none :: xs, r => trackLine p (j + 1) xs { r with vals := none :: r.vals }
  | j, some x :: xs, r =>
    let (o, s, clip, freed) := trackColumn p x (tget colInit r.cols j)
    trackLine p (j + 1) xs
      { vals := some o :: r.vals, cols := tset colInit r.cols j s,
        clips := r.clips + (if clip then 1 else 0), freed := r.freed + (if freed then 1 else 0),
        frozen := r.frozen + (if 0 < s.run then 1 else 0) }

/-! ### The tracker's state in DRAM (R140) -/

/-- The eight bytes of a column. -/
def TrkCol.bytes (x : TrkCol) : List Byte := leBytes 8 (x.b + x.hold * 2 ^ 32 + x.run * 2 ^ 44)

/-- A column from its eight bytes; that it is uninitialised is no part of them. -/
def TrkCol.ofBytes (x : TrkCol) (bs : List Byte) : TrkCol :=
  { x with b := fieldAt bs 0 4, hold := fieldAt bs 4 2 % 4096, run := fieldAt bs 4 4 / 4096 }

def Dev.trkPlace (d : Dev) (c : Nat) : Nat := d.placeOf (tableKey c 0 0)

/-- The strand reads the state of a context's columns. A column in an unreadable block is to be acquired (R142); the flag tells that there
was one. -/
def Dev.trkLoad (d : Dev) (c : Nat) : Bool × Dev :=
  let n := d.outW c
  if n = 0 then (false, d)
  else
    let a := d.trkPlace c
    let (bs, bad, d) := d.memReadBad 0x01 a (8 * n)
    let x := d.ctxStr c
    let cols := (List.range n).foldl (fun cs j =>
      let y := tget colInit cs j
      tset colInit cs j (if bad.contains ((a + 8 * j) / 64) then {} else y.ofBytes ((bs.drop (8 * j)).take 8))) x.cols
    (!bad.isEmpty, d.setCtxStr c { x with cols := cols })

/-- The strand writes the state of a context's columns back. -/
def Dev.trkStore (d : Dev) (c : Nat) : Dev :=
  let n := d.outW c
  if n = 0 then d
  else d.memWrite 0x01 (d.trkPlace c) ((List.range n).flatMap (fun j => (tget colInit (d.ctxStr c).cols j).bytes))

end Sys2Proof.Machine
end

