-- ==== Sys2Proof/Machine/Resample.lean ====
section
/-! DEFINITION. The web-axis resampler: input lines and the hold rule, decimation, the phase accumulator, response sets, bypass,
standstill, reversal and restart (R145 to R157, R513). Times are TB0 in 2^-16 ns. -/

namespace Sys2Proof.Machine

/-- An RS_EVENT bit sets (vector 38). -/
def Dev.rsEvent (d : Dev) (c bit : Nat) : Dev := d.sticky ⟨R.RS_EVENT c, bit, 1⟩ 38 true

/-! ### Response sets (R156, R513) -/

/-- The weight of FS15 at a tap: the overlap of the tap's interval with a box of w = a/b input lines around u = p/64. -/
def boxWeight (a b p t : Nat) : Int :=
  let lo : Int := (2 * (t : Int) - 7) * 64 * b
  let hi : Int := (2 * (t : Int) - 5) * 64 * b
  let l := max lo (2 * (p : Int) * b - 64 * a)
  let h := min hi (2 * (p : Int) * b + 64 * a)
  if h ≤ l then 0 else roundAway (128 * (h - l)) (a : Int)

/-- Tap 3 takes 16,384 minus the other seven weights. -/
def withTap3 (f : Nat → Int) : List Int :=
  let ws := (List.range 8).map f
  let s := ([0, 1, 2, 4, 5, 6, 7].map f).foldl (· + ·) 0
  ws.set 3 (16384 - s)

/-- Is a list of weights one that the ROM can hold at a phase of a set: eight signed 16-bit weights (R150), and no impulse at phase 0 of a
low-pass set (R156)? -/
def romHolds (set p : Nat) (ws : List Int) : Bool :=
  ws.all (fun w => decide (-32768 ≤ w) && decide (w ≤ 32767)) && !(decide (8 ≤ set) && p == 0 && ws == [0, 0, 0, 16384, 0, 0, 0, 0])

/-- The weights of a set FS2 to FS14 at a phase: free but for what R150 and R156 say of them, so that draws which the ROM cannot hold are
passed over, for their sixteenths and a spread over three taps (assumption 21). -/
def romWeights (set p : Nat) : List Int :=
  let f (t : Nat) : Int := (Config.fsWeight set p t).toInt
  if romHolds set p (withTap3 f) then withTap3 f
  else if romHolds set p (withTap3 (fun t => f t / 16)) then withTap3 (fun t => f t / 16)
  else withTap3 (fun t => if t = 2 ∨ t = 4 then 1 else 0)

/-- The taps of a response set at a phase; `num/den` is the local ratio, which FS15 uses, limited to 1 to 7. -/
def tapWeights (set p num den : Nat) : List Int :=
  match set with
  | 0 => [0, 0, 0, 16384 - 256 * (p : Int), 256 * (p : Int), 0, 0, 0]
  | 1 => [0, 0] ++ cubicWeights (4 * p) ++ [0, 0]
  | 15 =>
    let (a, b) := if num < den then (1, 1) else if 7 * den < num then (7, 1) else (num, den)
    withTap3 (boxWeight a b p)
  | n => if n ≤ 7 ∧ p = 0 then [0, 0, 0, 16384, 0, 0, 0, 0] else romWeights n p

/-! ### Output lines (R149 to R152) -/

/-- The settings of a context's resampler in force. -/
def Dev.rsMode (d : Dev) (c : Nat) : Nat := d.actFld ⟨R.RS_CFG c, 0, 1⟩
def Dev.rsDec (d : Dev) (c : Nat) : Nat := 2 ^ d.actFld ⟨R.RS_CFG c, 1, 2⟩
def Dev.fsSel (d : Dev) (c : Nat) : Nat := d.actFld ⟨R.RS_CFG c, 4, 4⟩

/-- A resampled line before the stages after it: index, line, and whether it is complete with its stripe's flush. -/
abbrev RsOut := Int × RsLine

/-- Resampler work on a context: the device, its state, the lines emitted so far (newest first), and whether a memory error
flags them (R157). -/
structure RsRun where
  d : Dev
  x : CtxStr
  outs : List RsOut := []

/-- The phase and base of a grid point between lines i and i + 1 (R149): u of 24 bits, p, and whether line i + 1 is the base. -/
def phaseOf (g s0 s1 : Int) : Int × Nat × Bool :=
  let u := (g - s0) * 2 ^ 24 / (s1 - s0)
  let p := ((u + 2 ^ 17) / 2 ^ 18).toNat
  if p = 64 then (u, 0, true) else (u, p, false)

/-- TB0 time at the fraction u of R149, to the nearest unit (R146). -/
def timeAt (t0 t1 u : Int) : Int := t0 + roundDiv ((t1 - t0) * u) (2 ^ 24)

/-- Emit output line k between lines `i` and `i + 1` of the window. -/
def RsRun.emit (r : RsRun) (c : Nat) (k : Int) (i : Nat) : RsRun :=
  let w := r.x.win
  match w[i]?, w[i + 1]? with
  | some a, some b =>
    let g := r.d.ctxGrid c
    let pos := g.at k
    let (n, m) := g.mean
    let (u, p, up) := phaseOf pos a.s b.s
    let delta := (b.s - a.s).toNat
    let d := r.d.setReg (R.RS_RATIO c) (BitVec.ofNat 32 (min 0xFFFFFFFF (n * 2 ^ 24 / (m * delta))))
    let t := timeAt a.t b.t u
    let (xs, flags, d) :=
      if 8 * n < delta * m then
        let z := if b.s - pos < pos - a.s then b else a
        (z.xs, z.flags ||| 129, (d.bump ⟨R.RS_HOLD_CNT c, 16, 16⟩).rsEvent c 1)
      else
        let base := if up then i + 1 else i
        let taps := (List.range 8).map (fun t => w.getD (min (w.length - 1) (base + t - 3)) a)
        let ws := tapWeights (d.fsSel c) p n (m * delta)
        let sums := (List.range a.xs.length).map (fun j =>
          (weighted ws (taps.map (fun l => l.xs.getD j 0)) + 8192) / 16384)
        let clipped := (sums.filter (fun v => decide ((satU16 v : Int) ≠ v))).length
        let fl := ((List.zip ws taps).filter (fun e => e.1 != 0)).foldl (fun f e => f ||| e.2.flags) 0
        (sums.map satU16, fl, d.bumpBy ⟨R.RS_SAT_CNT c, 0, 32⟩ clipped)
    { r with d := d.setSreg64 (R.RS_LAST_K_LO c) k, x := { r.x with lastK := some k },
             outs := (k, { s := pos, t := t, flags := flags, xs := xs }) :: r.outs }
  | _, _ => r

/-- Does a grid point of the interval from `a` to `b` wait for one line more: its base is line i + 1, whose eighth tap is line i + 5
(R149, R150)? In an interval filled by the nearer line it does not. -/
def RsRun.waits (r : RsRun) (c : Nat) (k : Int) (a b : RsLine) : Bool :=
  let g := r.d.ctxGrid c
  let (n, m) := g.mean
  (phaseOf (g.at k) a.s b.s).2.2 && decide ((b.s - a.s).toNat * m ≤ 8 * n)

/-- Emit the grid points of the interval after window line `i`, ascending, each index once; `n` bounds how many. Unless `all`, it stops
at one whose base is line i + 1. -/
def RsRun.interval (r : RsRun) (c i : Nat) (all : Bool) : Nat → RsRun
  | 0 => r
  | n + 1 =>
    match r.x.win[i]?, r.x.win[i + 1]? with
    | some a, some b =>
      let g := r.d.ctxGrid c
      let k0 := g.next (a.s - 1)
      let k := match r.x.lastK with
        | none => k0
        | some l => if k0 ≤ l then l + 1 else k0
      if g.at k < b.s && (all || !r.waits c k a b) then (r.emit c k i).interval c i all n else r
    | _, _ => r

/-- How many grid points an interval can hold. -/
def intervalMax (a b : RsLine) (g : Grid) : Nat := (b.s - a.s).toNat / g.pitch + 2

/-- Emit the interval after window line `i`, whole or as far as its lines are present. -/
def RsRun.at (r : RsRun) (c i : Nat) (all : Bool) : RsRun :=
  match r.x.win[i]?, r.x.win[i + 1]? with
  | some a, some b => r.interval c i all (intervalMax a b (r.d.ctxGrid c))
  | _, _ => r

/-- Still and rewound lines (R153). -/
def Dev.rsStill (d : Dev) (c : Nat) : Dev := d.bump ⟨R.RS_DROP_CNT c, 0, 16⟩
def Dev.rsRewound (d : Dev) (c : Nat) : Dev := (d.bump ⟨R.RS_DROP_CNT c, 16, 16⟩).rsEvent c 0

/-- A decimated line enters the filter (R149 to R153). -/
def RsRun.filterLine (r : RsRun) (c : Nat) (l : RsLine) : RsRun :=
  let old := r.x.sMax
  if old = some l.s then { r with d := r.d.rsStill c }
  else if (match old with
    | some s => decide (l.s < s)
    | none => false) then { r with d := r.d.rsRewound c }
  else
    let (n, m) := (r.d.ctxGrid c).mean
    let close := match r.x.win.getLast? with
      | some p => decide ((l.s - p.s) * 8 * m < n)
      | none => false
    let d := if close then (r.d.bump ⟨R.RS_RATIO_HI_CNT c, 0, 32⟩).rsEvent c 2 else r.d
    let win := r.x.win ++ [l]
    let win := win.drop (win.length - 8)
    let r := { r with d := d, x := { r.x with win := win, sMax := some l.s } }
    let r := if win.length < 6 then r else r.at c (win.length - 6) true
    if win.length < 5 then r else r.at c (win.length - 5) false

/-- A decimated line in bypass (R155). -/
def RsRun.bypassLine (r : RsRun) (c : Nat) (l : RsLine) : RsRun :=
  let g := r.d.ctxGrid c
  let (n, m) := g.mean
  let k := roundDiv ((l.s - g.org) * (m : Int)) (n : Int)
  let below := match r.x.sMax with
    | some s => decide (l.s < s)
    | none => false
  let again := match r.x.lastK with
    | some k' => decide (k ≤ k')
    | none => false
  if below then { r with d := r.d.rsRewound c }
  else if again || r.x.sMax == some l.s then { r with d := r.d.rsStill c, x := { r.x with sMax := some l.s } }
  else
    let copies : List RsOut := match r.x.prev with
      | none => []
      | some (k0, p) => (List.range (k - k0 - 1).toNat).map (fun (i : Nat) =>
          let j := k0 + 1 + (i : Int)
          let u := (g.at j - p.s) * 2 ^ 24 / (l.s - p.s)
          (j, { s := g.at j, t := timeAt p.t l.t u, flags := p.flags ||| 1, xs := p.xs }))
    { r with d := r.d.setSreg64 (R.RS_LAST_K_LO c) k,
             x := { r.x with sMax := some l.s, lastK := some k, prev := some (k, l) },
             outs := (k, { l with s := g.at k }) :: copies.reverse ++ r.outs }

/-- A decimated line. -/
def RsRun.decimated (r : RsRun) (c : Nat) (l : RsLine) : RsRun :=
  if r.d.rsMode c = 0 then r.bypassLine c l else r.filterLine c l

/-- A line joins a decimation group: the sums grow. -/
def RsGroup.add (g : RsGroup) (l : RsLine) : RsGroup :=
  { n := g.n + 1, s := g.s + l.s, t := g.t + l.t, flags := g.flags ||| l.flags,
    xs := if g.n = 0 then l.xs else (List.zip g.xs l.xs).map (fun e => e.1 + e.2) }

/-- The line that stands for a decimation group (R148). -/
def RsGroup.line (g : RsGroup) : RsLine :=
  { s := g.s / (g.n : Int), t := g.t / (g.n : Int), flags := g.flags, xs := g.xs.map (fun v => (v + g.n / 2) / g.n) }

/-- An input line with its trigger count goes to its decimation group (R148). -/
def RsRun.inputLine (r : RsRun) (c count : Nat) (l : RsLine) : RsRun :=
  let dec := r.d.rsDec c
  if dec = 1 then r.decimated c l
  else
    let g : Option RsGroup := if count % dec = 0 then some {} else r.x.group
    match g.map (·.add l) with
    | none => r
    | some g =>
      if count % dec + 1 = dec then
        let r := { r with x := { r.x with group := some {} } }
        if g.n = dec then r.decimated c g.line else r
      else { r with x := { r.x with group := some g } }

/-- A held input line (R147): it takes the samples and flags of the most recent real line, or waits for the first. -/
def RsRun.pushHeld (r : RsRun) (c count : Nat) (s t : Int) : RsRun :=
  let r := { r with d := r.d.bump ⟨R.RS_HOLD_CNT c, 0, 16⟩ }
  match r.x.real with
  | some (xs, f) => r.inputLine c count { s := s, t := t, flags := f ||| 1, xs := xs }
  | none => { r with x := { r.x with waiting := r.x.waiting ++ [(count, { s := s, t := t, flags := 1, xs := [] })] } }

/-- A real input line: the lines that wait for it go first (R147). -/
def RsRun.pushReal (r : RsRun) (c count : Nat) (l : RsLine) : RsRun :=
  let w := r.x.waiting
  let r := { r with x := { r.x with waiting := [], real := some (l.xs, l.flags) } }
  (w.foldl (fun r e => r.inputLine c e.1 { e.2 with flags := l.flags ||| 1, xs := l.xs }) r).inputLine c count l

/-- A restart (R154): the window and the held samples are discarded; s_max and the last k stay. -/
def RsRun.restart (r : RsRun) (c : Nat) : RsRun :=
  { r with d := r.d.rsEvent c 3,
           x := { r.x with restart := false, real := none, waiting := [], group := none, win := [], prev := none } }

/-- A flushed stripe (R153): every grid point below s_max is emitted. -/
def RsRun.flush (r : RsRun) (c : Nat) : RsRun :=
  if r.d.rsMode c = 0 then r else (List.range (r.x.win.length - 1)).foldl (fun r i => r.at c i true) r

/-- Held lines for the counts from `k` on that were dropped at a full ring (R147). -/
def RsRun.dropped (r : RsRun) (c : Nat) : Nat → Nat → RsRun
  | _, 0 => r
  | k, n + 1 =>
    let ((p, t), d) := r.d.stampOf 0x01 (r.d.ctxTrig c) k
    ({ r with d := d }.pushHeld c k p t).dropped c ((k + 1) % 2 ^ 32) n

/-! ### The resampler's state in DRAM (R157) -/

/-- Samples of 16 bits and of 32 bits from their bytes. -/
def words16 : List Byte → List Nat
  | a :: b :: rest => leNat [a, b] :: words16 rest
  | _ => []

def Dev.rsPlace (d : Dev) (c : Nat) : Nat := d.placeOf (tableKey c 1 0)

/-- The state as bytes, in areas of `w` columns: up to seven lines, s_max, the last k, and the decimation sums (assumption 34). -/
def CtxStr.rsBytes (x : CtxStr) (w : Nat) : List Byte :=
  let line (i : Nat) : List Byte := (List.range w).flatMap (fun j => leBytes 2 (((x.win[i]?).map (·.xs.getD j 0)).getD 0))
  (List.range 7).flatMap line ++ leBytes 8 (ofSigned 64 (x.sMax.getD 0)) ++ leBytes 8 (ofSigned 64 (x.lastK.getD 0)) ++
    (List.range w).flatMap (fun j => leBytes 4 (((x.group.map (·.xs)).getD []).getD j 0))

/-- The state with what its bytes say. -/
def CtxStr.rsOf (x : CtxStr) (w : Nat) (bs : List Byte) : CtxStr :=
  { x with
    win := x.win.zipIdx.map (fun e => { e.1 with xs := words16 ((bs.drop (2 * w * e.2)).take (2 * w)) })
    sMax := x.sMax.map (fun _ => toSigned 64 (fieldAt bs (14 * w) 8))
    lastK := x.lastK.map (fun _ => toSigned 64 (fieldAt bs (14 * w + 8) 8))
    group := x.group.map (fun g => if g.n = 0 then g else { g with xs := words32 (bs.drop (14 * w + 16)) }) }

/-- The strand reads the resampler's state of a context; the flag tells of an uncorrectable error in it, on which the resampler
restarts. -/
def Dev.rsLoad (d : Dev) (c : Nat) : Bool × Dev :=
  let w := d.ctxWidth c
  let (bs, bad, d) := d.memReadBad 0x01 (d.rsPlace c) (18 * w + 16)
  let x := d.ctxStr c
  if bad = [] then (false, d.setCtxStr c (x.rsOf w bs)) else (true, d.setCtxStr c { x with restart := true })

/-- The strand writes the resampler's state of a context back: the newest seven lines of the window. -/
def Dev.rsStore (d : Dev) (c : Nat) : Dev :=
  let x := d.ctxStr c
  let x := { x with win := x.win.drop (x.win.length - 7) }
  (d.setCtxStr c x).memWrite 0x01 (d.rsPlace c) (x.rsBytes (d.ctxWidth c))

end Sys2Proof.Machine
end

