-- ==== Sys2Proof/Machine/Strand.lean ====
section
/-! DEFINITION. The strands: choice of stripes, commits, the processing of a stripe, flushes, table loads and the commands of
contexts, correction and resampler (R112 to R123, R136 to R144, R159). -/

namespace Sys2Proof.Machine

/-- A CORR_EVENT bit sets (vector 38). -/
def Dev.corrEvent (d : Dev) (c bit : Nat) : Dev := d.sticky ⟨R.CORR_EVENT c, bit, 1⟩ 38 true

/-! ### Commits (R117 to R120) -/

def ctxCommit (c : Nat) : Fld := ⟨R.CTX_BANK_CTRL c, 0, 1⟩
def tableSwap (c : Nat) : Fld := ⟨R.CTX_BANK_CTRL c, 1, 1⟩

/-- The banked registers of a context; those whose change restarts the resampler (R154). -/
def rsGridRegs (c : Nat) : List Nat := [R.RS_GRID_ORG_LO c, R.RS_GRID_ORG_HI c, R.RS_PITCH c, R.RS_PITCH_REM c]
def ctxBanked (c : Nat) : List Nat := addrs (R.CORR_CFG c) 10 ++ R.RS_CFG c :: rsGridRegs c

/-- A commit becomes pending; a second one merges into it (R118). -/
def Dev.ctxRequest (d : Dev) (c : Nat) (cause : Option Cause) : Dev :=
  (d.put (ctxCommit c) 1).setCtxRx c { d.ctxRx c with commitCause := match (d.ctxRx c).commitCause with
    | none => cause
    | some x => some x }

/-- A pending commit applies at the stripe start (R118, R138, R140, R154). -/
def Dev.ctxApply (d : Dev) (c : Nat) : Dev :=
  if d.bit (ctxCommit c) then
    let cause := (d.ctxRx c).commitCause
    let same (a : Nat) : Bool := d.reg a == d.act a
    let restart := !((rsGridRegs c).all same) || getBits (d.reg (R.RS_CFG c)) 0 3 != getBits (d.act (R.RS_CFG c)) 0 3
    let acq := (getBits (d.reg (R.CORR_CFG c)) 6 1 == 1 && getBits (d.act (R.CORR_CFG c)) 6 1 == 0) ||
      !same (R.CORR_OUT_COL0 c) || !same (R.CORR_OUT_W c)
    let swap := d.bit (tableSwap c)
    let d := (d.put (ctxCommit c) 0).setCtxRx c { d.ctxRx c with commitCause := none }
    let d := d.applyRegs (ctxBanked c)
    let d := if swap then d.put ⟨R.CTX_BANK_STATUS c, 0, 1⟩ (1 - d.tblBank c) else d
    let d := d.put ⟨R.CTX_BANK_STATUS c, 8, 8⟩ ((d.fld ⟨R.CTX_BANK_STATUS c, 8, 8⟩ + 1) % 256)
    let d := (d.ctxEvent c 5).raise 0x2 (8 * c + 6) cause
    let d := if restart then d.setCtxStr c { d.ctxStr c with restart := true } else d
    if acq then d.acquire c none else d
  else d

/-! ### Stripe start (R112 to R114) -/

/-- Of two stripes offered, the one with the earlier completion point, the first at equal points. -/
def earlier (b : Option StripeNow) (o : StripeNow) : Option StripeNow :=
  match b with
  | none => some o
  | some x => if o.doneAt < x.doneAt then some o else some x

/-- The stripe that an idle strand takes: of all complete stripes of its contexts the one with the earliest completion point, then that of
the lower context (R113). -/
def Dev.stripeNext (d : Dev) (s : Nat) : Option StripeNow :=
  (((List.range 8).map (· + 8 * s)).flatMap (fun c => d.ctxWaiting c)).foldl earlier none

/-- The strand takes its next stripe, applies the context's commit (R118), and reads the context's state (R140, R157). -/
def Dev.stripeStart (d : Dev) (s : Nat) : Dev :=
  match tget noneAt d.str.now s with
  | some _ => d
  | none =>
    match d.stripeNext s with
    | none => d
    | some o =>
      let d := { d with str := { d.str with now := tset noneAt d.str.now s (some o) } }
      let d := (d.put ⟨R.STR_STATUS s, 8, 3⟩ (o.ctx % 8)).put ⟨R.STR_STATUS s, 11, 1⟩ 1
      let (e1, d) := (d.ctxApply o.ctx).trkLoad o.ctx
      let (e2, d) := d.rsLoad o.ctx
      ({ d with str := { d.str with now := tset noneAt d.str.now s (some { o with trkErr := e1, rsErr := e2 }) } }).strShow s

/-! ### Processing a stripe (R124, R147 to R154, R135 to R142) -/

/-- LINE_FLAGS of a slot's FLAGS (Tables 5-2, 8-3). -/
def lineFlags (f : Nat) : Nat := f / 8 % 2 * 2 + f / 16 % 2 * 4 + f / 32 % 2 * 8 + f / 2 % 2 * 16 + f / 4 % 2 * 32

/-- Count what saturation changed (R127, R130). -/
def Dev.clipCount (d : Dev) (c : Nat) (k : Clips) : Dev :=
  let d := (d.bumpBy ⟨R.CORR_SAT_CNT c, 0, 16⟩ k.black).bumpBy ⟨R.CORR_SAT_CNT c, 16, 16⟩ k.gain
  let d := (d.bumpBy ⟨R.CORR_SAT_CNT2 c, 0, 16⟩ k.remap).bumpBy ⟨R.CORR_SAT_CNT2 c, 16, 16⟩ k.track
  if k.black + k.gain + k.remap + k.track = 0 then d else d.corrEvent c 2

/-- How many counts stand between the last entry and this one: entries dropped at a full ring (R147). -/
def countGap (last : Option Nat) (count : Nat) : Nat :=
  match last with
  | none => 0
  | some l =>
    let n := (count + 2 ^ 33 - (l + 1)) % 2 ^ 32
    if n < 2 ^ 31 then n else 0

/-- One entry of a stripe: read its slot, correct its line, and give it to the resampler (R124, R147). -/
def RsRun.entry (r : RsRun) (c : Nat) (t : CtxTables) (e : RingEntry) : RsRun :=
  let d := r.d
  let w := d.ctxWidth c
  let (bs, err, d) := d.memRead 0x01 (d.slotAddr c e.slot) (64 + (w * bitsPerPixel (d.ctxFormat c) + 7) / 8)
  let f := fieldAt bs 12 2
  let gap := countGap r.x.lastCount e.count
  let r := { r with d := d }
  let r := if e.fresh then { r with x := { r.x with lastCount := none, restart := true } } else r
  let r := if r.x.restart then r.restart c else r
  let r := if e.fresh then r else r.dropped c ((e.count + 2 ^ 32 - gap) % 2 ^ 32) gap
  let r := if f % 2 = 1 then r.pushHeld c e.count e.pos e.time.linear16
    else
      let (xs, clips) := r.d.correctLine c t (fieldAt bs 36 4) (unpackPixels (bitsPerPixel (r.d.ctxFormat c)) w (bs.drop 64))
      { r with d := r.d.clipCount c clips }.pushReal c e.count
        { s := e.pos, t := e.time.linear16, flags := lineFlags f + (if err then 64 else 0), xs := xs }
  { r with x := { r.x with lastCount := some e.count } }

/-- The tracker's settings for an output line at a position (R135, R136). -/
def Dev.trkSet (d : Dev) (c : Nat) (pos : Int) (held : Bool) : TrkSet :=
  let a := toSigned 64 (d.act64 (R.BL_WIN_START_LO c))
  let b := toSigned 64 (d.act64 (R.BL_WIN_END_LO c))
  { level := d.actFld ⟨R.BL_CFG c, 0, 16⟩, th := d.actFld ⟨R.BL_CFG c, 16, 16⟩, hold := d.actFld ⟨R.BL_HOLD c, 0, 12⟩,
    max_ := d.actFld ⟨R.BL_FREEZE_MAX c, 0, 20⟩, k := clampNat 4 16 (d.actFld ⟨R.CORR_CFG c, 8, 5⟩),
    frozen := d.bit ⟨R.BL_CTRL c, 0, 1⟩ || d.bit ⟨R.BL_STATUS c, 0, 1⟩ || (decide (a ≤ pos) && decide (pos < b)),
    held := held, acquire := d.bit (acqPending c) && !held }

/-- Stages 6 and 7 of an output line, which then waits for the Seam unit. -/
def Dev.outLine (d : Dev) (c : Nat) (t : CtxTables) (k : Int) (l : RsLine) (flush memErr : Bool) : Dev :=
  let (vals, n) := d.remapLine c t.remap l.xs
  let d := d.clipCount c { remap := n }
  let p := d.trkSet c l.s (l.flags % 2 == 1)
  let d := (d.putBit ⟨R.BL_STATUS c, 1, 1⟩ (d.bit ⟨R.BL_CTRL c, 0, 1⟩)).putBit ⟨R.BL_STATUS c, 2, 1⟩
    (decide (toSigned 64 (d.act64 (R.BL_WIN_START_LO c)) ≤ l.s) && decide (l.s < toSigned 64 (d.act64 (R.BL_WIN_END_LO c))))
  let (vals, d) := if d.actFld ⟨R.CORR_CFG c, 6, 1⟩ = 1 then
      let x := d.ctxStr c
      let o := trackLine p 0 vals { cols := x.cols }
      let d := d.setCtxStr c { x with cols := o.cols }
      let d := d.clipCount c { track := o.clips }
      let d := if o.freed = 0 then d else (d.bumpBy ⟨R.BL_FRZ_TO_CNT c, 0, 32⟩ o.freed).corrEvent c 0
      let d := d.put ⟨R.BL_STATUS c, 16, 16⟩ (min 0xFFFF o.frozen)
      let d := if p.acquire then
          let cause := (d.ctxStr c).acqCause
          (((d.put (acqPending c) 0).setCtxStr c { d.ctxStr c with acqCause := none }).corrEvent c 1).raise 0x2 (8 * c + 7) cause
        else d
      (o.vals, d)
    else (vals, d)
  let o : OutLine := { k := k, pos := l.s, level := p.level, time := l.t, flags := l.flags ||| (if memErr then 64 else 0),
                       col0 := d.outCol0 c, vals := vals, flush := flush }
  { d with str := { d.str with outs := tset (fun _ => []) d.str.outs c (tget (fun _ => []) d.str.outs c ++ [o]) } }

/-- The blocks of places in an area become unreadable, as the reads of the stripe in process find them; what the code makes of the error
is a free value. -/
def Dev.blocksLost (d : Dev) (a size : Nat) (is_ : List Nat) : Dev :=
  is_.foldl (fun d i =>
    let (v, d) := d.drawNat
    d.noteFault ((a + size * i) / 64) (.lost (v % 65536))) d

/-- The new errors that a stripe's reads meet, by what they hit: BLACK and DEFCOL entries, tracker columns, the resampler's state. Those
of the state are read again, for their answers (R142, R157, R377). -/
def Dev.stripeErrors (d : Dev) (c : Nat) (badBlack badDef badTrk : List Nat) (rs : Bool) (o : StripeNow) : StripeNow × Dev :=
  let at_ (id : Nat) : Nat := d.placeOf (tableKey c (d.tblBank c) id)
  let d := ((d.blocksLost (at_ 1) 2 badBlack).blocksLost (at_ 2) 4 badDef).blocksLost (d.trkPlace c) 8 badTrk
  let d := if rs then d.blocksLost (d.rsPlace c) 1 [0] else d
  let (e1, d) := if badTrk = [] then (false, d) else d.trkLoad c
  let (e2, d) := if rs then d.rsLoad c else (false, d)
  ({ o with trkErr := o.trkErr || e1, rsErr := o.rsErr || e2 }, d)

/-- Lateness beyond twice the stripe time: T_S is the largest STRIPE_LEN ÷ RATE_MAX of the strand's enabled contexts (R116). -/
def Dev.tooLate (d : Dev) (s late : Nat) : Bool :=
  (((List.range 8).map (· + 8 * s)).filter (fun c => d.ctxEn c)).all (fun c =>
    decide (2 * d.ctxStripeLen c * 1000000000 < late * d.ctxRate c))

/-- Every entry of a stripe passes the stages, and the output lines wait for the Seam unit. -/
def Dev.stripeRun (d : Dev) (c : Nat) (o : StripeNow) : Dev :=
  let (t, d) := d.readTables c
  let bad := t.err || o.trkErr
  let d := if bad || o.rsErr then d.bump ⟨R.CORR_MEMERR_CNT c, 0, 32⟩ else d
  let d := if bad then d.corrEvent c 3 else d
  let es := ((d.ctxRx c).entries.drop o.skip).take o.n
  let r := es.foldl (fun r e => RsRun.entry r c t e) { d := d, x := d.ctxStr c }
  let r := if o.isPart then r.flush c else r
  let d := r.d.setCtxStr c { r.x with acqCause := (r.d.ctxStr c).acqCause, cols := (r.d.ctxStr c).cols }
  r.outs.reverse.foldl (fun d l => d.outLine c t l.1 l.2 o.isPart (bad || o.rsErr)) d

/-- The slots of a stripe become free (R107). -/
def Dev.stripeFree (d : Dev) (o : StripeNow) : Dev :=
  let y := d.ctxRx o.ctx
  let gone := (y.entries.drop o.skip).take o.n
  let fs := if o.isPart then y.flushes.filter (fun f => !gone.any (fun e => e.slot == f.2)) else y.flushes
  (d.setCtxRx o.ctx { y with entries := y.entries.take o.skip ++ y.entries.drop (o.skip + o.n), flushes := fs }).ringFill o.ctx

/-- The strand finishes its stripe (R107, R113, R116): every entry passes the stages, the state goes back to DRAM, the slots are freed, and
the lateness is taken. On a single-stack variant an uncorrectable error freezes the device (R4). -/
def Dev.stripeEnd (d : Dev) (s : Nat) (badBlack badDef badTrk : List Nat) (rs : Bool) : Dev :=
  match tget noneAt d.str.now s with
  | none => d
  | some o =>
    let (o, d) := d.stripeErrors o.ctx badBlack badDef badTrk rs o
    let d := (((d.stripeRun o.ctx o).trkStore o.ctx).rsStore o.ctx).stripeFree o
    let late := d.now2 - o.doneAt
    let d := (d.bump ⟨R.STR_STRIPE_CNT s, 0, 32⟩).keepMax ⟨R.STR_LATE_MAX s, 0, 24⟩ (late / 1000)
    let d := if d.tooLate s late then d.bump ⟨R.STR_LATE_CNT s, 0, 32⟩ else d
    let d := { d with str := { d.str with now := tset noneAt d.str.now s none } }
    (d.put ⟨R.STR_STATUS s, 11, 1⟩ 0).strShow s

/-! ### Events -/

/-- STRIPE_START: the strand, idle, takes a stripe (R113). -/
def execStripeStart (strand : Nat) (s : State) : Res := onFab (fun d => if strand < 4 then d.stripeStart strand else d) s

/-- STRIPE_END: the strand finishes its stripe, with the new memory errors it met (R107, R142, R157). -/
def execStripeEnd (strand : Nat) (badBlack badDef badTrk : List Nat) (rs : Bool) (s : State) : Res :=
  onFab (fun d => if strand < 4 then d.stripeEnd strand badBlack badDef badTrk rs else d) s

/-- The complete entries at the front of a context's oldest incomplete stripe: what the expiry of FLUSH_T makes a partial stripe of
(R114). -/
def Dev.flushFront (d : Dev) (c : Nat) : List RingEntry :=
  (stripeOpen (d.ctxStripeLen c) (d.ctxRx c).flushes (d.ctxBlocks c)).takeWhile (fun e => e.closeT.isSome)

/-- FLUSH: FLUSH_T has passed without a new complete entry on a context's incomplete stripe (R114). -/
def Dev.flush (d : Dev) (ctx : Nat) : Dev :=
  match (d.flushFront ctx).getLast? with
  | none => d
  | some e =>
    let ms := d.fld ⟨R.CTX_MATCH_CFG ctx, 24, 8⟩
    if d.ctxEn ctx && ms != 0 then
      let d := d.expire ((d.flushFront ctx).foldl (fun m e => max m (e.closeT.getD 0)) 0) (ms * 1000000)
      let x := d.ctxRx ctx
      let d := (d.setCtxRx ctx { x with flushes := x.flushes ++ [(d.now2, e.slot)] }).strShow (ctx / 8)
      ((d.bump ⟨R.CTX_RESYNC_CNT ctx, 16, 16⟩).ctxEvent ctx 7).raise 0x2 (8 * ctx + 4)
    else d

/-- FLUSH (R114). -/
def execFlush (ctx : Nat) (s : State) : Res := onFab (fun d => d.flush ctx) s

/-- Is a context's stripe in process at its strand? -/
def Dev.ctxRuns (d : Dev) (c : Nat) : Bool :=
  match tget noneAt d.str.now (c / 8) with
  | some w => w.ctx == c
  | none => false

/-- FREEZE_TIMEOUT: sample `x` of a covered column, on an output line in process that does not stand in the freeze window, finds the column
frozen for FREEZE_MAX lines: it takes the sample as its baseline (R135, R136). -/
def Dev.freezeEnd (d : Dev) (ctx col x : Nat) : Dev :=
  let (t, _) := d.readTables ctx
  let p := d.trkSet ctx 0 false
  let p := { p with frozen := d.bit ⟨R.BL_CTRL ctx, 0, 1⟩ || d.bit ⟨R.BL_STATUS ctx, 0, 1⟩ || d.bit ⟨R.BL_STATUS ctx, 2, 1⟩ }
  let y := d.ctxStr ctx
  let (_, k, _, freed) := trackColumn p (x % 65536) (tget colInit y.cols col)
  if d.ctxEn ctx && d.ctxRuns ctx && d.actFld ⟨R.CORR_CFG ctx, 6, 1⟩ == 1 && decide (col < d.outW ctx) &&
      (d.remapOf ctx t.remap col).isSome && freed then
    ((d.setCtxStr ctx { y with cols := tset colInit y.cols col k }).bump ⟨R.BL_FRZ_TO_CNT ctx, 0, 32⟩).corrEvent ctx 0
  else d

/-- FREEZE_TIMEOUT (R135). -/
def execFreezeTimeout (ctx col x : Nat) (s : State) : Res := onFab (fun d => d.freezeEnd ctx col x) s

/-- A task input of a context. -/
def ctxTask (ctx i : Nat) (act : HeldAct → Dev → Dev) (s : State) : Res :=
  onDev (fun d => if ctx < d.variant.contexts then d.task 0x1 (4 * ctx + i) act else d) s

/-- BL_FREEZE (R137). -/
def execBlFreeze (ctx : Nat) (s : State) : Res := ctxTask ctx 0 (fun _ d => d.put ⟨R.BL_STATUS ctx, 0, 1⟩ 1) s

/-- BL_THAW (R137). -/
def execBlThaw (ctx : Nat) (s : State) : Res := ctxTask ctx 1 (fun _ d => d.put ⟨R.BL_STATUS ctx, 0, 1⟩ 0) s

/-- BL_ACQUIRE (R138). -/
def execBlAcquire (ctx : Nat) (s : State) : Res := ctxTask ctx 2 (fun a d => d.acquire ctx (some a.cause)) s

/-- COMMIT_TASK (R118, Table 13-2). -/
def execCommitTask (ctx : Nat) (s : State) : Res := ctxTask ctx 3 (fun a d => d.ctxRequest ctx (some a.cause)) s

/-! ### Register writes -/

/-- A host write to a context's register: contexts that the variant lacks take nothing (R2). -/
def onCtx (ctx : Nat) (f : Dev → Dev) (s : State) : Res := onDev (fun d => if ctx < d.variant.contexts then f d else d) s

/-- COMMIT: a host write to CTX_BANK_CTRL (R118). -/
def execCommit (ctx : Nat) (v : Word) (s : State) : Res :=
  onCtx ctx (fun d =>
    let d := d.put (tableSwap ctx) (getBits v 1 1)
    if getBits v 0 1 = 1 then d.ctxRequest ctx none else d) s

/-- STR_GROUP_COMMIT: bits of absent or disabled contexts are ignored (R120, Table 5-7). -/
def execStrGroupCommit (v : Word) (s : State) : Res :=
  onDev (fun d => ((List.range d.variant.contexts).filter (fun c => getBits v c 1 == 1 && d.ctxEn c)).foldl
    (fun d c => d.ctxRequest c none) d) s

/-- BL_CTRL takes a whole word: FREEZE_ALL, and ACQUIRE by a 1 (Table 6-4). -/
def Dev.blCtrl (d : Dev) (c : Nat) (v : Word) : Dev :=
  let d := d.put ⟨R.BL_CTRL c, 0, 1⟩ (getBits v 0 1)
  if getBits v 1 1 = 1 then d.acquire c none else d

/-- FREEZE_ALL: a host write to BL_CTRL (R136). -/
def execFreezeAll (ctx : Nat) (v : Word) (s : State) : Res := onCtx ctx (fun d => d.blCtrl ctx v) s

/-- ACQUIRE: a host write of 1 to ACQUIRE in BL_CTRL (R138). -/
def execAcquire (ctx : Nat) (v : Word) (s : State) : Res :=
  onCtx ctx (fun d => if getBits v 1 1 = 1 then d.blCtrl ctx v else d) s

/-! ### Mailbox commands (R123, R144, R159) -/

/-- Does a table's length and content fit a context (R141, Table 6-3)? -/
def Dev.tableFits (d : Dev) (c id : Nat) (b : List Byte) : Bool :=
  let w := d.ctxWidth c
  let n := b.length
  match id with
  | 1 => n == 2 * w
  | 3 => n == 2 * w
  | 2 =>
    let es := (defEntries b []).map (· % 65536)
    decide (4 ≤ n) && decide (n ≤ 4096) && n % 4 == 0 && es.all (fun e => decide (e < w)) &&
    (List.zip es (es.drop 1)).all (fun e => decide (e.1 < e.2))
  | 4 => decide (4 ≤ n) && decide (n ≤ 131072) && n % 4 == 0 &&
    (List.range (n / 4)).all (fun i =>
      let v := fieldAt b (4 * i) 4
      decide (v / 256 % 2 ^ 15 < w) && v / 2 ^ 23 % 256 == 0)
  | _ => false

/-- 0x0301 STR_TABLE_LOAD. -/
def execStrTableLoad (tag : Word) (args : List Word) (dma : HostDma) (s : State) : Res :=
  onDev (fun d => d.mailbox 0x0301 false (args.length == 5) tag args fun d =>
    let c := (args.getD 0 0).toNat
    let id := (args.getD 1 0).toNat
    let len := (args.getD 4 0).toNat
    if 32 ≤ c then .fail stBadArg
    else if d.variant.contexts ≤ c then .fail stUnitAbsent
    else if d.bit (ctxCommit c) && d.bit (tableSwap c) then .fail stBadState
    else d.readsDram fun d => match d.hostBuf (word64 (args.getD 2 0) (args.getD 3 0)) len dma with
      | (0, b, d) => if d.tableFits c id b then .ok (d.setTable 0x01 c (1 - d.tblBank c) id b) [] else .failWith stBadArg d []
      | (st, _, d) => .failWith st d []) s

/-- 0x0302 STR_COMMIT. -/
def execStrCommit (tag : Word) (args : List Word) (s : State) : Res :=
  onDev (fun d => d.mailbox 0x0302 false (args.length == 2) tag args fun d =>
    let mask := args.getD 0 0
    if 2 ^ d.variant.contexts ≤ mask.toNat then .fail stUnitAbsent
    else
      let cs := (List.range d.variant.contexts).filter (fun c => getBits mask c 1 == 1)
      .ok (cs.foldl (fun d c =>
        let d := d.put (tableSwap c) (getBits (args.getD 1 0) c 1)
        if d.ctxEn c then d.ctxRequest c none else d) d) []) s

/-- 0x0303 STR_CTX_INFO. -/
def execStrCtxInfo (tag : Word) (args : List Word) (s : State) : Res :=
  onDev (fun d => d.mailbox 0x0303 false (args.length == 1) tag args fun d =>
    let c := (args.getD 0 0).toNat
    if 32 ≤ c then .fail stBadArg
    else if d.variant.contexts ≤ c then .fail stUnitAbsent
    else .ok d (d.regsBytes (listedIn (R.CTX_CFG c) (R.CTX_RESYNC_CNT c)))) s

/-- 0x0304 STR_BL_READ: 8 bytes per column, as the last stripe wrote them (R140). -/
def execStrBlRead (tag : Word) (args : List Word) (s : State) : Res :=
  onDev (fun d => d.mailbox 0x0304 false (args.length == 3) tag args fun d =>
    let c := (args.getD 0 0).toNat
    let j := (args.getD 1 0).toNat
    let n := (args.getD 2 0).toNat
    if 32 ≤ c ∨ n = 0 ∨ 4096 < n then .fail stBadArg
    else if d.variant.contexts ≤ c then .fail stUnitAbsent
    else if d.outW c < j + n then .fail stBadArg
    else d.readsDram (fun d =>
      let (bs, _, d) := d.memRead 0x0B (d.trkPlace c + 8 * j) (8 * n)
      .ok d bs)) s

/-- 0x0305 RS_FS_READ: 64 × 8 weights, phase first; FS15 at a ratio of 7. -/
def execRsFsRead (tag : Word) (args : List Word) (s : State) : Res :=
  onDev (fun d => d.mailbox 0x0305 false (args.length == 1) tag args fun d =>
    let n := (args.getD 0 0).toNat
    if 15 < n then .fail stBadArg
    else .ok d ((List.range 64).flatMap (fun p => (tapWeights n p 7 1).flatMap (fun w => leBytes 2 (ofSigned 16 w))))) s

end Sys2Proof.Machine
end

