-- ==== Sys2Proof/Machine/Records.lean ====
section
/-! DEFINITION. The configuration records of an image: how they are read, what each sets, and the checks that make an image
invalid (R413, R418 to R424, Table 20-6, and the rules Table 20-3 names for RECORD_VALUE). -/

namespace Sys2Proof.Machine

/-! ### Reading (R418, R419) -/

/-- A configuration record: its index, 0 for the first, its type, and its payload words. -/
structure CfgRec where
  idx : Nat
  ty : Nat
  words : List Word
deriving DecidableEq, Repr

/-- Word `i` of a record. -/
def CfgRec.w (r : CfgRec) (i : Nat) : Nat := (r.words.getD i 0).toNat

/-- Is a pin group listed, and is the function without reserved bits (R499, Table 24-8)? -/
def pinOk (group fn : Nat) : Bool :=
  if 0x100 ≤ group ∧ group < 0x110 then fn % 16 < 3 && fn / 16 < 3
  else if (0x200 ≤ group ∧ group < 0x204) ∨ group = 0x300 ∨ group = 0x400 then decide (fn < 2)
  else false

/-- Does a payload fit its type (Table 20-6)? An index beyond the part's largest variant fits no type. -/
def CfgRec.fits (r : CfgRec) : Bool :=
  let n := r.words.length
  match r.ty with
  | 0x1 => decide (1 ≤ r.w 1) && decide (r.w 1 ≤ 1024) && n == 2 + r.w 1
  | 0x2 => n == 4 && r.w 2 % 8 == 0 && decide (r.w 0 < 32)
  | 0x3 => n == 2 && pinOk (r.w 0) (r.w 1)
  | 0x4 => n == 4
  | 0x5 => n == 7 && decide (r.w 0 < 32)
  | 0x6 => decide (r.w 0 < 4) && decide (r.w 18 ≤ 31) && n == 19 + r.w 18
  | 0x7 => decide (4 ≤ n) && n == 4 + 3 * r.w 3 && (List.range (r.w 3)).all (fun i => decide (r.w (4 + 3 * i) < 4096))
  | 0x8 => n == 8 && decide (r.w 0 < 128)
  | 0x9 => n == 28
  | 0xA => n == 7 && decide (r.w 0 < 2)
  | 0xB => n == 6
  | 0xC => n == 5
  | _ => false

/-- What a type may define once: the type with its context, table, pin group, mosaic, port, or nothing; none where the count
is any. A second RUNNEL_DEF of a channel is a value failure (R284). -/
def CfgRec.key (r : CfgRec) : Option (Nat × Nat × Nat) :=
  match r.ty with
  | 0x2 => some (r.ty, r.w 0, r.w 1)
  | 0x3 => some (r.ty, r.w 0, 0)
  | 0x5 => some (r.ty, r.w 0, 0)
  | 0x6 => some (r.ty, r.w 0, 0)
  | 0x7 => some (r.ty, 0, 0)
  | 0x9 => some (r.ty, 0, 0)
  | 0xA => some (r.ty, r.w 0, 0)
  | 0xB => some (r.ty, 0, 0)
  | 0xC => some (r.ty, 0, 0)
  | _ => none

/-- A record's type, count and form hold beside the records before it. -/
def CfgRec.formOk (r : CfgRec) (before : List CfgRec) : Bool :=
  r.fits && match r.key with
    | none => true
    | some k => before.all (fun q => q.key != some k)

/-- The records of a part, or the index of the first one that breaks R418 or R419. -/
inductive RecParse where
  | bad (idx : Nat)
  | ok (recs : List CfgRec)
deriving DecidableEq, Repr

/-- Read records from an offset on; `bit` is the variant's bit of the mask, the fuel bounds the records (R418). -/
def parseRecs (bit : Nat) (part : List Byte) : Nat → Nat → Nat → List CfgRec → RecParse
  | 0, _, idx, _ => .bad idx
  | n + 1, ofs, idx, acc =>
    let flags := fieldAt part (ofs + 2) 2
    let len := fieldAt part (ofs + 4) 4
    let next := ofs + 8 + (len + 7) / 8 * 8
    let body := (part.drop (ofs + 8)).take len
    let pad := (part.drop (ofs + 8 + len)).take (next - (ofs + 8 + len))
    let r : CfgRec := { idx := idx, ty := fieldAt part ofs 2, words := bytesWords body }
    if part.length < next ∨ 16 ≤ flags ∨ len % 4 ≠ 0 ∨ pad.any (fun b => b != 0) then .bad idx
    else if flags ≠ 0 ∧ flags / 2 ^ bit % 2 = 0 then parseRecs bit part n next (idx + 1) acc
    else if r.ty = 0xFFFF then
      if len = 8 ∧ r.w 0 = crc32c (part.take (ofs + 8)) ∧ r.w 1 = 0 ∧ next = part.length then .ok acc.reverse else .bad idx
    else if r.formOk acc then parseRecs bit part n next (idx + 1) (r :: acc)
    else .bad idx

/-- The records of a configuration records part for a variant. -/
def readRecs (v : Variant) (part : List Byte) : RecParse := parseRecs v.maskBit part (part.length / 8 + 1) 0 0 []

/-- The records of one type, in file order. -/
def recsOf (recs : List CfgRec) (ty : Nat) : List CfgRec := recs.filter (fun r => r.ty == ty)

/-- The registers that REG_WRITE records write, in order: record, address, value. -/
def regWrites (recs : List CfgRec) : List (Nat × Nat × Word) :=
  (recsOf recs 1).flatMap (fun r => (List.range (r.w 1)).map (fun i => (r.idx, r.w 0 + 4 * i, r.words.getD (2 + i) 0)))

/-! ### Placing (R104, R177, R224) -/

/-- A number rounded up to a multiple. -/
def alignUp (a n : Nat) : Nat := (a + n - 1) / n * n

/-- The lowest aligned address from `lo` on where `size` bytes meet none of the ranges taken (base, size). -/
def spot (taken : List (Nat × Nat)) (lo size align : Nat) : Nat :=
  let clear (a : Nat) : Bool := taken.all (fun t => decide (a + size ≤ t.1) || decide (t.1 + t.2 ≤ a))
  let cs := ((lo :: taken.map (fun t => t.1 + t.2)).filter (fun a => decide (lo ≤ a))).map (fun a => alignUp a align)
  (cs.filter clear).foldl (fun best a => match best with
    | none => some a
    | some b => some (min a b)) none |>.getD lo

/-- SLOT_STRIDE (R103). -/
def Dev.slotStride (d : Dev) (c : Nat) : Nat := alignUp (64 + (d.ctxWidth c * bitsPerPixel (d.ctxFormat c) + 7) / 8) 256

/-- The range of a context's ring. -/
def Dev.ringRange (d : Dev) (c : Nat) : Nat × Nat := (d.ringBase c, d.ringLines c * d.slotStride c)

/-- The rings whose CTX_DEF gives a size of 0: equal shares of what the others leave, placed in ascending order (R104). A ring
has at most as many slots as CTX_RING_LINES counts. -/
def Dev.placeRings (d : Dev) (recs : List CfgRec) : Dev :=
  let defs := recsOf recs 5
  let given := (defs.filter (fun r => r.w 4 != 0 && d.ctxEn (r.w 0))).map (fun r => r.w 0)
  let open_ := (List.range 32).filter (fun c => d.ctxEn c && defs.any (fun r => r.w 0 == c && r.w 4 == 0))
  let (base, size) := d.part 0
  let share := (size - (given.map (fun c => (d.ringRange c).2)).sum) / open_.length
  let r := open_.foldl (fun (a : Dev × List (Nat × Nat) × Nat) c =>
    let (d, taken, lo) := a
    let st := d.slotStride c
    let len := d.ctxStripeLen c
    let lines := min (share / st / len) ((2 ^ 24 - 1) / len) * len
    let b := spot taken lo (lines * st) 256
    ((d.setReg64 (R.CTX_RING_BASE_LO c) b).put ⟨R.CTX_RING_LINES c, 0, 24⟩ lines, (b, lines * st) :: taken, b + lines * st))
    (d, given.map d.ringRange, base)
  r.1

/-- Bytes of a stripe of a mosaic in history: its tiles of 256 columns × 64 lines, two bytes each. -/
def Dev.stripeBytes (d : Dev) (m : Nat) : Nat := d.tilesX m * 32768

/-- The history rings in ascending mosaic order from the start of the history partition, those without a size sharing what the
others leave (R177). -/
def Dev.placeHistory (d : Dev) (recs : List CfgRec) : Dev :=
  let defs := recsOf recs 6
  let ms := (List.range 4).filter (fun m => defs.any (fun r => r.w 0 == m))
  let open_ := ms.filter (fun m => d.histStripes m == 0)
  let (base, size) := d.part 1
  let given := ((ms.filter (fun m => d.histStripes m != 0)).map (fun m => d.histStripes m * d.stripeBytes m)).sum
  let n := min (2 ^ 24 - 1) ((size - given) / (open_.map d.stripeBytes).sum)
  let d := open_.foldl (fun d m => d.put ⟨R.HIST_STRIPES m, 0, 24⟩ n) d
  (ms.foldl (fun (a : Dev × Nat) m =>
    (a.1.setReg64 (R.HIST_BASE_LO m) a.2, a.2 + a.1.histStripes m * a.1.stripeBytes m)) (d, base)).1

/-- The size of a context's area by its identifier and bank, rounded up to a multiple of 256: tables 1 to 4, the tracker's state, the
resampler's (R140, R141, R157). -/
def Dev.areaSize (d : Dev) (c bank id : Nat) : Nat :=
  alignUp (match id with
    | 1 => 2 * d.ctxWidth c
    | 2 => 4096
    | 3 => 2 * d.ctxWidth c
    | 4 => 131072
    | _ => if bank = 0 then 8 * 32768 else 18 * d.ctxWidth c + 16) 256

/-- Areas one after another from an address on: their places by key, and the end. -/
def areasFrom : Nat → List (Nat × Nat) → List (Nat × Nat) × Nat
  | a, [] => ([], a)
  | a, (key, n) :: ks =>
    let r := areasFrom (a + n) ks
    ((key, a) :: r.1, r.2)

/-- The areas of the contexts, both banks of every table among them, those of `ids`: keys and sizes. -/
def Dev.ctxAreas (d : Dev) (ids : List Nat) : List (Nat × Nat) :=
  (List.range d.variant.contexts).flatMap (fun c => [0, 1].flatMap (fun b => ids.map (fun id => (tableKey c b id, d.areaSize c b id))))

/-- Areas go to the lowest place of a partition where they fit one after another, at multiples of 256. -/
def Dev.placeAreas (d : Dev) (taken : List (Nat × Nat)) (part : Nat) (areas : List (Nat × Nat)) : Dev × List (Nat × Nat) :=
  let size := (areasFrom 0 areas).2
  let b := spot (taken.filter (fun t => t != d.part part)) (d.part part).1 size 256
  ({ d with str := { d.str with places := (areasFrom b areas).1.foldl (fun t e => tset (fun _ => 0) t e.1 e.2) d.str.places } },
    (b, size) :: taken)

/-- The areas of the Assay blobs' copies, one for each network slot (R217, R368). -/
def Dev.placeNets (d : Dev) (taken : List (Nat × Nat)) (part : Nat) : Dev :=
  let b := spot (taken.filter (fun t => t != d.part part)) (d.part part).1 (4 * netArea) 256
  { d with asy := { d.asy with place := b } }

/-- What lies in the tables partition beside the host partitions and the mirror halves: the trigger history, the directories, and what the
contexts and Assay keep, at the lowest places in that order, GAIN, REMAP and blobs of a dual-stack variant in the mirror primary
half. DESIGN CHOICE: the spec names the partition and no place (assumption 34). -/
def Dev.placeTables (d : Dev) (recs : List CfgRec) : Dev :=
  let base := (d.part 3).1
  let taken := (List.range 10).map (fun i => d.part (4 + i))
  let ms := (List.range 4).filter (fun m => (recsOf recs 6).any (fun r => r.w 0 == m))
  let hist := spot taken base 0x2000000 0x200000
  let a := ms.foldl (fun (a : Dev × List (Nat × Nat)) m =>
    let size := a.1.histStripes m * 256
    let b := spot a.2 base size 256
    (a.1.setReg64 (R.HIST_DIR_BASE_LO m) b, (b, size) :: a.2)) (d, (hist, 0x2000000) :: taken)
  let d := a.1.setReg64 R.TDL_HIST_BASE_LO hist
  if d.variant.dual then
    let r := d.placeAreas a.2 3 (d.ctxAreas [0, 1, 2])
    let r := r.1.placeAreas r.2 4 (d.ctxAreas [3, 4])
    r.1.placeNets r.2 4
  else
    let r := d.placeAreas a.2 3 (d.ctxAreas [0, 1, 2, 3, 4])
    r.1.placeNets r.2 3

/-- The TABLE_LOAD records: the loader writes the tables into bank 0 (R141). -/
def Dev.loadTables (d : Dev) (recs : List CfgRec) (tabs : List Byte) : Dev :=
  (recsOf recs 2).foldl (fun d r => d.setTable 0x0B (r.w 0) 0 (r.w 1) ((tabs.drop (r.w 2)).take (r.w 3))) d

/-- Shaft's areas: descriptors, link array, elements; as many elements as fit, in units of 65,536 (R224). -/
def Dev.placeShaft (d : Dev) : Dev :=
  let (base, size) := d.part 2
  let cnt := (size - 0x2000000) / 132 / 65536 * 65536
  (((d.setReg64 R.SHF_DESC_BASE_LO base).setReg64 R.SHF_LINK_BASE_LO (base + 0x2000000)).setReg64 R.SHF_ELEM_BASE_LO
    (base + 0x2000000 + 4 * cnt)).setReg R.SHF_ELEM_CNT (BitVec.ofNat 32 cnt)

/-! ### Applying (R419) -/

/-- The loader sets a register to an image's word: its fields only (R420), and nothing in a unit the variant lacks (R2). -/
def Dev.imageReg (d : Dev) (a v : Nat) : Dev :=
  match regRow a with
  | none => d
  | some r =>
    let m : Word := BitVec.ofNat 32 r.fields
    if present d.variant a then d.setReg a ((d.reg a &&& ~~~m) ||| (BitVec.ofNat 32 v &&& m)) else d

/-- Several registers. -/
def Dev.imageRegs (d : Dev) : List (Nat × Nat) → Dev
  | [] => d
  | (a, v) :: rest => (d.imageReg a v).imageRegs rest

/-- A partition's registers. -/
def Dev.setPart (d : Dev) (p base size : Nat) : Dev :=
  (d.put ⟨R.MEM_PARTp_BASE p, 0, 17⟩ base).put ⟨R.MEM_PARTp_SIZE p, 0, 18⟩ size

/-- The partitions without a PARTITION record (Tables 1-7, 17-3), in MB. -/
def defaultParts (dual : Bool) : List (Nat × Nat) :=
  if dual then [(0, 0x4000), (0x4000, 0x18000), (0x1C000, 0x2000), (0x1E000, 0x1F00), (0x1FF00, 128), (0x1FF80, 128)]
  else [(0, 0x2000), (0x2000, 0xC000), (0xE000, 0x1000), (0xF000, 0x1000), (0, 0), (0, 0)]

def Dev.setParts (d : Dev) (ps : List (Nat × Nat)) : Dev :=
  (List.range 14).foldl (fun d p => d.setPart p (ps.getD p (0, 0)).1 (ps.getD p (0, 0)).2) d

/-- A PIN_ASSIGN record (Table 24-8). -/
def Dev.pinAssign (d : Dev) (group fn : Nat) : Dev :=
  if 0x100 ≤ group ∧ group < 0x110 then
    (d.put ⟨R.GLB_PIN_MODE, 2 * (group - 0x100), 2⟩ (fn % 4)).put ⟨R.GLB_PIN_PULL, 2 * (group - 0x100), 2⟩ (fn / 16)
  else d.put ⟨R.GLB_PIN_TERM, if group = 0x300 then 4 else if group = 0x400 then 5 else group - 0x200, 1⟩ fn

/-- MOVE_TH from UPD_SPEED_MAX, µm/s, and COUNTS_PER_M, u24.8: counts per second as u28.4 (R258, R458). -/
def moveTh (speed cpm : Nat) : Nat := min (2 ^ 32 - 1) (speed * cpm / 16000000)

/-- The POLICY record (Table 21-9). A TRIAL_WINDOW below 60 s is taken as 60 s (DESIGN CHOICE, assumption 35). -/
def Dev.policy (d : Dev) (r : CfgRec) : Dev :=
  let d := ((d.put ⟨R.SEC_POLICY, 0, 2⟩ (r.w 0)).put ⟨R.SEC_POLICY, 16, 16⟩ (r.w 4)).setReg R.SEC_UPD_SPEED_MAX (r.words.getD 1 0)
  let d := (d.put ⟨R.SEC_TRIAL_CFG, 0, 16⟩ (clampNat 60 65535 (r.w 3))).put ⟨R.SEC_TRIAL_CFG, 16, 16⟩ (max 1 (r.w 4 / 65536))
  d.setReg R.TDL_MOVE_TH (BitVec.ofNat 32 (moveTh (r.w 1) (r.w 2)))

/-- The grid of a MOSAIC_DEF goes into every member context (R145). -/
def Dev.memberGrid (d : Dev) (r : CfgRec) : Dev :=
  ((List.range 32).filter (fun c => r.w 4 / 2 ^ c % 2 == 1)).foldl (fun d c =>
    d.imageRegs [(R.RS_GRID_ORG_LO c, r.w 8), (R.RS_GRID_ORG_HI c, r.w 9), (R.RS_PITCH c, r.w 10), (R.RS_PITCH_REM c, r.w 11)]) d

/-- One record but for a REG_WRITE and the tables of a TABLE_LOAD (Table 20-6). -/
def Dev.recApply (d : Dev) (r : CfgRec) : Dev :=
  let i := r.w 0
  match r.ty with
  | 0x3 => d.pinAssign i (r.w 1)
  | 0x4 => { d with cfg := { d.cfg with claims := d.cfg.claims ++
      [{ cls := i, first := r.w 1, count := r.w 2, use := r.w 3, host := false }] } }
  | 0x5 => d.imageRegs [(R.CTX_CFG i, r.w 1), (R.CTX_WIDTH i, r.w 2), (R.CTX_RATE i, r.w 3), (R.CTX_RING_LINES i, r.w 4),
      (R.CTX_RING_BASE_LO i, r.w 5), (R.CTX_RING_BASE_HI i, r.w 6)]
  | 0x6 => ((d.imageRegs [(R.SEAM_CFG i, r.w 1), (R.SEAM_WIDTH i, r.w 2), (R.SEAM_PITCH i, r.w 3), (R.SEAM_MEMBERS i, r.w 4),
      (R.SEAM_WAIT i, r.w 5), (R.SEAM_MASK i, r.w 6), (R.HIST_STRIPES i, r.w 7), (R.LODE_MCFG i, r.w 12),
      (R.LODE_BANDi_START i 0, r.w 13), (R.LODE_BANDi_START i 1, r.w 14), (R.LODE_BANDi_START i 2, r.w 15),
      (R.REC_MOSm_CPM i, r.w 16), (R.SEAM_MD_RATE i, r.w 17)]).memberGrid r).imageRegs
      ((List.range (r.w 18)).map (fun k => (R.SEAM_Si i k, r.w (19 + k))))
  | 0x7 => (d.imageRegs [(R.SHF_TRACK_CNT, i), (R.SHF_RESERVE, r.w 1), (R.SHF_JOB_LIMIT, r.w 2)]).imageRegs
      ((List.range (r.w 3)).flatMap (fun k =>
        [(R.DR_n_CFG (r.w (4 + 3 * k)), r.w (5 + 3 * k)), (R.DR_n_LIMIT (r.w (4 + 3 * k)), r.w (6 + 3 * k))]))
  | 0x8 => (d.put ⟨R.RNL_CHc_CFG i, 0, 9⟩ (r.w 1)).imageRegs
      ((List.range 6).map (fun k => ((chWordAddrs i).getD k 0, r.w (2 + k))))
  | 0x9 => d.setParts ((List.range 14).map (fun p => (r.w (2 * p), r.w (2 * p + 1))))
  | 0xA => d.imageRegs [(R.NETP_CFG i, r.w 1), (R.NETP_IP i, r.w 2), (R.NETP_DST_IP i, r.w 3), (R.NETP_DST_MAC_LO i, r.w 4),
      (R.NETP_DST_MAC_HI i, r.w 5), (R.NETP_UDP i, r.w 6)]
  | 0xB => d.imageRegs [(R.TIM_CFG, i), (R.TIM_PTP_CFG, r.w 1), (R.TIM_Pp_ADJ 0, r.w 2), (R.TIM_Pp_ADJ 1, r.w 3),
      (R.TIM_Pp_ASYM 0, r.w 4), (R.TIM_Pp_ASYM 1, r.w 5)]
  | 0xC => d.policy r
  | _ => d

/-- The value part of a REG_WRITE: fields without behaviour of their own take the word, W1C fields are cleared by ones. -/
def Dev.imageWrite (d : Dev) (a : Nat) (x : Word) : Dev :=
  match regRow a with
  | none => d
  | some r =>
    if !present d.variant a then d
    else if r.access = .w1c then d.setReg a (d.reg a &&& ~~~x)
    else
      let m : Word := BitVec.ofNat 32 r.fields &&& ~~~(BitVec.ofNat 32 r.own)
      d.setReg a ((d.reg a &&& ~~~m) ||| (x &&& m))

/-- PORT_EN of every port that an enabled context names (R413). -/
def Dev.enablePorts (d : Dev) : Dev :=
  (List.range 32).foldl (fun d c => if d.ctxEn c then d.imageReg (R.CAM_CFG (d.ctxPort c))
    ((d.reg (R.CAM_CFG (d.ctxPort c))).toNat / 2 * 2 + 1) else d) d

/-- A context or mosaic without a definition stays disabled (R419). -/
def Dev.undefined (d : Dev) (recs : List CfgRec) : Dev :=
  let d := (List.range 32).foldl (fun d c =>
    if (recsOf recs 5).any (fun r => r.w 0 == c) then d else d.put ⟨R.CTX_CFG c, 0, 1⟩ 0) d
  (List.range 4).foldl (fun d m => if (recsOf recs 6).any (fun r => r.w 0 == m) then d else d.put ⟨R.SEAM_CFG m, 0, 1⟩ 0) d

/-- MD_RATE_MAX where the MOSAIC_DEF gives 0: the highest RATE_MAX ÷ D among the members (R161); D is at most 8. -/
def Dev.defaultRate (d : Dev) (m : Nat) : Dev :=
  if d.fld ⟨R.SEAM_MD_RATE m, 0, 23⟩ = 0 then
    let rate8 := (d.members m).foldl (fun n c => max n (8 * d.ctxRate c / 2 ^ d.actFld ⟨R.RS_CFG c, 1, 2⟩)) 0
    let r := d.quotient rate8 8
    r.2.put ⟨R.SEAM_MD_RATE m, 0, 23⟩ r.1
  else d

/-- The registers that have a second copy hold the image's values in both (R117, R198, R219, R265, R290). -/
def Dev.copiesOn (d : Dev) : Dev :=
  let d := (List.range 32).foldl (fun d c => d.applyRegs (ctxBanked c)) d
  let d := (List.range 4).foldl (fun d m => d.applyRegs (lodeBanked m)) d
  let d := (List.range 128).foldl (fun d c => d.applyRegs (R.RNL_CHc_CFG c :: chWordAddrs c)) d
  (List.range 32).foldl (fun d c => d.applyRegs [R.TDL_CMPn_TGT_LO c, R.TDL_CMPn_TGT_HI c, R.TDL_CMPn_PITCH c,
    R.TDL_CMPn_PITCH_REM c]) d

/-- Every record applied to the registers, in the order of R419; nothing is started. -/
def Dev.recStage (d : Dev) (recs : List CfgRec) (tabs : List Byte) : Dev :=
  let d := d.setParts (defaultParts d.variant.dual)
  let d := [0x2, 0x3, 0x4, 0x5, 0x6, 0x7, 0x8, 0x9, 0xA, 0xB, 0xC].foldl (fun d ty =>
    (recsOf recs ty).foldl (fun d r => d.recApply r) d) d
  let d := ((((d.placeRings recs).placeHistory recs).placeTables recs).loadTables recs tabs).placeShaft
  let d := d.enablePorts
  let d := (regWrites recs).foldl (fun d x => d.imageWrite x.2.1 x.2.2) d
  let d := (d.undefined recs).copiesOn
  (List.range 4).foldl (fun d m => d.defaultRate m) d

/-! ### The checks of RECORD_VALUE -/

/-- May a REG_WRITE set this word at this address (R420)? -/
def regWriteOk (v : Variant) (a : Nat) (x : Word) : Bool :=
  if 0x801000 ≤ a ∧ a < 0x802000 then false
  else match regRow a with
    | none => false
    | some r => !present v a || ((r.access == .rw || r.access == .wo || r.access == .w1c) && (r.when_ == .boot || r.when_ == .run) &&
        x &&& ~~~(BitVec.ofNat 32 r.fields) == 0)

/-- Two ranges meet. -/
def meets (a b : Nat × Nat) : Bool := decide (a.1 < b.1 + b.2) && decide (b.1 < a.1 + a.2)

/-- A range lies inside another. -/
def inside (a b : Nat × Nat) : Bool := decide (b.1 ≤ a.1) && decide (a.1 + a.2 ≤ b.1 + b.2)

/-- A CTX_DEF breaks R102 or R103; `before` are the records before it. -/
def Dev.ctxDefBad (d : Dev) (before : List CfgRec) (r : CfgRec) : Bool :=
  let c := r.w 0
  let others := (recsOf before 5).map (fun q => q.w 0)
  let len := d.ctxStripeLen c
  decide (d.variant.contexts ≤ c) || others.any (fun k => d.ctxPort k == d.ctxPort c && d.ctxVc k == d.ctxVc c) ||
  (d.ctxEn c && (others.any (fun k => d.ctxEn k && d.ctxPort k == d.ctxPort c && d.ctxTrig k != d.ctxTrig c) ||
    (r.w 4 != 0 && (r.w 5 % 256 != 0 || decide (32 ≤ r.w 6) || decide (2 ^ 24 ≤ r.w 4))) || d.ringLines c % len != 0 || decide (d.ringLines c < 4 * len) ||
    others.any (fun k => d.ctxEn k && meets (d.ringRange k) (d.ringRange c)) || !inside (d.ringRange c) (d.part 0)))

/-- The nominal coverage of a member: its first column and the column after its last. -/
def Dev.coverage (d : Dev) (c : Nat) : Nat × Nat := (d.outCol0 c, d.outCol0 c + d.outW c)

/-- The seams of a mosaic break R162. -/
def Dev.seamsBad (d : Dev) (m : Nat) : Bool :=
  let ms := d.members m
  let ss := d.seams m ms.length
  let covers (c s w : Nat) : Bool := w == 0 || (decide ((d.coverage c).1 ≤ s) && decide (s + w ≤ (d.coverage c).2))
  (List.range ss.length).any (fun i =>
    let (s, w) := ss.getD i (0, 0)
    !covers (ms.getD i 0) s w || !covers (ms.getD (i + 1) 0) s w || decide (512 < w) ||
    (i != 0 && decide (s < (ss.getD (i - 1) (0, 0)).1 + (ss.getD (i - 1) (0, 0)).2)))

/-- BLEND_W over the seams of a mosaic. -/
def Dev.rampColumns (d : Dev) (m : Nat) : Nat := ((d.seams m (d.members m).length).map (·.2)).sum

/-- The bands of a mosaic break R182. -/
def Dev.bandsBad (d : Dev) (m : Nat) : Bool :=
  let n := d.bands m
  let at_ (b : Nat) : Nat := if b = 0 then 0 else if b = n then d.tilesX m else d.bandTile m b
  decide (4 < d.firstEng m + n) || (List.range (n - 1)).any (fun b => decide (at_ (b + 1) ≤ at_ b)) ||
  (List.range n).any (fun b => decide (512 < at_ (b + 1) - at_ b))

/-- The engines that a mosaic names (R182). -/
def Dev.enginesOf (d : Dev) (m : Nat) : List Nat := (List.range (d.bands m)).map (fun b => d.firstEng m + b)

/-- A MOSAIC_DEF breaks R145, R160, R162, R177 or R182. -/
def Dev.mosaicDefBad (d : Dev) (before : List CfgRec) (r : CfgRec) : Bool :=
  let m := r.w 0
  let others := (recsOf before 6).map (fun q => q.w 0)
  let ms := (List.range d.variant.contexts).filter (fun c => d.ctxEn c && d.ctxMosaic c == m)
  let rem := r.w 11
  let grid (c : Nat) : List Word := [d.act (R.RS_GRID_ORG_LO c), d.act (R.RS_GRID_ORG_HI c), d.act (R.RS_PITCH c), d.act (R.RS_PITCH_REM c)]
  (rem / 65536 != 0 && decide (rem / 65536 ≤ rem % 65536)) ||
  ms.any (fun c => grid c != grid (ms.headD 0)) ||
  (d.reg (R.SEAM_MEMBERS m)).toNat != (ms.map (2 ^ ·)).sum ||
  decide (524288 < d.mosWidth m) ||
  d.seamsBad m || decide (8192 < d.rampColumns m + (others.map d.rampColumns).sum) ||
  decide (d.histStripes m < 4) || !inside (d.reg64 (R.HIST_BASE_LO m), d.histStripes m * d.stripeBytes m) (d.part 1) ||
  d.bandsBad m || others.any (fun k => (d.enginesOf k).any (fun e => (d.enginesOf m).contains e))

/-- A TABLE_LOAD breaks R421 or R141. -/
def Dev.tableLoadBad (d : Dev) (tabs : List Byte) (r : CfgRec) : Bool :=
  decide (d.variant.contexts ≤ r.w 0) || decide (tabs.length < r.w 2 + r.w 3) ||
  !d.tableFits (r.w 0) (r.w 1) ((tabs.drop (r.w 2)).take (r.w 3))

/-- The producer and the consumer words of a RUNNEL_DEF. -/
def CfgRec.chSrcs (r : CfgRec) : List Nat := [2, 3].flatMap (fun i => [r.w i % 65536, r.w i / 65536])
def CfgRec.chDsts (r : CfgRec) : List Nat := [4, 5, 6, 7].flatMap (fun i => [r.w i % 65536, r.w i / 65536])

/-- A RUNNEL_DEF breaks R284 other than by its GPIO case. -/
def Dev.runnelDefBad (d : Dev) (before : List CfgRec) (r : CfgRec) : Bool :=
  let owner := r.w 1 / 64 % 4
  let secure := r.w 1 / 256 % 2 == 1
  let wrong (k : IdKind) : Bool := k == .bad || k == .absent
  r.chSrcs.any (fun w => wrong (producerKind d.variant w)) || r.chDsts.any (fun w => wrong (consumerKind d.variant w)) ||
  ((owner == 0 || !secure) && r.chDsts.any (fun w => idValid w && secureInput w)) || (secure && owner == 0) ||
  decide (2 ≤ owner) || (recsOf before 8).any (fun q => q.w 0 == r.w 0)

/-- A PARTITION breaks R367; bases and sizes are in MB. -/
def partitionBad (v : Variant) (r : CfgRec) : Bool :=
  let p (i : Nat) : Nat × Nat := (r.w (2 * i), r.w (2 * i + 1))
  let there (i : Nat) : Bool := (p i).2 != 0
  let mains := (List.range 6).filter there
  let hosts := ((List.range 8).map (· + 6)).filter there
  let clash (l : List Nat) : Bool := l.any (fun i => l.any (fun j => decide (i < j) && meets (p i) (p j)))
  clash mains || clash hosts || (mains ++ hosts).any (fun i => decide (v.dramBytes / 0x100000 < (p i).1 + (p i).2)) ||
  (List.range 4).any (fun i => !there i) || [4, 5].any (fun i => (p i).2 != (if v.dual then 128 else 0)) ||
  hosts.any (fun i => !inside (p i) (p 3))

/-- A record fails with RECORD_VALUE: `d` is the device with every record staged. -/
def Dev.valueBad (d : Dev) (tabs : List Byte) (before : List CfgRec) (r : CfgRec) : Bool :=
  match r.ty with
  | 0x1 => (List.range (r.w 1)).any (fun i => !regWriteOk d.variant (r.w 0 + 4 * i) (r.words.getD (2 + i) 0))
  | 0x2 => d.tableLoadBad tabs r
  | 0x5 => d.ctxDefBad before r
  | 0x6 => d.mosaicDefBad before r
  | 0x8 => d.runnelDefBad before r
  | 0x9 => partitionBad d.variant r
  | _ => false

/-! ### The checks of CLAIM (R422, R423) -/

/-- Does a class have the resources of a range, each for this use (Table 20-7)? -/
def claimRange (cls first count use : Nat) : Bool :=
  decide (1 ≤ count) && decide (first + count ≤ claimCount cls) && (match cls, use with
    | 1, 1 => true
    | 1, 2 => first == 3
    | 2, 1 => true
    | 2, 2 => true
    | 2, 3 => first == 8 && count == 3
    | 3, 1 => true
    | 3, 2 => decide (14 ≤ first)
    | 4, 1 => true
    | 4, 2 => true
    | 4, 3 => true
    | 5, 1 => decide (first + count ≤ 1040384)
    | 5, 2 => decide (1040384 ≤ first) && decide (first + count ≤ 1044480)
    | 5, 3 => decide (1044480 ≤ first) && decide (first + count ≤ 1044484)
    | 5, 4 => first == 1044484 && count == 1
    | 6, 1 => true
    | 7, 1 => true
    | _, _ => false)

/-- Two claims name one resource. -/
def claimsMeet (cls first count : Nat) (c : Claim) : Bool := c.cls == cls && meets (first, count) (c.first, c.count)

/-- A compare channel claimed as a position alarm or as a strobe channel makes no triggers. -/
def Dev.cmpNoTrig (d : Dev) (n : Nat) : Bool := d.claimedUse 4 n == 2 || d.claimedUse 4 n == 3

/-- A register's final value puts a resource to a use other than its claim (R423); `x` is the word as written. -/
def Dev.claimConflict (d : Dev) (a : Nat) (x : Word) : Bool :=
  let en (r : Nat) : Bool := d.bit ⟨r, 0, 1⟩
  if a = R.TDL_SSIn_CFG 1 then en a && d.claimedUse 1 3 != 2
  else if a = R.TDL_ENCn_CFG 3 then en a && d.claimedUse 1 3 == 2
  else if a = R.TDL_HALL_CFG then en a && d.claimedUse 2 8 != 3
  else if 0x701000 ≤ a ∧ a < 0x701100 ∧ a % 16 = 0 then
    let n := (a - 0x701000) / 16
    en a && ((decide (14 ≤ n) && d.claimedUse 3 n == 2) || d.cmpNoTrig (d.fld ⟨a, 1, 5⟩))
  else if 0x701100 ≤ a ∧ a < 0x701140 ∧ a % 16 = 0 then
    let k := (a - 0x701100) / 16
    (decide (2 ≤ k) && d.bit ⟨a, 7, 1⟩ && d.claimedUse 3 (12 + k) != 2) || (en a && d.claimedUse 4 (d.fld ⟨a, 1, 5⟩) == 2)
  else if 0x700800 ≤ a ∧ a < 0x701000 ∧ a % 64 = 0 then
    let n := (a - 0x700800) / 64
    !d.cmpModeOk n (d.fld ⟨a, 0, 2⟩)
  else if 0xE00000 ≤ a ∧ a < 0xE00800 ∧ a % 256 = 0 then x.toNat % 2 == 1 && d.claimedUse 7 ((a - 0xE00000) / 256) == 0
  else false

/-- A TRIG output's compare channel. -/
def Dev.trigCmp (d : Dev) (n : Nat) : Nat := d.fld ⟨R.TDL_TRIGn_CFG n, 1, 5⟩

/-- A record fails with CLAIM: `d` is the device with every record staged. A register write answers for the value it leaves, so
the last record that writes the register. -/
def Dev.claimBad (d : Dev) (writes : List (Nat × Nat × Word)) (before : List CfgRec) (r : CfgRec) : Bool :=
  match r.ty with
  | 0x1 => (writes.filter (fun x => x.1 == r.idx)).any (fun x =>
      d.claimConflict x.2.1 x.2.2 && writes.all (fun y => y.2.1 != x.2.1 || decide (y.1 ≤ r.idx)))
  | 0x3 => decide (0x108 ≤ r.w 0) && decide (r.w 0 ≤ 0x10A) && d.claimedUse 2 (r.w 0 - 0x100) == 3
  | 0x4 => !claimRange (r.w 0) (r.w 1) (r.w 2) (r.w 3) || (recsOf before 4).any (fun q =>
      r.w 0 == q.w 0 && meets (r.w 1, r.w 2) (q.w 1, q.w 2))
  | 0x5 => d.ctxEn (r.w 0) && d.claimedUse 4 (d.trigCmp (d.ctxTrig (r.w 0))) == 2
  | 0x7 => (List.range (r.w 3)).any (fun k => d.claimedUse 5 (ringQueue (r.w (4 + 3 * k))) != 2)
  | 0x8 => d.claimedUse 6 (r.w 0) != 1 || (r.chSrcs.filter idValid).any (fun w => match gpioProducer w with
      | some g => !d.gpioRunnel g
      | none => false) || (r.chDsts.filter idValid).any (fun w => match gpioConsumer w with
      | some g => !d.gpioRunnel g
      | none => false)
  | _ => false

/-- The first record, in file order, that a test finds bad beside those before it. -/
def firstBad (bad : List CfgRec → CfgRec → Bool) : List CfgRec → List CfgRec → Option Nat
  | _, [] => none
  | before, r :: rs => if bad before r then some r.idx else firstBad bad (r :: before) rs

end Sys2Proof.Machine
end

