-- ==== Sys2Proof/Machine/Image.lean ====
section
/-! DEFINITION. An image as a whole: its manifest and parts, the checks of Table 20-3, its application to the device, and
the load check (R26, R414 to R421, R430, R431, R440). -/

namespace Sys2Proof.Machine

/-! ### The manifest (Tables 20-4, 20-5) -/

/-- An entry of the part table. -/
structure PartEntry where
  ty : Nat
  flags : Nat
  ofs : Nat
  len : Nat
  hash : List Byte
deriving DecidableEq, Repr

/-- The part entries of a manifest. -/
def partsOf (man : List Byte) : List PartEntry :=
  (List.range (byteAt man 16)).map (fun i =>
    let b := 64 + 64 * i
    { ty := byteAt man b, flags := byteAt man (b + 1), ofs := fieldAt man (b + 4) 4, len := fieldAt man (b + 8) 4,
      hash := (man.drop (b + 16)).take 48 })

/-- The part of a type and PFLAGS. -/
def manPart (man : List Byte) (ty flags : Nat) : Option PartEntry := (partsOf man).find? (fun p => p.ty == ty && p.flags == flags)

/-- The bytes of a part of the image in a slot. -/
def NonVol.partBytes (n : NonVol) (slot : Nat) (p : PartEntry) : List Byte := n.read (slotBase slot + p.ofs) p.len

/-- The bytes of the part of a type, none when there is none. -/
def NonVol.partRead (n : NonVol) (slot : Nat) (man : List Byte) (ty flags : Nat) : List Byte :=
  match manPart man ty flags with
  | some p => n.partBytes slot p
  | none => []

/-- The Assay networks of an image, by slot. -/
def NonVol.netsOf (n : NonVol) (slot : Nat) (man : List Byte) : Tbl (Option (List Byte)) :=
  (partsOf man).foldl (fun t p => if p.ty = 6 then tset noneAt t (p.flags % 4) (some (n.partBytes slot p)) else t) []

/-- MANIFEST: magic, format and length fields (Table 20-4). -/
def manifestOk (man : List Byte) : Bool :=
  fieldAt man 0 4 == 0x464D4743 && fieldAt man 4 2 == 1 && decide (1 ≤ byteAt man 16) && decide (byteAt man 16 ≤ 32) &&
  decide (4096 ≤ fieldAt man 20 4) && decide (fieldAt man 20 4 ≤ slotSize)

/-- SIGNATURE: under any unrevoked vendor key, and under the owner's while the device is owned (R430, R431). -/
def NonVol.signatureOk (n : NonVol) (man : List Byte) : Bool :=
  (List.range 4).any (fun k => !n.fuses.revoked.getLsbD k &&
    ecVerify (Config.vendorKey k) (man.take 2112) ((man.drop 2112).take 96)) &&
  (n.fuses.owner.isNone || (byteAt man 17 % 2 == 1 && match n.ownerKey with
    | some key => ecVerify key (man.take 2208) ((man.drop 2208).take 96)
    | none => false))

/-- ARB_INDEX of a manifest. -/
def arbIndex (man : List Byte) : Nat := fieldAt man 12 2

/-- TYPE and PFLAGS as Table 20-5 has them. -/
def PartEntry.kindOk (v : Variant) (p : PartEntry) : Bool :=
  match p.ty with
  | 1 => decide (p.flags < 4)
  | 2 => p.flags == 0
  | 3 => p.flags == 0
  | 4 => p.flags == 0
  | 5 => p.flags == 0
  | 6 => decide (p.flags < 4) && v.assay
  | _ => false

/-- A part entry breaks R417 beside those before it. -/
def PartEntry.bad (v : Variant) (imgLen : Nat) (before : List PartEntry) (p : PartEntry) : Bool :=
  p.ofs % 4096 != 0 || decide (p.ofs < 4096) || p.len == 0 || decide (imgLen < p.ofs + p.len) || !p.kindOk v ||
  before.any (fun q => meets (p.ofs, p.len) (q.ofs, q.len) || (p.ty == q.ty && p.flags == q.flags))

/-- The index of the first part entry that breaks R417. -/
def firstBadPart (v : Variant) (imgLen : Nat) : Nat → List PartEntry → List PartEntry → Option Nat
  | _, _, [] => none
  | i, before, p :: ps => if p.bad v imgLen before then some i else firstBadPart v imgLen (i + 1) (p :: before) ps

/-- PART_TABLE: the part that breaks R417, 0 when a required one is missing. -/
def partTableBad (v : Variant) (man : List Byte) : Option Nat :=
  match firstBadPart v (fieldAt man 20 4) 0 [] (partsOf man) with
  | some i => some i
  | none =>
    if [(1, 0), (1, 1), (1, 2), (1, 3), (2, 0), (3, 0), (4, 0)].all (fun k => (manPart man k.1 k.2).isSome) then none else some 0

/-- The index of the first part whose SHA-384 does not match. -/
def NonVol.partHashBad (n : NonVol) (slot : Nat) : Nat → List PartEntry → Option Nat
  | _, [] => none
  | i, p :: ps => if sha384 (n.partBytes slot p) = p.hash then n.partHashBad slot (i + 1) ps else some i

/-- The networks of an image are loaded into an empty weight SRAM in part order: the index of the first one that R206 or R207
refuses. -/
def netsBad (n : NonVol) (slot : Nat) (d : Dev) : Nat → List PartEntry → Option Nat
  | _, [] => none
  | i, p :: ps =>
    if p.ty = 6 then
      let b := n.partBytes slot p
      match blobBad b, d.sramFit (netParams b) with
      | none, some a => netsBad n slot (d.setNet (p.flags % 4) (some { blob := b, sram := a })) (i + 1) ps
      | _, _ => some i
    else netsBad n slot d (i + 1) ps

/-- How the check of an image ended: reason, part index, record index (CFG_SLOT_A_STATUS). -/
structure ImageEnd where
  reason : Nat
  part : Nat := 0
  record : Nat := 0
deriving DecidableEq, Repr

/-- Checks 8 to 10: the records as the loader reads them, on a device of the variant with every record staged. -/
def NonVol.recordsCheck (n : NonVol) (v : Variant) (slot : Nat) (man : List Byte) : ImageEnd :=
  match readRecs v (n.partRead slot man 4 0) with
  | .bad i => { reason := 8, record := i }
  | .ok recs =>
    let tabs := n.partRead slot man 5 0
    let d : Dev := { variant := v }
    let d := d.recStage recs tabs
    match firstBad (d.valueBad tabs) [] recs, netsBad n slot d 0 (partsOf man), firstBad (d.claimBad (regWrites recs)) [] recs with
    | some i, _, _ => { reason := 9, record := i }
    | none, some p, _ => { reason := 9, part := p }
    | none, none, some i => { reason := 10, record := i }
    | none, none, none => { reason := 0 }

/-- The checks of Table 20-3 in order, on a manifest and the parts in a slot; the first failure ends them. -/
def NonVol.imageCheck (n : NonVol) (v : Variant) (slot : Nat) (man : List Byte) : ImageEnd :=
  if !manifestOk man then { reason := 1 }
  else if !n.signatureOk man then { reason := 2 }
  else if arbIndex man < n.fuses.arb then { reason := 3 }
  else if byteAt man 14 / 2 ^ v.maskBit % 2 = 0 then { reason := 4 }
  else if 0xB0 < byteAt man 15 then { reason := 5 }
  else match partTableBad v man with
    | some p => { reason := 6, part := p }
    | none => match n.partHashBad slot 0 (partsOf man) with
      | some p => { reason := 7, part := p }
      | none => n.recordsCheck v slot man

/-! ### What a REG_WRITE does beside its value (R419, R420) -/

/-- A host write's meaning carried out on the device alone. -/
def Dev.via (d : Dev) (f : State → Res) : Dev :=
  match f { dev := d, nv := {}, pending := [] } with
  | .next s => s.dev
  | _ => d

/-- The fields of an image's REG_WRITE whose write has behaviour of its own act after every value is in force. MB_DOORBELL, the
DMA engines and the one-shot bits of CAM_CTRL do nothing at boot (DESIGN CHOICE, assumption 37). -/
def Dev.imageAct (d : Dev) (a : Nat) (x : Word) : Dev :=
  let one (k : Nat) : Bool := getBits x k 1 == 1
  if !present d.variant a then d
  else if a = R.GLB_GPIO_OUT then d.setReg a (x &&& 0xFFFF)
  else if a / 0x100000 = 1 ∧ a % 0x10000 = 0x80 then d.prbsWrite (a / 0x10000 % 16) x
  else if a = 0x204000 then ((List.range d.variant.contexts).filter one).foldl (fun d c => d.ctxRequest c none) d
  else if 0x210000 ≤ a ∧ a < 0x230000 then
    let c := (a - 0x210000) / 0x1000
    if a % 0x1000 = 0x30 then (if one 0 then d.ctxRequest c none else d)
    else if a % 0x1000 = 0x60 then d.blCtrl c x
    else d
  else if 0x408000 ≤ a ∧ a < 0x40C000 then
    (if a % 0x1000 = 0x10 ∧ one 0 then d.lodeCommit ((a - 0x408000) / 0x1000) none else d)
  else if a = R.ASY_CTRL then (List.range 4).foldl (fun d m => if one (8 + m) then d.asyRequest m else d) d
  else if 0x700400 ≤ a ∧ a < 0x700600 then (if a % 0x40 = 0x34 ∧ one 0 then d.posLoad ((a - 0x700400) / 0x40) none else d)
  else if 0x700800 ≤ a ∧ a < 0x701000 then
    let c := (a - 0x700800) / 0x40
    if a % 0x40 = 0 then (if one 9 then d.writeArm c true else d)
    else if a % 0x40 = 4 then (d.setReg a x).targetApplied c
    else if a % 0x40 = 0x20 then
      let d := d.setReg a x
      if d.cmpMode c = 3 then d.armTimed c (d.startDiff c) else d
    else d
  else if a = R.RNL_GRP_EN then d.setReg a (x &&& 0xFFFF)
  else if a = 0x800018 then d.swev (x.toNat % 65536)
  else if a = 0x900010 then d.snap (x.toNat % 16)
  else if 0x900200 ≤ a ∧ a < 0x900400 then
    let n := (a - 0x900200) / 0x20
    if a % 0x20 = 0 then (if one 0 then d.put (tcArmed n) 0 else d)
    else if a % 0x20 = 0xC then d.via (execTgtNs n x)
    else d
  else if a = R.SLU_CTRL then d.via (execSluEn x)
  else if a = 0xD0001C then d.via (execSluJobWr x)
  else if 0xE00000 ≤ a ∧ a < 0xE00800 then
    let u := (a - 0xE00000) / 0x100
    if a % 0x100 = 0 then (if cvRefused x || d.cvAbsent x then d else d.cvConfig u x)
    else if a % 0x100 = 8 then d.cvRestore u x.toNat
    else if a % 0x100 = 0x44 then (if one 0 then d.cvCapture u else d)
    else d
  else if a = R.CAL_REQ then
    ((List.range 19).foldl (fun d i => if one i && (decide (16 ≤ i) || decide (i < d.variant.ports)) &&
      (i != 17 || d.variant.dual) then d.put ⟨R.CAL_PENDING, i, 1⟩ 1 else d) d).calShow
  else d

/-! ### Registers that the loader alone fills -/

/-- The registers of a context that follow its definition (R103, R75); with CTX_EN set an acquire is pending (R138). -/
def Dev.ctxShow (d : Dev) (c : Nat) : Dev :=
  let d := d.setReg (R.CTX_RING_STRIDE c) (BitVec.ofNat 32 (d.slotStride c))
  if d.ctxEn c then
    let d := (d.put ⟨R.STR_STATUS (c / 8), c % 8, 1⟩ 1).put (acqPending c) 1
    d.put ⟨R.CAM_VC_MAP (d.ctxPort c), 8 * d.ctxVc c, 8⟩ (0x80 + c)
  else d

/-- STRIPE_LEN and RATE_MAX of the enabled context of a strand whose quotient is the largest (R116). -/
def Dev.stripeTime (d : Dev) (s : Nat) : Nat × Nat :=
  ((List.range 8).map (· + 8 * s)).foldl (fun (b : Nat × Nat) c =>
    if d.ctxEn c && d.ctxRate c != 0 && decide (b.1 * d.ctxRate c < d.ctxStripeLen c * b.2) then (d.ctxStripeLen c, d.ctxRate c)
    else b) (0, 1)

/-- T_S of a strand in microseconds (R116). -/
def Dev.stripeTimeShow (d : Dev) (s : Nat) : Dev :=
  let b := d.stripeTime s
  let r := d.quotient (b.1 * 1000000) b.2
  r.2.put ⟨R.STR_TS s, 0, 24⟩ r.1

/-- The engines of a mosaic's bands (R182). -/
def Dev.engineShow (d : Dev) (e : Nat) : Dev :=
  match d.engineBand e with
  | some (m, b) =>
    (((d.put ⟨R.LODE_ESTAT e, 0, 1⟩ 1).put ⟨R.LODE_ESTAT e, 1, 2⟩ m).put ⟨R.LODE_ESTAT e, 3, 2⟩ b).put ⟨R.LODE_EBAND e, 0, 20⟩
      (if b = 0 then 0 else 256 * d.bandTile m b)
  | none => d

/-- The mosaic's count of members less one, and of tiles (R180). -/
def Dev.mosShow (d : Dev) (m : Nat) : Dev :=
  if d.mosEn m then (d.put ⟨R.SEAM_CFG m, 1, 5⟩ ((d.members m).length - 1)).put ⟨R.SEAM_WIDTH m, 20, 12⟩ (d.tilesX m) else d

def Dev.imageShow (d : Dev) : Dev :=
  let d := (List.range d.variant.contexts).foldl (fun d c => d.ctxShow c) d
  let d := (List.range 4).foldl (fun d s => d.stripeTimeShow s) d
  let d := (List.range 4).foldl (fun d e => d.engineShow e) d
  (List.range 4).foldl (fun d m => (d.mosShow m).tracksShow m) d.poolShow

/-! ### The load check (R26, Table 2-2) -/

/-- The enabled contexts of a strand. -/
def Dev.strandCtxs (d : Dev) (s : Nat) : List Nat := ((List.range 8).map (· + 8 * s)).filter d.ctxEn

/-- Configured load of a strand, pixels per second: a stripe counts as at least 16,384 pixels (R115). -/
def Dev.strandLoad (d : Dev) (s : Nat) : Nat :=
  (d.strandCtxs s).foldl (fun n c => n + max (d.ctxWidth c) (16384 / d.ctxStripeLen c) * d.ctxRate c) 0

/-- Pixels per second that the intake of a strand's contexts brings. -/
def Dev.intakeLoad (d : Dev) (s : Nat) : Nat := (d.strandCtxs s).foldl (fun n c => n + d.ctxWidth c * d.ctxRate c) 0

/-- MD_RATE_MAX of a mosaic. -/
def Dev.mdRate (d : Dev) (m : Nat) : Nat := d.fld ⟨R.SEAM_MD_RATE m, 0, 23⟩

/-- Columns of an engine's band, the last one to the mosaic's edge. -/
def Dev.bandColumns (d : Dev) (m b : Nat) : Nat :=
  let at_ (b : Nat) : Nat := if b = 0 then 0 else if b = d.bands m then d.mosWidth m else 256 * d.bandTile m b
  at_ (b + 1) - at_ b

def Dev.engineLoad (d : Dev) (e : Nat) : Nat :=
  match d.engineBand e with
  | some (m, b) => if d.mosEn m then d.bandColumns m b * d.mdRate m else 0
  | none => 0

def Dev.seamLoad (d : Dev) : Nat := ((List.range 4).filter d.mosEn).foldl (fun n m => n + d.mosWidth m * d.mdRate m) 0

/-- DRAM traffic by Table 1-6, bytes per second: two bytes a pixel written and read by the intake, whole tiles written and
read of the mosaics, and the 35.2 GB/s of the other streams. -/
def Dev.dramLoad (d : Dev) : Nat :=
  4 * ((List.range 4).foldl (fun n s => n + d.intakeLoad s) 0) +
  4 * (((List.range 4).filter d.mosEn).foldl (fun n m => n + 256 * d.tilesX m * d.mdRate m) 0) + 35200000000

/-- The items of Table 2-2: OVER_SRC, load, limit. A port's VLP overhead is 3 % (R91). -/
def Dev.loadItems (d : Dev) : List (Nat × Nat × Nat) :=
  (List.range d.variant.ports).map (fun p => (p, d.portBits p * 103, 4000000000000)) ++
  (List.range 4).map (fun s => (0x10 + s, d.strandLoad s, 12000000000)) ++ [(0x14, d.seamLoad, 48000000000)] ++
  (List.range 4).map (fun e => (0x18 + e, d.engineLoad e, 12000000000)) ++
  [(0x20, d.dramLoad, if d.variant.dual then 900000000000 else 450000000000)]

/-- LOAD_OVER with its source, else LOAD_HIGH; the load of each region, rounded down as in the worked example of the section. DESIGN CHOICE,
assumption 120: a load past the 16 bits of u4.12 reads 0xFFFF (R26). -/
def Dev.loadCheck (d : Dev) : Dev :=
  let items := d.loadItems
  let d := match items.find? (fun i => decide (i.2.2 < i.2.1)) with
    | some i => (d.put ⟨R.GLB_LOAD_STATUS, 0, 1⟩ 1).put ⟨R.GLB_LOAD_STATUS, 8, 8⟩ i.1
    | none => if items.any (fun i => decide (95 * i.2.2 < 100 * i.2.1)) then d.put ⟨R.GLB_LOAD_STATUS, 1, 1⟩ 1 else d
  (List.range 9).foldl (fun d r =>
    match items.find? (fun i => i.1 == (if r < 5 then 0x10 + r else 0x13 + r)) with
    | some i =>
      d.put ⟨R.GLB_LOAD_RGNn r, 0, 16⟩ (min 65535 (i.2.1 * 4096 / i.2.2))
    | none => d) d

/-! ### The whole image applied -/

/-- The networks of the image, in the order of their slots' parts (R207). -/
def Dev.netsLoad (d : Dev) (nets : Tbl (Option (List Byte))) : Dev :=
  (List.range 4).foldl (fun d i =>
    match tget noneAt nets i with
    | none => d
    | some b => match d.sramFit (netParams b) with
      | some a => d.netLoaded 0x0B i { blob := b, sram := a }
      | none => d) d

/-- Assay takes the image's settings where they stand (R219). -/
def Dev.asyLoad (d : Dev) : Dev :=
  (List.range 4).foldl (fun d m => if d.asyShadowOk m then d.applyRegs (asyBanked m) else d) d

/-- Every record and network is applied; `acts` says which registers' REG_WRITE behaviour is carried out. -/
def Dev.applyImage (d : Dev) (recs : List CfgRec) (tabs : List Byte) (nets : Tbl (Option (List Byte))) (acts : Nat → Bool) : Dev :=
  let d := ((((d.recStage recs tabs).netsLoad nets).asyLoad).imageShow).cycleCheck
  let d := ((regWrites recs).filter (fun w => acts w.2.1)).foldl (fun d w => d.imageAct w.2.1 w.2.2) d
  d.loadCheck

end Sys2Proof.Machine
end

