-- ==== Sys2Proof/Machine/Boot.lean ====
section
/-! DEFINITION. Reset and boot (R408 to R415, R426), the configuration commands (R427), and what each boot reads from fuses
and flash for security, the sag journal and calibration (R432, R440, R452, R455, R475, R486). -/

namespace Sys2Proof.Machine

/-! ### Events of the units that a boot reports -/

/-- A PWR_EVENT bit sets (R476). -/
def Dev.pwrEvent (d : Dev) (bit : Nat) : Dev := d.sticky ⟨R.PWR_EVENT, bit, 1⟩ 47 (d.bit ⟨R.PWR_IRQ_EN, bit, 1⟩)

/-- Is a calibration item of the variant (Table 23-1)? -/
def Dev.calItem (d : Dev) (i : Nat) : Bool := decide (i < d.variant.ports) || i == 16 || (i == 17 && d.variant.dual) || i == 18

/-- Items of a mask are requested; one already pending or running merges (R478). -/
def Dev.calRequest (d : Dev) (mask : Nat) : Dev :=
  ((List.range 19).foldl (fun d i => if mask / 2 ^ i % 2 = 1 ∧ d.calItem i then d.put ⟨R.CAL_PENDING, i, 1⟩ 1 else d) d).calShow

/-! ### Reset -/

/-- What a register keeps through a reset that spares the Cove domain: the BIST results, and the supply's state and
measurements (R464, R467, R488). The other registers go to their reset values. -/
def coveWord (a : Nat) (w : Word) : Option Word :=
  if R.CAL_BIST_STATUS ≤ a ∧ a ≤ 0x12001DC then some w
  else if a = R.PWR_STATUS then some (w &&& 0x23)
  else if a = R.PWR_VSENSE ∨ a = R.PWR_VSENSE_MIN ∨ a = R.PWR_HOLD_CNT then some w
  else none

def coveRegs (t : Tbl Word) : Tbl Word :=
  t.foldl (fun u e => match coveWord e.1 e.2 with
    | some w => tset resetWord u e.1 w
    | none => u) []

/-- What the reset finds of an update (R455). -/
def Dev.updMark (d : Dev) : UpdMark :=
  match d.sec.activation with
  | some a => { stage := d.stage, committed := a.committed, cold := a.cold }
  | none => { stage := d.stage, committed := d.stage == 5 }

/-- The reset of every unit apart from the Cove domain: that of GLB_RESET, of a boundary-scan exit, of BIST, of a cold
activation and of a trial that falls back (R451, R454, R464, R488, R491). DRAM, the log and every session are lost, and the function
detaches. -/
def Dev.hardReset (d : Dev) : Dev :=
  { variant := d.variant
    regs := coveRegs d.regs
    glb := { out := d.glb.out, free := d.glb.free, started := d.glb.started, held := d.glb.held }
    pins := { ir := d.pins.ir, boundary := d.pins.boundary, bsr := d.pins.bsr }
    cove := { d.cove with stagedAt := none, upd := some d.updMark, bist := none } }

/-- The reset of RESET_N low, or of a loss of power: the Cove domain stops too (R464, R501). -/
def Dev.fullReset (d : Dev) : Dev :=
  { variant := d.variant
    glb := { out := d.glb.out, free := d.glb.free }
    pins := { ir := d.pins.ir, boundary := d.pins.boundary, bsr := d.pins.bsr } }

/-! ### What P0 reads before it chooses an image -/

/-- SEC_STATUS follows the fuses and the owner record (R459). -/
def Dev.secShow (d : Dev) (n : NonVol) : Dev :=
  let d := (d.putBit ⟨R.SEC_STATUS, 0, 1⟩ n.fuses.owner.isSome).putBit ⟨R.SEC_STATUS, 1, 1⟩ n.fuses.locked
  let d := d.putBit ⟨R.SEC_STATUS, 3, 1⟩ (match n.ownerRec with
    | some r => r.lock
    | none => false)
  ((d.put ⟨R.SEC_STATUS, 10, 2⟩ (n.fuses.owner.getD 0)).put ⟨R.SEC_STATUS, 12, 4⟩ n.fuses.revoked.toNat).put
    ⟨R.SEC_STATUS, 16, 7⟩ n.fuses.arb

/-- DEVICE_ID and the MAC addresses (R432). -/
def Dev.idShow (d : Dev) (n : NonVol) : Dev :=
  let d := (d.setReg64 R.NET_DEVICE_ID_LO (n.fuses.deviceId % 2 ^ 48))
  match n.macs with
  | some (a, b) =>
    let d := d.setReg64 (R.NETP_MAC_LO 0) a
    if d.variant.netPorts = 2 then d.setReg64 (R.NETP_MAC_LO 1) b else d
  | none => d.logPut 0x0A .macInvalid []

/-- The expected BIST signatures, and the stacks that are there (R489, R383); boot runs with close-page policy (R374). -/
def Dev.partShow (d : Dev) (n : NonVol) : Dev :=
  let d := (List.range 14).foldl (fun d p => d.setReg64 (R.CAL_BISTp_EXP_LO p) (tget (fun _ => 0) n.fuses.bistSig p)) d
  let d := d.putBit ⟨R.MEM_STATUS, 2, 1⟩ d.variant.dual
  (List.range (if d.variant.dual then 2 else 1)).foldl (fun d s =>
    (d.put ⟨R.MEM_Ss_STATUS s, 10, 1⟩ 1).put ⟨R.MEM_Ss_STATUS s, 9, 1⟩ 1) d

/-- The flash descriptor: mode, clock and size, when it passes its checks (R410). -/
def NonVol.flashDesc (n : NonVol) : Option (Nat × Nat × Nat) :=
  let bs := n.read 0 256
  if fieldAt bs 0 4 = 0x48424743 ∧ byteAt bs 4 = 1 ∧ byteAt bs 5 ≤ 1 ∧ crcHolds bs = true then
    some (byteAt bs 5, byteAt bs 6, fieldAt bs 12 4) else none

/-- CFG_FLASH and XSPI_FALLBACK (R410). -/
def Dev.flashShow (d : Dev) (mode clock size : Nat) (fallback : Bool) : Dev :=
  let d := ((d.put ⟨R.CFG_FLASH, 0, 1⟩ mode).put ⟨R.CFG_FLASH, 8, 8⟩ clock).put ⟨R.CFG_FLASH, 16, 16⟩ size
  if fallback then d.put ⟨R.CFG_BOOT_STATUS, 2, 1⟩ 1 else d

def Dev.flashOpen (d : Dev) (n : NonVol) (answers : Bool) : Dev :=
  match if answers then n.flashDesc else none with
  | some (m, c, z) => d.flashShow m c z false
  | none => d.flashShow 1 50 0 true

/-- The write of the epoch record starts: the sector of the other copy is erased (R411). -/
def NonVol.epochStart (n : NonVol) : NonVol := n.erase (epochAt n.epochNext.copy) 4096

/-! ### The sag journal and the last update (R455, R475) -/

/-- The newest record, when the previous run ended in that sag: its EPOCH is the epoch read at this boot. -/
def NonVol.sagSeen (n : NonVol) : Option (Nat × List Byte) :=
  match n.newestSag with
  | some (i, q) => if fieldAt (n.slotBytes i) 12 2 % 4096 = n.epochNow.1 then some (q, n.slotBytes i) else none
  | none => none

/-- PWR_JNL and JNL_READY follow the journal (R472, R476). -/
def Dev.jnlShow (d : Dev) (n : NonVol) : Dev :=
  ((d.put ⟨R.PWR_JNL, 0, 9⟩ (n.nextSlot.getD 0)).put ⟨R.PWR_JNL, 16, 10⟩ n.sagCount).putBit ⟨R.PWR_STATUS, 3, 1⟩ n.nextSlot.isSome

def Dev.sagShow (d : Dev) (n : NonVol) : Dev :=
  let d := d.jnlShow n
  match n.sagSeen with
  | some (q, bs) =>
    ((d.put ⟨R.PWR_STATUS, 2, 1⟩ 1).setReg R.PWR_LAST_JSEQ (BitVec.ofNat 32 q)).logPut 0x11 .sagReported
      [q, byteAt bs 5, byteAt bs 15]
  | none => d

/-- What is known of the update at the last reset: from Cove memory, or from the sag record (R455). -/
def Dev.lastUpd (d : Dev) (n : NonVol) : UpdMark :=
  match d.cove.upd, n.sagSeen with
  | some u, _ => u
  | none, some (_, bs) =>
    let u := byteAt bs 15
    { stage := u % 8, committed := u / 8 % 2 == 1, cold := u / 16 % 2 == 1 }
  | none, none => { stage := 0, committed := false }

/-- The outcome of Table 21-6; `act` is the newest activation record as the boot finds it. -/
def updOutcome (u : UpdMark) (act : Option ActRec) : Nat :=
  if u.outcome ≠ 0 then u.outcome
  else match act.map (·.state) with
    | some 2 => 2
    | some 3 => 0
    | s => if u.stage = 0 then 0 else if u.stage = 5 ∧ s = some 1 then 1 else 4

/-- SEC_LAST_UPD (R459). -/
def Dev.updShow (d : Dev) (n : NonVol) : Dev :=
  let u := d.lastUpd n
  ((d.put ⟨R.SEC_LAST_UPD, 0, 3⟩ u.stage).putBit ⟨R.SEC_LAST_UPD, 3, 1⟩ u.committed).put ⟨R.SEC_LAST_UPD, 4, 4⟩
    (updOutcome u n.act)

/-! ### The calibration store at boot (R486) -/

/-- T_ref of a sensor is loaded from a section that is Birrix firmware's own: a free value. -/
def Dev.tRefs (d : Dev) : Dev :=
  (List.range 7).foldl (fun d t =>
    let r := d.drawNat
    r.2.put ⟨R.CAL_TSENt t, 16, 16⟩ r.1) d

def Dev.storeShow (d : Dev) (n : NonVol) : Dev :=
  match n.storeCopy with
  | some c => (d.put ⟨R.CAL_STATUS, 2, 1⟩ c).setReg R.CAL_STORE_SEQ (BitVec.ofNat 32 ((n.storeSeq c).getD 0))
  | none => d.put ⟨R.CAL_STATUS, 1, 1⟩ 1

/-- A BIST that a sag cut short is reported (R489). -/
def Dev.bistShow (d : Dev) : Dev :=
  let cut := match d.cove.bist with
    | some (_, 1) => true
    | _ => false
  let d := { d with cove := { d.cove with bist := none } }
  if cut then (d.put ⟨R.CAL_BIST_STATUS, 1, 1⟩ 1).put ⟨R.CAL_BIST_STATUS, 0, 1⟩ 0 else d

/-- Steps 1 to 3 of Table 20-2 and the epoch of step 4, for a flash that answers or not. -/
def Dev.bootRead (d : Dev) (n : NonVol) (answers : Bool) : Dev :=
  let d := (d.secShow n).idShow n
  let d := (d.partShow n).flashOpen n answers
  let d := d.put ⟨R.GLB_STATUS, 4, 4⟩ 1
  let d := if answers then ((d.sagShow n).updShow n).storeShow n else d.put ⟨R.CAL_STATUS, 1, 1⟩ 1
  let d := d.tRefs.bistShow
  { d with cfg := { d.cfg with epochWrite := some n.epochNext } }

/-! ### Slot choice (R414, R452) -/

def bootPhase : Fld := ⟨R.GLB_STATUS, 4, 4⟩

/-- P0 acts on the newest activation record: the slot to try first, and the records it writes (R452). -/
def Dev.bootActRec (d : Dev) (n : NonVol) : Nat × Dev × NonVol :=
  match n.act with
  | none => (0, d, n)
  | some r =>
    if r.state = 1 then (r.slot, d, n)
    else if r.state = 3 then
      (r.slot, { d with cfg := { d.cfg with bootTrial := some r.prev } }, n.actWrite r.slot r.prev 2 n.epochNext.epoch)
    else (r.prev, d.secEvent 6, n.actWrite r.prev r.slot 1 n.epochNext.epoch)

/-- BOOT_PHASE when a check fails: checks 1 to 6 belong to step 4, 7 to step 5, 8 to 10 to step 6. -/
def failPhase (reason : Nat) : Nat := if reason ≤ 6 then 1 else if reason = 7 then 2 else if reason ≤ 10 then 3 else 1

/-- One slot is tried: its status, and the device when the image is valid. -/
def Dev.trySlot (d : Dev) (n : NonVol) (flash : BootFlash) (slot : Nat) : Bool × Dev :=
  let man := n.read (slotBase slot) 4096
  let e : ImageEnd := if !flash.answers || flash.timeouts.contains slot then { reason := 0x0B } else n.imageCheck d.variant slot man
  let reread := flash.answers && !flash.timeouts.contains slot && (e.reason == 0 || decide (7 ≤ e.reason)) &&
    flash.misread.any (fun x => x.1 == slot && decide (x.2 < byteAt man 16)) && d.fld ⟨R.CFG_FLASH, 0, 1⟩ == 0
  let d := if reread then d.flashShow 1 50 (d.fld ⟨R.CFG_FLASH, 16, 16⟩) true else d
  let d := d.setReg (if slot = 0 then R.CFG_SLOT_A_STATUS else R.CFG_SLOT_B_STATUS)
    (BitVec.ofNat 32 (e.reason + 256 * e.part + 65536 * e.record))
  if e.reason = 0 then
    let d := (d.put ⟨R.CFG_BOOT_STATUS, 0, 1⟩ slot).put bootPhase 4
    let d := (d.setReg R.CFG_IMG_VER_LO (BitVec.ofNat 32 (fieldAt man 6 4))).setReg R.CFG_IMG_VER_HI
      (BitVec.ofNat 32 (fieldAt man 10 2 + 65536 * (arbIndex man % 128)))
    (true, { d with cfg := { d.cfg with loaded := true, manifest := man, records := n.partRead slot man 4 0,
                                        tabs := n.partRead slot man 5 0, nets := n.netsOf slot man } })
  else (false, d.put bootPhase (failPhase e.reason))

/-- The slots are tried in order; with both invalid the device stays in NO_IMAGE (R414, R415). A trial whose image is invalid does
not start. -/
def Dev.slots (d : Dev) (n : NonVol) (flash : BootFlash) (first : Nat) : Dev :=
  match d.trySlot n flash first with
  | (true, d) => d
  | (false, d) =>
    let d := { d with cfg := { d.cfg with bootTrial := none } }
    match (d.put ⟨R.CFG_BOOT_STATUS, 1, 1⟩ 1).trySlot n flash (1 - first) with
    | (true, d) => d
    | (false, d) => d.put ⟨R.GLB_STATUS, 1, 1⟩ 1

/-- The burn of anti-rollback fuses is completed when the active CONFIRMED image asks for more (R440). -/
def Dev.arbFinish (d : Dev) (n : NonVol) (act : Option ActRec) : Dev × NonVol :=
  let want := arbIndex d.cfg.manifest
  match act with
  | some r =>
    if d.cfg.loaded && r.state == 1 && r.slot == d.fld ⟨R.CFG_BOOT_STATUS, 0, 1⟩ && decide (n.fuses.arb < want) then
      let n := { n with fuses := { n.fuses with arb := min 64 want } }
      (d.secShow n, n)
    else (d, n)
  | none => (d, n)

/-- The boot from ROM up to BOOT_PHASE 4 or NO_IMAGE; the epoch record is being written (R411 to R414). -/
def Dev.bootStart (d : Dev) (n : NonVol) (flash : BootFlash) : Dev × NonVol :=
  let d := d.bootRead n flash.answers
  let d := { d with glb := { d.glb with started := true, held := false }, cove := { d.cove with flashUp := flash.answers, upd := none } }
  let (first, d, n') := if flash.answers then d.bootActRec n else (0, d, n)
  let n' := if flash.answers then n'.epochStart else n'
  (d.slots n' flash first).arbFinish n' n.act

/-- A write of the calibration store that is cut short leaves its copy with an erased first sector, and so
invalid (R470, R485). -/
def Dev.storeAbort (d : Dev) (n : NonVol) : NonVol :=
  if d.cal.writing then n.erase (storeBase (olderCopy (n.storeSeq 0) (n.storeSeq 1))) 4096 else n

/-- A reset inside the running device, and the boot that follows. -/
def Dev.restart (d : Dev) (n : NonVol) : Dev × NonVol := d.hardReset.bootStart (d.storeAbort n) { answers := d.cove.flashUp }

/-! ### The boot's own commands -/

/-- An erase of a journal half that loses its supply or its controller leaves the half undefined: each of its slots holds bytes
that are free (DESIGN CHOICE, assumption 38). -/
def halfLost (d : Dev) (n : NonVol) : List Nat → Dev × NonVol
  | [] => (d, n)
  | h :: hs =>
    let r := (List.range 256).foldl (fun (a : Dev × NonVol) i =>
      let x := a.1.drawNat
      (x.2, (a.2.erase (journalHalf h + 1024 * i) 1024).prog (journalHalf h + 1024 * i) (leBytes 1024 x.1))) (d, n)
    halfLost r.1 r.2 hs

/-- RESET_N low, or the loss of VCOVE: the device is held in reset. -/
def Dev.holdReset (d : Dev) (n : NonVol) : Dev × NonVol :=
  let r := halfLost d (d.storeAbort n) (d.cove.erasing.take 1)
  let d := r.1.fullReset
  ({ d with glb := { d.glb with held := true } }, r.2)

/-- RESET_N goes low; a save that runs completes first (R474). -/
def execResetNLow (s : State) : Res :=
  onPin (fun d n => if d.cove.save.isSome then ({ d with cove := { d.cove with resetWaits := true } }, n) else d.holdReset n) s

/-- RESET_N is released: P0 starts from ROM (R412); during a save that RESET_N has met, once the save is over (R474). -/
def execResetNRelease (flash : BootFlash) (s : State) : Res :=
  onPin (fun d n =>
    if d.cove.save.isSome && d.cove.resetWaits then ({ d with cove := { d.cove with released := some flash } }, n)
    else if d.glb.held || !d.glb.started then d.bootStart n flash else (d, n)) s

/-- The epoch record's write ends (R411). -/
def execEpochWrite (ok : Bool) (s : State) : Res :=
  onNv (fun d n =>
    match d.cfg.epochWrite with
    | none => (d, n)
    | some w =>
      let d := { d with cfg := { d.cfg with epochWrite := none } }
      let d := (d.setReg R.CFG_EPOCH (BitVec.ofNat 32 w.epoch)).put ⟨R.REC_SEQ_HI, 20, 12⟩ w.epoch
      if ok && d.cove.flashUp then (d, n.prog (epochAt w.copy) w.bytes)
      else (d.put ⟨R.CFG_BOOT_STATUS, 3, 1⟩ 1, n)) s

/-- The training words of the channels that trained. -/
def Dev.trainShow (d : Dev) (t : TrainCh) : Dev :=
  let w := (if t.failed then 2 else 1) + 8 * (t.repaired % 4) + 256 * (t.rdMargin % 256) + 65536 * (t.wrMargin % 256)
  let d := d.setReg (R.MEM_TRAINs_c t.stack t.ch) (BitVec.ofNat 32 w)
  { d with mem := { d.mem with helper := tset (fun _ => []) d.mem.helper (16 * t.stack + t.ch) t.helper } }

/-- The channels of the variant that have no result of their own passed with margins of 0. -/
def Dev.trainAll (d : Dev) (train : List TrainCh) : Dev × Bool :=
  let nStacks := if d.variant.dual then 2 else 1
  let ts := train.filter (fun t => decide (t.stack < nStacks) && decide (t.ch < 16))
  let d := (List.range nStacks).foldl (fun d s => (List.range 16).foldl (fun d c => d.setReg (R.MEM_TRAINs_c s c) 1) d) d
  (ts.foldl (fun d t => d.trainShow t) d, ts.all (fun t => !t.failed))

/-- The ports of the loaded image: the enabled ones go to DETECT, the contexts of the others are blind (R51, R111, R413). -/
def Dev.portsStart (d : Dev) : Dev :=
  (List.range d.variant.ports).foldl (fun d p => if d.portEn p then d.camDetect p else d.portDark p) d

/-- The records of the loaded image, as its check read them. -/
def Dev.loadedRecs (d : Dev) : List CfgRec :=
  match readRecs d.variant d.cfg.records with
  | .ok recs => recs
  | .bad _ => []

/-- DRAM is READY, and the image is applied (R382, R412 steps 7 and 8). -/
def execDramReady (train : List TrainCh) (s : State) : Res :=
  onDev (fun d =>
    if !d.cfg.loaded || d.cfg.epochWrite.isSome || d.fld bootPhase != 4 || d.bit ⟨R.MEM_STATUS, 3, 1⟩ then d
    else match d.trainAll train with
      | (d, false) => (d.put ⟨R.MEM_STATUS, 3, 1⟩ 1).fatal
      | (d, true) =>
        let d := (d.put ⟨R.MEM_STATUS, 0, 1⟩ 1).put bootPhase 5
        let d := (d.applyImage d.loadedRecs d.cfg.tabs d.cfg.nets (fun _ => true)).layShaft
        let d := { d with cfg := { d.cfg with tabs := [], nets := [] } }
        d.portsStart.put bootPhase 6) s

/-- The trial of a boot that acts on BOOT_TRIAL starts, with the result of its self-check (R450, R452). -/
def Dev.bootTrialStart (d : Dev) (selfFail : Nat) : Dev :=
  match d.cfg.bootTrial with
  | none => d
  | some prev =>
    let d := { d with cfg := { d.cfg with bootTrial := none, selfFail := selfFail % 8 } }
    (d.trialStart prev []).put ⟨R.SEC_TRIAL, 8, 3⟩ selfFail

/-- The results of a BIST are reported (R488). -/
def Dev.bistReport (d : Dev) : Dev :=
  if d.cove.bistDone then
    let d := ({ d with cove := { d.cove with bistDone := false } }).put ⟨R.CAL_BIST_STATUS, 0, 1⟩ 1
    let d := d.calEvent 4
    if d.fld ⟨R.CAL_BIST_FAIL, 0, 14⟩ = 0 then d else d.calEvent 5
  else d

/-- What INSP_READY raises and starts: its events (R27, R413), the page policy, the roles of the network ports, the report of a
sag, the erase of the journal half that the next slot leaves, the items under CAL_DEFAULT, and the report of a BIST. -/
def Dev.inspStart (d : Dev) (n : NonVol) : Dev :=
  let d := d.raise 0x8 0
  let d := if d.bit ⟨R.GLB_LOAD_STATUS, 0, 1⟩ then d.raise 0x8 1 else d
  let d := [0, 1].foldl (fun d s => d.put ⟨R.MEM_Ss_STATUS s, 9, 1⟩ 0) d
  let d := d.netReady
  let d := if d.bit ⟨R.PWR_STATUS, 2, 1⟩ then d.pwrEvent 2 else d
  let d := match n.halfLeft with
    | some h => if d.cove.erasing.contains h then d else { d with cove := { d.cove with erasing := d.cove.erasing ++ [h] } }
    | none => d
  let d := if d.bit ⟨R.CAL_STATUS, 1, 1⟩ then d.calRequest (2 ^ 19 - 1) else d
  d.bistReport

/-- INSP_READY: DRAM is READY, every record is applied, and every enabled port has reached ACTIVE or FAULT (R413). -/
def execInspReady (selfFail : Nat) (s : State) : Res :=
  onNv (fun d n =>
    if d.fld bootPhase = 6 ∧ d.bit ⟨R.MEM_STATUS, 0, 1⟩ = true ∧ d.bit ⟨R.GLB_STATUS, 2, 1⟩ = false ∧
        (List.range d.variant.ports).all (fun p => !d.portEn p || d.portState p == 7 || d.portState p == 10) then
      let d := (d.put ⟨R.GLB_STATUS, 0, 1⟩ 1).put bootPhase 7
      let d := d.setReg R.CFG_BOOT_TIME (BitVec.ofNat 32 (d.now2 / 1000000))
      ((d.inspStart n).bootTrialStart selfFail, n)
    else (d, n)) s

/-! ### Configuration commands (R427) -/

/-- 0x0F01 CFG_INFO. -/
def execCfgInfo (tag : Word) (args : List Word) (s : State) : Res :=
  onDev (fun d => d.mailbox 0x0F01 false (args.length == 0) tag args (fun d =>
    .ok d (d.regsBytes ([R.GLB_ID, R.GLB_STATUS, R.GLB_ERR] ++ addrs R.CFG_BOOT_STATUS 8) ++ d.cfg.manifest.take 2304))) s

/-- 0x0F02 CFG_CLAIM: class, first, count, use (R424). -/
def execCfgClaim (tag : Word) (args : List Word) (s : State) : Res :=
  onDev (fun d => d.mailbox 0x0F02 false (args.length == 4) tag args (fun d =>
    let a (i : Nat) : Nat := (args.getD i 0).toNat
    if !claimRange (a 0) (a 1) (a 2) (a 3) then .fail stBadArg
    else if a 0 = 5 ∧ a 3 = 3 ∧ d.variant.assay = false then .fail stUnitAbsent
    else if d.cfg.claims.any (claimsMeet (a 0) (a 1) (a 2)) then .fail stConflict
    else .ok { d with cfg := { d.cfg with claims := d.cfg.claims ++
      [{ cls := a 0, first := a 1, count := a 2, use := a 3, host := true }] } } [])) s

/-- A claim without a range of its class: what is left of it below and above. -/
def Claim.without (c : Claim) (first count : Nat) : List Claim :=
  let below := min (c.first + c.count) first - c.first
  let start := max c.first (first + count)
  (if below = 0 then [] else [{ c with count := below }]) ++
  (if start < c.first + c.count then [{ c with first := start, count := c.first + c.count - start }] else [])

/-- 0x0F03 CFG_RELEASE: class, first, count (R424). -/
def execCfgRelease (tag : Word) (args : List Word) (s : State) : Res :=
  onDev (fun d => d.mailbox 0x0F03 false (args.length == 3) tag args (fun d =>
    let a (i : Nat) : Nat := (args.getD i 0).toNat
    let hit (c : Claim) : Bool := c.host && claimsMeet (a 0) (a 1) (a 2) c
    if d.cfg.claims.any hit then
      .ok { d with cfg := { d.cfg with claims := d.cfg.claims.flatMap (fun c => if hit c then c.without (a 1) (a 2) else [c]) } } []
    else .fail stNotFound)) s

/-- 0x0F04 CFG_CLAIM_LIST: class, first, count, use and source (0 the image, 1 the host) of each claim, one word each
(DESIGN CHOICE, assumption 39). -/
def execCfgClaimList (tag : Word) (args : List Word) (s : State) : Res :=
  onDev (fun d => d.mailbox 0x0F04 false (args.length == 0) tag args (fun d =>
    .ok d (d.cfg.claims.flatMap (fun c => [c.cls, c.first, c.count, c.use, if c.host then 1 else 0].flatMap (leBytes 4))))) s

/-- 0x0F05 CFG_RECORDS_READ: offset, length. -/
def execCfgRecordsRead (tag : Word) (args : List Word) (s : State) : Res :=
  onDev (fun d => d.mailbox 0x0F05 false (args.length == 2) tag args (fun d =>
    let ofs := (args.getD 0 0).toNat
    let len := (args.getD 1 0).toNat
    if len = 0 ∨ 262144 < len ∨ d.cfg.records.length < ofs + len then .fail stBadArg
    else .ok d ((d.cfg.records.drop ofs).take len))) s

end Sys2Proof.Machine
end

