-- ==== Sys2Proof/Machine/Security.lean ====
section
/-! DEFINITION. Owner sessions, attestation, owner provisioning and locks, and the sessions of an update (R428 to R445, R457, R460). -/

namespace Sys2Proof.Machine

/-- Bytes of argument words: the first `n` of them from an offset on. -/
def argBytes (args : List Word) (ofs n : Nat) : List Byte := ((wordsBytes args).drop ofs).take n

/-! ### Update sessions (R441 to R445) -/

def sessionSrc : Fld := ⟨R.SEC_STATUS, 8, 2⟩

/-- The eight bytes of a holder's identity (R442). -/
def Holder.bytes (h : Holder) : List Byte :=
  leBytes 1 (if h.net then 2 else 1) ++ leBytes 1 0 ++ leBytes 2 (if h.net then h.udp else 0) ++ leBytes 4 (if h.net then h.ip else 0)

def Dev.setHolder (d : Dev) (h : Option Holder) : Dev :=
  ({ d with sec := { d.sec with holder := h } }).put sessionSrc (match h with
    | none => 0
    | some h => if h.net then 2 else 1)

/-- A request of the holder restarts UPD_IDLE_T (R443). -/
def Dev.holderSeen (d : Dev) : Dev := { d with sec := { d.sec with lastReq := d.now2 } }

/-- The update session ends (R443); an image that was being received or verified is invalid, and so is a waiting verification. -/
def Dev.updEnd (d : Dev) : Dev :=
  if d.sec.holder.isSome then
    let d := (d.setHolder none).secEvent 1
    let d := if d.stage = 2 then d.mbAnswerAll 0x100D stBadState [] else d
    if d.stage ≤ 3 then d.setStage 0 else d
  else d

/-- May a session open (R441, R445)? The status that refuses it, when none is held. During an activation the inactive slot holds
the image that is being activated, so none opens then (DEDUCED, assumption 40). -/
def Dev.updMayOpen (d : Dev) : Option Nat := if d.stage = 4 ∨ d.stage = 5 then some stBadState else none

/-- A session opens: the first sector of the inactive slot is erased (R445). -/
def Dev.updOpen (d : Dev) (n : NonVol) (h : Holder) : Dev × NonVol :=
  let d := { d with sec := { d.sec with head := [], received := [], erased := [0], verified := 0 } }
  let d := ((d.setHolder (some h)).setStage 1).holderSeen
  let d := (d.setReg R.SEC_UPD_BYTES 0).setReg R.SEC_UPD_RESULT 0xFF
  (d.secEvent 0, n.erase (slotBase n.spareSlot) 65536)

/-! ### Owner sessions (R435) -/

/-- OWN_SESSION in HIF_STATUS and SEC_STATUS. -/
def Dev.setOwn (d : Dev) (on : Bool) : Dev := (d.putBit ⟨R.HIF_STATUS, 2, 1⟩ on).putBit ⟨R.SEC_STATUS, 4, 1⟩ on

/-- The owner session ends, and with it a host's update session (R435, R443). -/
def Dev.ownEnd (d : Dev) : Dev :=
  if d.ownSession then
    let d := ({ d with sec := { d.sec with session := none } }).setOwn false
    let d := d.secEvent 1
    match d.sec.holder with
    | some h => if h.net then d else d.updEnd
    | none => d
  else d

/-- A failed authentication (R435, R459). -/
def Dev.authFail (d : Dev) : Dev := d.secEvent 8

/-- 0x1001 SEC_INFO. -/
def execSecInfo (tag : Word) (args : List Word) (s : State) : Res :=
  onDev (fun d => d.mailbox 0x1001 false (args.length == 0) tag args (fun d => .ok d (d.regsBytes (addrs R.SEC_STATUS 10)))) s

/-- 0x1002 SEC_SESSION_OPEN returns a fresh nonce. -/
def execSecSessionOpen (tag : Word) (args : List Word) (s : State) : Res :=
  onDev (fun d => d.mailbox 0x1002 false (args.length == 0) tag args (fun d =>
    let (b, d) := d.freshBytes 32
    .ok { d with sec := { d.sec with nonce := some b } } b)) s

/-- Does a signature open an owner session: by the owner key, or of zero length while unowned (R435)? -/
def NonVol.ownerAuth (n : NonVol) (nonce sig : List Byte) : Bool :=
  if n.fuses.owner.isNone then sig.isEmpty
  else match n.ownerKey with
    | some key => ecVerify key ([0x43, 0x47, 0x4F, 0x53] ++ n.idBytes ++ nonce) sig
    | none => false

/-- 0x1003 SEC_SESSION_AUTH: the signature in 24 words, or none. -/
def execSecSessionAuth (tag : Word) (args : List Word) (s : State) : Res :=
  onNv (mailboxNv 0x1003 false (args.length == 24 || args.length == 0) tag args (fun d n =>
    let d' := { d with sec := { d.sec with nonce := none } }
    match d.sec.nonce with
    | none => (.failWith stDenied d.authFail [], n)
    | some nonce =>
      if n.ownerAuth nonce (argBytes args 0 96) then
        let d' := ({ d' with sec := { d'.sec with session := some nonce } }).setOwn true
        (.ok (d'.secEvent 0) [], n)
      else (.failWith stDenied d'.authFail [], n))) s

/-- 0x1004 SEC_SESSION_CLOSE. -/
def execSecSessionClose (tag : Word) (args : List Word) (s : State) : Res :=
  onDev (fun d => d.mailbox 0x1004 false (args.length == 0) tag args (fun d =>
    if d.ownSession then .ok d.ownEnd [] else .fail stBadState)) s

/-! ### Attestation (R432, R433) -/

/-- Bytes 0 to 175 of the quote (Table 21-3). -/
def Dev.quoteBytes (d : Dev) (n : NonVol) (nonce : List Byte) : List Byte :=
  let man := d.cfg.manifest
  let flag (i : Nat) (b : Bool) : Nat := if b then 2 ^ i else 0
  let st (i : Nat) : Bool := d.bit ⟨R.SEC_STATUS, i, 1⟩
  let flags := d.fld ⟨R.CFG_BOOT_STATUS, 0, 1⟩ + flag 1 (d.stage == 5) + flag 2 (st 0) + flag 3 (st 1) + flag 4 (st 2) +
    flag 5 (st 3) + flag 6 (d.bit ⟨R.CFG_BOOT_STATUS, 1, 1⟩)
  leBytes 4 0x51414743 ++ leBytes 1 1 ++ leBytes 1 (d.variant.device % 256) ++ leBytes 1 0xB0 ++ leBytes 1 flags ++ n.idBytes ++
  leBytes 2 (d.fld ⟨R.CFG_EPOCH, 0, 12⟩) ++ leBytes 6 (fieldAt man 6 6) ++ leBytes 2 (arbIndex man) ++ leBytes 1 n.fuses.arb ++
  leBytes 7 0 ++ nonce ++ sha384 (man.take 2304) ++ (n.fuses.ownerHash.getD (List.replicate 48 0)) ++ leBytes 8 d.now2 ++ leBytes 8 0

/-- 0x1005 SEC_QUOTE: the nonce in eight words. The identity key never leaves P0, so that its signature is a free value. -/
def execSecQuote (tag : Word) (args : List Word) (s : State) : Res :=
  onNv (mailboxNv 0x1005 false (args.length == 8) tag args (fun d n =>
    let (sig, d') := d.freshBytes 96
    (.ok d' (d.quoteBytes n (argBytes args 0 32) ++ sig), n))) s

/-- 0x1006 SEC_CERT_READ: index. -/
def execSecCertRead (tag : Word) (args : List Word) (s : State) : Res :=
  onNv (mailboxNv 0x1006 false (args.length == 1) tag args (fun d n =>
    let i := (args.getD 0 0).toNat
    if 3 ≤ i then (.fail stBadArg, n) else (.ok d (n.read (idBase + 0x1000 * i) 4096), n))) s

/-! ### The owner (R434 to R439) -/

/-- The lowest owner slot that has never been burned. -/
def Fuses.freeSlot (f : Fuses) : Option Nat :=
  (List.range 4).find? (fun i => (tget noneAt f.owners i).isNone && !f.retired.getLsbD i)

/-- Both owner record copies are written. -/
def NonVol.ownerBoth (n : NonVol) (slot : Nat) (key : List Byte) : NonVol := (n.ownerWrite slot false key).ownerWrite slot false key

/-- SEC_OWNER_PROVISION on an unowned device (R436). -/
def Dev.provision (d : Dev) (n : NonVol) (key sig : List Byte) : Act × NonVol :=
  match d.sec.session with
  | none => (.fail stDenied, n)
  | some nonce =>
    if !ecVerify key ([0x43, 0x47, 0x4F, 0x50] ++ n.idBytes ++ nonce) sig then (.fail stDenied, n)
    else match n.fuses.freeSlot with
      | none => (.fail stOutOfSpace, n)
      | some i =>
        let n := n.ownerBoth i key
        let n := { n with fuses := { n.fuses with owners := tset noneAt n.fuses.owners i (some (sha384 key)) } }
        (.ok (d.secShow n) [], n)

/-- 0x1007 SEC_OWNER_PROVISION: the key in bytes 0 to 96, the signature in bytes 97 to 192; a restored key needs no signature. -/
def execSecOwnerProvision (tag : Word) (args : List Word) (s : State) : Res :=
  onNv (mailboxNv 0x1007 false (args.length == 49 || args.length == 25) tag args (fun d n =>
    let key := argBytes args 0 97
    match n.fuses.owner with
    | none => if d.ownSession then d.provision n key (argBytes args 97 96) else (.fail stDenied, n)
    | some i =>
      if some (sha384 key) = n.fuses.ownerHash then
        let n := n.ownerBoth i key
        (.ok (d.secShow n) [], n)
      else (.fail stBadState, n))) s

/-- 0x1008 SEC_OWNER_RETIRE: the retire bit is burned, then both copies are erased, and the session ends (R437). -/
def execSecOwnerRetire (tag : Word) (args : List Word) (s : State) : Res :=
  onNv (mailboxNv 0x1008 true (args.length == 0) tag args (fun d n =>
    match n.fuses.owner with
    | none => (.fail stBadState, n)
    | some i =>
      let n := { n with fuses := { n.fuses with retired := n.fuses.retired ||| BitVec.ofNat 4 (2 ^ i) } }
      let n := (n.erase (ownerAt 0) 4096).erase (ownerAt 1) 4096
      (.ok ((d.secShow n).ownEnd) [], n))) s

/-- 0x1009 SEC_LOCK: 0 clears OWNER_LOCK, 1 sets it (R438). -/
def execSecLock (tag : Word) (args : List Word) (s : State) : Res :=
  onNv (mailboxNv 0x1009 true (args.length == 1) tag args (fun d n =>
    let v := (args.getD 0 0).toNat
    if 2 ≤ v then (.fail stBadArg, n)
    else match n.fuses.owner, n.ownerRec with
      | some i, some r =>
        let n := n.ownerWrite i (v == 1) r.key
        (.ok (d.secShow n) [], n)
      | _, _ => (.fail stBadState, n))) s

/-- 0x100A SEC_DEBUG_LOCK burns the debug-lock fuse of the active slot (R439). On an unowned device there is no slot to burn, and it
returns DENIED, the one other status its row has (DESIGN CHOICE, assumption 41). -/
def execSecDebugLock (tag : Word) (args : List Word) (s : State) : Res :=
  onNv (mailboxNv 0x100A true (args.length == 0) tag args (fun d n =>
    match n.fuses.owner with
    | none => (.fail stDenied, n)
    | some i =>
      let n := { n with fuses := { n.fuses with debugLock := n.fuses.debugLock ||| BitVec.ofNat 4 (2 ^ i) } }
      (.ok (d.secShow n) [], n))) s

end Sys2Proof.Machine
end

