-- ==== Sys2Proof/Machine/Update.lean ====
section
/-! DEFINITION. Field update: download, verification, activation, trial and confirmation, from the host and over the network
(R441 to R460). -/

namespace Sys2Proof.Machine

/-! ### Download (R445) -/

/-- The parts of [a, b) that lie in none of the ascending ranges. -/
def missing : List (Nat × Nat) → Nat → Nat → List (Nat × Nat)
  | [], a, b => if a < b then [(a, b)] else []
  | (x, y) :: rs, a, b =>
    if b ≤ x then (if a < b then [(a, b)] else [])
    else (if a < x then [(a, x)] else []) ++ missing rs (max a y) b

/-- A range joins ascending ranges that lie apart. -/
def addRange (rs : List (Nat × Nat)) (a b : Nat) : List (Nat × Nat) :=
  let near (r : Nat × Nat) : Bool := decide (r.1 ≤ b) && decide (a ≤ r.2)
  let lo := (rs.filter near).foldl (fun m r => min m r.1) a
  let hi := (rs.filter near).foldl (fun m r => max m r.2) b
  rs.filter (fun r => decide (r.2 < lo)) ++ [(lo, hi)] ++ rs.filter (fun r => decide (hi < r.1))

/-- The 64 KB sectors that [a, b) of a slot meets. -/
def sectorsOf (a b : Nat) : List Nat := if a < b then (List.range ((b - 1) / 65536 - a / 65536 + 1)).map (· + a / 65536) else []

/-- New bytes at an offset: bytes 0 to 4,095 stay in SRAM, the others go into the slot, whose sectors are erased first. -/
def Dev.putPiece (d : Dev) (n : NonVol) (a : Nat) (bs : List Byte) : Dev × NonVol :=
  let head := bs.take (4096 - a)
  let rest := bs.drop (4096 - a)
  let at_ := max a 4096
  let new := (sectorsOf at_ (at_ + rest.length)).filter (fun s => !d.sec.erased.contains s)
  let base := slotBase n.spareSlot
  let n := (new.foldl (fun n s => n.erase (base + 65536 * s) 65536) n).prog (base + at_) rest
  ({ d with sec := { d.sec with head := tsetMany flashInit d.sec.head a head, erased := d.sec.erased ++ new } }, n)

/-- A range is received: bytes already received are discarded. -/
def Dev.updWrite (d : Dev) (n : NonVol) (ofs : Nat) (bs : List Byte) : Dev × NonVol :=
  let r := (missing d.sec.received ofs (ofs + bs.length)).foldl (fun (a : Dev × NonVol) p =>
    a.1.putPiece a.2 p.1 ((bs.drop (p.1 - ofs)).take (p.2 - p.1))) (d, n)
  let got := if bs.isEmpty then d.sec.received else addRange d.sec.received ofs (ofs + bs.length)
  let d := { r.1 with sec := { r.1.sec with received := got, verified := 0 } }
  (d.setReg R.SEC_UPD_BYTES (BitVec.ofNat 32 ((got.map (fun r => r.2 - r.1)).sum)), r.2)

/-- Bytes received without a gap from 0. -/
def Dev.gapless (d : Dev) : Nat :=
  match d.sec.received with
  | (0, e) :: _ => e
  | _ => 0

/-! ### Verification (R446) -/

/-- The manifest held in SRAM. -/
def Dev.heldManifest (d : Dev) : List Byte := tgetMany flashInit d.sec.head 0 4096

/-- VERIFY_DONE: the checks of Table 20-3 on the manifest in SRAM and the parts in flash; `flashOk` is unset when the flash does
not answer or the manifest does not read back. -/
def execVerifyDone (flashOk : Bool) (s : State) : Res :=
  onNv (fun d n =>
    if d.stage ≠ 2 then (d, n)
    else
      let man := d.heldManifest
      let e : ImageEnd := if flashOk then n.imageCheck d.variant n.spareSlot man else { reason := 0x0B }
      let d := (d.put ⟨R.SEC_UPD_RESULT, 0, 8⟩ e.reason).put ⟨R.SEC_UPD_RESULT, 8, 8⟩ e.part
      let st := if e.reason = 0 then stOk else stVerifyFail
      let d := { d with sec := { d.sec with verified := st + 1 } }
      if e.reason = 0 then
        (((d.setStage 3).secEvent 2).mbAnswerAll 0x100D stOk [], n.prog (slotBase n.spareSlot) man)
      else (((d.setStage 1).secEvent 3).mbAnswerAll 0x100D stVerifyFail [], n)) s

/-! ### Refusal, and the start of the pause (R447 to R449) -/

/-- HOLD_OK in PWR_STATUS. -/
def Dev.holdOk (d : Dev) : Bool := d.bit ⟨R.PWR_STATUS, 1, 1⟩

/-- CAL_BUSY (R479). -/
def Dev.calBusy (d : Dev) : Bool := d.bit ⟨R.CAL_STATUS, 0, 1⟩

/-- The four checks of R447, in order: the refusal status. -/
def Dev.refusal (d : Dev) : Option Nat :=
  if d.moving then some stRefusedMoving
  else if !d.holdOk then some stRefusedHoldup
  else if d.bit ⟨R.SEC_STATUS, 3, 1⟩ then some stRefusedLocked
  else if d.calBusy then some stRefusedCal
  else none

/-- A refusal is shown in SEC_UPD_RESULT and raises REFUSED. -/
def Dev.refuse (d : Dev) (st : Nat) : Dev := (d.put ⟨R.SEC_UPD_RESULT, 16, 16⟩ st).secEvent 7

/-- The row up to which every live member has delivered stripe k. -/
def Dev.commonRow (d : Dev) (m : Nat) (k : Int) : Option Nat :=
  let lasts := (d.liveMembers m).map (fun c => ((d.seamMos m).stripe c k).getLast?)
  if lasts.isEmpty || lasts.any (·.isNone) then none else (lasts.filterMap (fun l => l.map OutLine.row)).min?

/-- The lines of the stripe in progress that every live member has delivered are emitted as a partial stripe (R449). -/
def Dev.pauseEmit (d : Dev) (m : Nat) : Dev :=
  match d.seamNext m with
  | none => d
  | some k =>
    match d.commonRow m k with
    | some r =>
      if r < (((d.seamMos m).histOf k).map (·.next)).getD 0 ∨ d.seamStalled m k = true then d else d.emitStripe m k true r
    | none => d

/-- MD position of the first grid line that the pause covers: the one after the last line emitted. -/
def Dev.pauseFrom (d : Dev) (m : Nat) : Option Int :=
  match (d.seamMos m).hist.head?, (d.seamMos m).last with
  | some s, _ => some ((d.mosGrid m).at (64 * s.k + s.next))
  | none, some l => some ((d.mosGrid m).at (64 * (l + 1)))
  | none, none => none

/-- A mosaic pauses: it emits no stripe until the pause ends. -/
def Dev.mosPause (d : Dev) (m : Nat) : Dev × Option Int :=
  if d.mosEn m then
    let d := d.fabric fun d => d.pauseEmit m
    (d.setSeamMos m { d.seamMos m with paused := true, acc := [], pend := [] }, d.pauseFrom m)
  else (d, none)

/-- Steps 1 and 2 of R448: every line is discarded from now on, the mosaics pause, and their open tracks close. -/
def Dev.pauseStart (d : Dev) (cold : Bool) : Dev :=
  let a : Activation := { cold := cold, stamp := d.tim.tb0.stamp, faults := d.portFaults }
  let r := (List.range 4).foldl (fun (x : Dev × Tbl (Option Int)) m =>
    let y := x.1.mosPause m
    (y.1, tset noneAt x.2 m y.2)) (d, [])
  let d := (List.range d.variant.ports).foldl (fun d p => d.setCport p { d.cport p with vcs := [] }) r.1
  let d := { d with sec := { d.sec with activation := some { a with starts := r.2 } } }
  d.fabric fun d => (List.range 4).foldl (fun d m => (d.hostClose m).2) d

/-- Every unit handed over is settled. -/
def Dev.unitsSettled (d : Dev) : Bool := (List.range 4).all (fun m => (d.lodeMos m).items.isEmpty)

/-- No track is open and no patch job runs or waits. -/
def Dev.pipeEmpty (d : Dev) : Bool :=
  d.unitsSettled && d.lode.tracks.isEmpty && d.asy.run.isNone && (List.range 4).all (fun m => (tget (fun _ => []) d.asy.jobs m).isEmpty)

/-- Tracks that units settled during the pause have opened close with the others. -/
def Dev.closeRest (d : Dev) : Dev :=
  if d.unitsSettled then d.fabric fun d => (List.range 4).foldl (fun d m => (d.hostClose m).2) d else d

/-- The records of an image in a slot. -/
def NonVol.recsIn (n : NonVol) (v : Variant) (slot : Nat) : List CfgRec :=
  match readRecs v (n.partRead slot (n.read (slotBase slot) 4096) 4 0) with
  | .ok recs => recs
  | .bad _ => []

/-- The new image's PARTITION and QUEUE_DEF are those of the running image (R448). -/
def Dev.sameDefs (d : Dev) (n : NonVol) : Bool :=
  let new := n.recsIn d.variant n.spareSlot
  [9, 7].all (fun ty => (recsOf new ty).map (·.words) == (recsOf d.loadedRecs ty).map (·.words))

/-- ACTIVATE from the session's holder: the status it answers, and the device after it (R447, R448). -/
def Dev.activate (d : Dev) (n : NonVol) (mode : Nat) : Nat × Dev :=
  if 2 ≤ mode then (stBadArg, d)
  else if d.stage ≠ 3 ∨ d.paused = true ∨ (mode = 0 ∧ d.sameDefs n = false) then (stBadState, d)
  else match d.refusal with
    | some st => (st, d.refuse st)
    | none => (stOk, (d.updEnd.setStage 4).pauseStart (mode == 1))

/-! ### The new image (R448, R450) -/

/-- The blocks that a warm activation keeps: those of the kept units, and the registers of boot, security, power and
calibration, with GLB_ID, GLB_STATUS and GLB_ERR (DESIGN CHOICE where R448 names no unit, assumption 42). -/
def warmKeeps (a : Nat) : Bool :=
  decide (a ≤ 8) || [6, 7, 9, 0xA, 0xB, 0xC, 0xF, 0x10, 0x11, 0x12].contains (a / 0x100000)

/-- The camera ports' own findings stay: what their links have trained (RO) and counted (RC). -/
def camKeeps (a : Nat) : Bool :=
  a / 0x100000 == 1 && match regRow a with
    | some r => r.access == .ro || r.access == .rc
    | none => false

/-- The device with every unit reset but those a warm activation keeps. -/
def Dev.warmBase (d : Dev) (man recs : List Byte) : Dev :=
  let ports := (List.range 16).foldl (fun t p =>
    let x := d.cport p
    tset camInit t p { x with vcs := [], resync := false, vendor := [], bc := bcStale x.bc }) []
  let cfg := { d.cfg with claims := d.cfg.claims.filter (·.host), manifest := man, records := recs }
  { d with
    regs := d.regs.filter (fun e => warmKeeps e.1 || camKeeps e.1), active := d.active.filter (fun e => warmKeeps e.1)
    heldHi := d.heldHi.filter (fun e => warmKeeps e.1), latch := d.latch.filter (fun e => warmKeeps e.1)
    rnl := {}, str := {}, lode := {}, asy := {}, seam := {}, slu := {}, cam := { ports := ports }, cfg := cfg
    pins := { d.pins with runnelOut := 0 } }

/-- The kept units' registers go back to what they were. -/
def restoreKept (old new : Tbl Word) : Tbl Word :=
  (old.filter (fun e => warmKeeps e.1)).foldl (fun t e => tset resetWord t e.1 e.2) (new.filter (fun e => !warmKeeps e.1))

/-- The BOOT words of kept units that the new image changes: they apply at the end of the pause. -/
def bootChanges (old new : Tbl Word) : List (Nat × Word) :=
  let as := ((old.map (·.1)) ++ ((new.map (·.1)).filter (fun a => !(old.map (·.1)).contains a))).filter (fun a =>
    warmKeeps a && a / 0x100000 != 0x10 && match regRow a with
      | some r => r.when_ == .boot
      | none => false)
  (as.filter (fun a => tget resetWord old a != tget resetWord new a)).map (fun a => (a, tget resetWord new a))

/-- The POLICY registers take the new image's values at once. -/
def policyRegs : List Nat := [R.SEC_POLICY, R.SEC_UPD_SPEED_MAX, R.SEC_TRIAL_CFG]

/-- A claim of the host that meets one of the new image ends. -/
def claimsMerge (cs : List Claim) : List Claim :=
  cs.filter (fun c => !c.host || !cs.any (fun q => !q.host && claimsMeet q.cls q.first q.count c))

/-- A port under the new image: retrained from LOCK when the lane PHY firmware changes, from DETECT when it is newly enabled or
its rate changes; a port that stays ACTIVE runs discovery anew (R97, R449). -/
def Dev.portWarm (d : Dev) (phy : Bool) (oldRate p : Nat) : Dev :=
  let st := d.portState p
  if !d.portEn p then (if st = 0 then d else ((d.leaveActive p).setPortState p 0).portDark p)
  else if st = 0 ∨ oldRate ≠ d.portRate p then d.camDetect p
  else if phy ∧ 3 ≤ st ∧ st ≤ 9 then d.camRelock p
  else if st = 7 then d.discover p
  else if st = 10 then d.portDark p
  else d

/-- The new image in a slot is loaded and applied beside the kept units. -/
def Dev.warmLoad (d : Dev) (n : NonVol) (slot : Nat) : Dev :=
  let man := n.read (slotBase slot) 4096
  let phy := (manPart man 3 0).map (·.hash) != (manPart d.cfg.manifest 3 0).map (·.hash)
  let base := d.warmBase man (n.partRead slot man 4 0)
  let e := base.applyImage (n.recsIn d.variant slot) (n.partRead slot man 5 0) (n.netsOf slot man) (fun a => !warmKeeps a)
  let deferred := bootChanges base.regs e.regs
  let f := { e with regs := restoreKept base.regs e.regs, active := restoreKept base.active e.active,
                    cfg := { e.cfg with deferred := deferred, claims := claimsMerge e.cfg.claims } }
  let f := policyRegs.foldl (fun f a => f.setReg a (e.reg a)) f
  let f := (f.put ⟨R.CFG_BOOT_STATUS, 0, 1⟩ slot).setReg (if slot = 0 then R.CFG_SLOT_A_STATUS else R.CFG_SLOT_B_STATUS) 0
  let f := (f.setReg R.CFG_IMG_VER_LO (BitVec.ofNat 32 (fieldAt man 6 4))).setReg R.CFG_IMG_VER_HI
    (BitVec.ofNat 32 (fieldAt man 10 2 + 65536 * (arbIndex man % 128)))
  (List.range d.variant.ports).foldl (fun f p => f.portWarm phy (d.portRate p) p) f

/-- The self-check's result is recorded (R450). -/
def Dev.selfChecked (d : Dev) (selfFail : Nat) : Dev :=
  ({ d with cfg := { d.cfg with selfFail := selfFail % 8 } }).put ⟨R.SEC_TRIAL, 8, 3⟩ selfFail

/-- The ports stop discarding: the next line accepted ends the pause. -/
def Dev.linesOn (d : Dev) : Dev :=
  { d with sec := { d.sec with activation := d.sec.activation.map (fun a => { a with committed := true, discard := false }) } }

/-- ACTIVATION_COMMIT: with tracks and jobs ended, the activation record is written; a warm activation loads the new image and
runs its self-check, a cold one resets the device (R448, R450, R451). -/
def execActivationCommit (selfFail : Nat) (s : State) : Res :=
  onNv (fun d n =>
    match d.sec.activation with
    | none => (d, n)
    | some a =>
      if d.stage ≠ 4 ∨ a.committed = true then (d, n)
      else
        let d := d.closeRest
        if !d.pipeEmpty then (d, n)
        else
          let slot := n.spareSlot
          let epoch := d.fld ⟨R.CFG_EPOCH, 0, 12⟩
          let n := n.actWrite slot n.actSlot (if a.cold then 3 else 2) epoch
          if a.cold then
            ({ d with sec := { d.sec with activation := some { a with committed := true } } }).restart n
          else (((d.warmLoad n slot).linesOn).selfChecked selfFail, n)) s

/-! ### Trial and confirmation (R453, R454) -/

/-- CONFIRM: all five checks have passed; the record is written CONFIRMED and the anti-rollback fuses are burned. -/
def execConfirm (s : State) : Res :=
  onNv (fun d n =>
    let d := if d.stage = 5 then d.trialChecks else d
    if d.stage ≠ 5 ∨ d.fld ⟨R.SEC_TRIAL, 0, 5⟩ ≠ 31 then (d, n)
    else
      let r := n.act
      let slot := (r.map (·.slot)).getD (d.fld ⟨R.CFG_BOOT_STATUS, 0, 1⟩)
      let n := n.actWrite slot ((r.map (·.prev)).getD (1 - slot)) 1 (d.fld ⟨R.CFG_EPOCH, 0, 12⟩)
      let n := { n with fuses := { n.fuses with arb := max n.fuses.arb (min 64 (arbIndex d.cfg.manifest)) } }
      let d := (((d.setStage 0).setTrial none).put ⟨R.SEC_LAST_UPD, 4, 4⟩ 1).secEvent 5
      (d.secShow n, n)) s

/-- TRIAL_WINDOW passes from the start of the trial, before CONFIRM (R454): the record names PREV_SLOT, and the device resets. -/
def execTrialWindow (s : State) : Res :=
  onNv (fun d n =>
    match d.sec.trial with
    | none => (d, n)
    | some t =>
      let d := d.expire t.start (d.fld ⟨R.SEC_TRIAL_CFG, 0, 16⟩ * 1000000000)
      let n := n.actWrite t.prev (1 - t.prev) 1 (d.fld ⟨R.CFG_EPOCH, 0, 12⟩)
      let n := d.storeAbort n
      let e := d.hardReset
      let e := { e with cove := { e.cove with upd := some { d.updMark with outcome := 3 } } }
      e.bootStart n { answers := d.cove.flashUp }) s

/-- A watchdog reset (R454). -/
def execWatchdogReset (s : State) : Res := onNv (fun d n => d.restart n) s

/-- UPD_IDLE_T passes since the holder's last request (R443). -/
def execUpdIdleT (s : State) : Res :=
  onDev (fun d =>
    if d.sec.holder.isSome then (d.expire d.sec.lastReq (d.fld ⟨R.SEC_TRIAL_CFG, 16, 16⟩ * 1000000000)).updEnd else d) s

/-! ### Mailbox commands (R460) -/

/-- The host holds the session. -/
def Dev.hostHolds (d : Dev) : Bool :=
  match d.sec.holder with
  | some h => !h.net
  | none => false

/-- 0x100B UPD_OPEN. -/
def execUpdOpen (tag : Word) (args : List Word) (s : State) : Res :=
  onNv (mailboxNv 0x100B true (args.length == 0) tag args (fun d n =>
    if !d.bit ⟨R.SEC_POLICY, 0, 1⟩ then (.fail stDenied, n)
    else match d.updMayOpen, d.sec.holder with
      | some st, _ => (.fail st, n)
      | none, some h => (.failWith stUpdBusy d h.bytes, n)
      | none, none =>
        let r := d.updOpen n { net := false }
        (.ok r.1 [], r.2))) s

/-- The act of UPD_WRITE: into the session of the host, in DOWNLOAD, within the slot (R445). -/
def Dev.updWriteAct (d : Dev) (n : NonVol) (args : List Word) (dma : HostDma) : Act × NonVol :=
  let ofs := (args.getD 0 0).toNat
  let len := (args.getD 3 0).toNat
  if !d.hostHolds then (.fail stBadState, n)
  else
    let d := d.holderSeen
    if d.stage ≠ 1 then (.failWith stBadState d [], n)
    else if len = 0 ∨ 1048576 < len ∨ slotSize < ofs + len then (.failWith stBadArg d [], n)
    else
      let b := d.hostBuf (word64 (args.getD 1 0) (args.getD 2 0)) len dma
      if b.1 = stOk then
        let r := b.2.2.updWrite n ofs b.2.1
        (.ok r.1 [], r.2)
      else (.failWith b.1 b.2.2 [], n)

/-- 0x100C UPD_WRITE: slot offset, host buffer address low and high, length; a session that is not in DOWNLOAD takes no bytes
(DEDUCED, assumption 43). A buffer in DRAM is read like any other: the command waits in a freeze (R379). -/
def execUpdWrite (tag : Word) (args : List Word) (dma : HostDma) (s : State) : Res :=
  onNv (mailboxNv 0x100C false (args.length == 4) tag args (fun d n =>
    let r := d.updWriteAct n args dma
    if (args.getD 2 0).toNat / 2 ^ 31 = 0 then r
    else if d.memFrozen then (.wait d, n)
    else (d.readsDram (fun _ => r.1), r.2))) s

/-- 0x100D UPD_VERIFY: VERIFY_DONE answers it. -/
def execUpdVerify (tag : Word) (args : List Word) (s : State) : Res :=
  onDev (fun d => d.mailbox 0x100D false (args.length == 0) tag args (fun d =>
    if d.hostHolds ∧ d.stage = 1 then .wait (d.holderSeen.setStage 2)
    else .fail stBadState)) s

/-- 0x100E UPD_ACTIVATE: mode; the reply comes before the pause. -/
def execUpdActivate (tag : Word) (args : List Word) (s : State) : Res :=
  onNv (mailboxNv 0x100E false (args.length == 1) tag args (fun d n =>
    if d.hostHolds then
      match d.holderSeen.activate n (args.getD 0 0).toNat with
      | (0, d) => (.ok d [], n)
      | (st, d) => (.failWith st d [], n)
    else (.fail stBadState, n))) s

/-- 0x100F UPD_CLOSE. -/
def execUpdClose (tag : Word) (args : List Word) (s : State) : Res :=
  onDev (fun d => d.mailbox 0x100F false (args.length == 0) tag args (fun d =>
    if d.hostHolds then .ok d.updEnd [] else .fail stBadState)) s

/-- 0x1010 UPD_STATUS: five registers and the holder's identity, 0 without one. -/
def execUpdStatus (tag : Word) (args : List Word) (s : State) : Res :=
  onDev (fun d => d.mailbox 0x1010 false (args.length == 0) tag args (fun d =>
    .ok d (d.regsBytes [R.SEC_STATUS, R.SEC_UPD_BYTES, R.SEC_UPD_RESULT, R.SEC_TRIAL, R.SEC_LAST_UPD] ++
      (match d.sec.holder with
        | some h => h.bytes
        | none => leBytes 8 0)))) s

/-! ### Over the network (R456, R457) -/

/-- Where an update packet comes from: port, MAC, address and UDP port. -/
structure Peer where
  port : Nat
  mac : Nat
  ip : Nat
  udp : Nat
deriving DecidableEq, Repr

/-- An update packet that the device takes: magic, version, device, LEN and CRC (R456). -/
def Dev.updPacketOk (d : Dev) (pl : List Byte) : Bool :=
  fieldAt pl 0 4 == 0x50554743 && byteAt pl 4 == 1 && fieldAt pl 8 6 == d.netDeviceId && decide (fieldAt pl 28 2 ≤ 1024) &&
  pl.length == 36 + fieldAt pl 28 2 && crcHolds pl

/-- A reply, on the port that received the packet, with the packet's SEQ. -/
def Dev.updReply (d : Dev) (x : Peer) (pl : List Byte) (op status sid ofs : Nat) (body : List Byte) : Dev :=
  d.netUdp x.port x.mac x.ip (d.fld ⟨R.SEC_POLICY, 16, 16⟩) x.udp (withCrc (leBytes 4 0x50554743 ++ leBytes 1 1 ++ leBytes 1 op ++
    leBytes 2 status ++ leBytes 6 d.netDeviceId ++ leBytes 2 0 ++ leBytes 4 sid ++ leBytes 4 (fieldAt pl 20 4) ++ leBytes 4 ofs ++
    leBytes 2 body.length ++ leBytes 2 0 ++ body))

/-- RESULT: stage and verify reason, and the holder's identity with UPD_BUSY. -/
def Dev.updResult (d : Dev) (x : Peer) (pl : List Byte) (status : Nat) : Dev :=
  d.updReply x pl 10 status (fieldAt pl 16 4) 0 (leBytes 1 d.stage ++ leBytes 1 (d.fld ⟨R.SEC_UPD_RESULT, 0, 8⟩) ++ leBytes 2 0 ++
    (if status = stUpdBusy then match d.sec.holder with
      | some h => h.bytes
      | none => [] else []))

/-- A packet of an operation arrives: it counts, and is discarded unless it is whole. -/
def Dev.updPacket (d : Dev) (n : NonVol) (x : Peer) (w : NetWire) (pl : List Byte) (op : Nat) (f : Dev → NonVol → Dev × NonVol) :
    Dev × NonVol :=
  d.netInNv n x.port w fun d n => if d.updPacketOk pl && byteAt pl 5 == op then f d n else (d.netDiscard x.port, n)

/-- A session packet: it must come from the holder, and bear its SESSION_ID. -/
def Dev.holderPacket (d : Dev) (n : NonVol) (x : Peer) (w : NetWire) (pl : List Byte) (op : Nat)
    (f : Dev → NonVol → Dev × NonVol) : Dev × NonVol :=
  d.updPacket n x w pl op (fun d n =>
    match d.sec.holder with
    | none => (d.updResult x pl stBadState, n)
    | some h =>
      if !(h.net && h.ip == x.ip && h.udp == x.udp) then (d.netDiscard x.port, n)
      else if h.sid ≠ fieldAt pl 16 4 then (d.updResult x pl stBadState, n)
      else f d.holderSeen n)

/-- NET_UPD_EN is clear or the device is unowned: a network session is refused (R441). -/
def Dev.netUpdDenied (d : Dev) (n : NonVol) : Bool := !d.bit ⟨R.SEC_POLICY, 1, 1⟩ || n.fuses.owner.isNone

/-- A challenge is issued; a fifth replaces the oldest (R457). -/
def Dev.challenge (d : Dev) (x : Peer) (pl : List Byte) : Dev :=
  let (nonce, d) := d.freshBytes 32
  let sid := d.sec.lastSid % (2 ^ 32 - 1) + 1
  let c : Challenge := { sid := sid, nonce := nonce, ip := x.ip, udp := x.udp, at_ := d.now2 }
  let held := if 4 ≤ d.sec.challenges.length then d.sec.challenges.drop 1 else d.sec.challenges
  ({ d with sec := { d.sec with challenges := held ++ [c], lastSid := sid } }).updReply x pl 2 stOk sid 0 nonce

/-- OPEN_REQ. -/
def execOpenReq (w : NetWire) (srcMac srcIp srcPort : Nat) (payload : List Byte) (s : State) : Res :=
  onNv (fun d n => d.updPacket n ⟨w.port, srcMac, srcIp, srcPort⟩ w payload 1 (fun d n =>
    let x : Peer := ⟨w.port, srcMac, srcIp, srcPort⟩
    if d.netUpdDenied n then (d.updResult x payload stDenied, n)
    else if d.sec.holder.isSome then (d.updResult x payload stUpdBusy, n)
    else (d.challenge x payload, n))) s

/-- Does a signature answer a challenge (Table 21-8)? -/
def NonVol.updAuth (n : NonVol) (c : Challenge) (sig : List Byte) : Bool :=
  match n.ownerKey with
  | some key => ecVerify key ([0x43, 0x47, 0x55, 0x4F] ++ n.idBytes ++ leBytes 4 c.sid ++ c.nonce) sig
  | none => false

/-- OPEN_AUTH against a challenge held for this requester and SESSION_ID, which it consumes. -/
def execOpenAuth (w : NetWire) (srcMac srcIp srcPort : Nat) (payload : List Byte) (s : State) : Res :=
  onNv (fun d n => d.updPacket n ⟨w.port, srcMac, srcIp, srcPort⟩ w payload 3 (fun d n =>
    let x : Peer := ⟨w.port, srcMac, srcIp, srcPort⟩
    let mine (c : Challenge) : Bool := c.sid == fieldAt payload 16 4 && c.ip == srcIp && c.udp == srcPort &&
      !d.timeUp c.at_ 5000000000
    let found := d.sec.challenges.find? mine
    let d := { d with sec := { d.sec with challenges := d.sec.challenges.filter (fun c => !mine c) } }
    if d.netUpdDenied n then (d.updResult x payload stDenied, n)
    else match found with
      | none => (d.authFail.updResult x payload stDenied, n)
      | some c =>
        if !n.updAuth c ((payload.drop 32).take (fieldAt payload 28 2)) then (d.authFail.updResult x payload stDenied, n)
        else match d.updMayOpen with
          | some st => (d.updResult x payload st, n)
          | none =>
            if d.sec.holder.isSome then (d.updResult x payload stUpdBusy, n)
            else
              let r := d.updOpen n { net := true, ip := srcIp, udp := srcPort, sid := c.sid }
              (r.1.updResult x payload stOk, r.2))) s

/-- The oldest challenge expires 5 s after it was issued (R457). -/
def execChallengeExpiry (s : State) : Res :=
  onDev (fun d =>
    match d.sec.challenges with
    | [] => d
    | c :: rest =>
      let d := d.expire c.at_ 5000000000
      { d with sec := { d.sec with challenges := rest } }) s

/-- DATA: image bytes at a multiple of 1,024, acknowledged with the bytes received without a gap. -/
def execData (w : NetWire) (srcMac srcIp srcPort : Nat) (payload : List Byte) (s : State) : Res :=
  onNv (fun d n => d.holderPacket n ⟨w.port, srcMac, srcIp, srcPort⟩ w payload 5 (fun d n =>
    let x : Peer := ⟨w.port, srcMac, srcIp, srcPort⟩
    let ofs := fieldAt payload 24 4
    let bs := (payload.drop 32).take (fieldAt payload 28 2)
    let ack (d : Dev) (st : Nat) : Dev := d.updReply x payload 6 st (fieldAt payload 16 4) d.gapless []
    if d.stage ≠ 1 then (ack d stBadState, n)
    else if ofs % 1024 ≠ 0 ∨ slotSize < ofs + bs.length then (ack d stBadArg, n)
    else
      let r := d.updWrite n ofs bs
      (ack r.1 stOk, r.2))) s

/-- VERIFY starts verification, or answers how it stands; the result of one that has ended is answered once (DESIGN CHOICE,
assumption 44). -/
def execVerify (w : NetWire) (srcMac srcIp srcPort : Nat) (payload : List Byte) (s : State) : Res :=
  onNv (fun d n => d.holderPacket n ⟨w.port, srcMac, srcIp, srcPort⟩ w payload 7 (fun d n =>
    let x : Peer := ⟨w.port, srcMac, srcIp, srcPort⟩
    if d.sec.verified ≠ 0 then
      (({ d with sec := { d.sec with verified := 0 } }).updResult x payload (d.sec.verified - 1), n)
    else if d.stage = 1 then ((d.setStage 2).updResult x payload stOk, n)
    else (d.updResult x payload stOk, n))) s

/-- ACTIVATE: byte 0 is the mode. -/
def execActivate (w : NetWire) (srcMac srcIp srcPort : Nat) (payload : List Byte) (s : State) : Res :=
  onNv (fun d n => d.holderPacket n ⟨w.port, srcMac, srcIp, srcPort⟩ w payload 8 (fun d n =>
    let r := d.activate n (byteAt payload 32)
    (r.2.updResult ⟨w.port, srcMac, srcIp, srcPort⟩ payload r.1, n))) s

/-- CLOSE. -/
def execClose (w : NetWire) (srcMac srcIp srcPort : Nat) (payload : List Byte) (s : State) : Res :=
  onNv (fun d n => d.holderPacket n ⟨w.port, srcMac, srcIp, srcPort⟩ w payload 9 (fun d n =>
    (d.updEnd.updResult ⟨w.port, srcMac, srcIp, srcPort⟩ payload stOk, n))) s

end Sys2Proof.Machine
end

