-- ==== Sys2Proof/Machine/Power.lean ====
section
/-! DEFINITION. Power sensing, the sag save, SAG_HOLD and the journal (R464 to R477). -/

namespace Sys2Proof.Machine

/-! ### The bus (R467, R476) -/

/-- The bus voltage in 10 mV and the level of PFAIL_N are shown. -/
def Dev.busShow (d : Dev) (bus : Nat) (pfailN : Bool) : Dev :=
  let v := min bus 65535
  let d := d.setReg R.PWR_VSENSE (BitVec.ofNat 32 v)
  let d := d.put ⟨R.PWR_VSENSE_MIN, 0, 16⟩ (min v (d.fld ⟨R.PWR_VSENSE_MIN, 0, 16⟩))
  d.putBit ⟨R.PWR_STATUS, 5, 1⟩ pfailN

/-- HOLD_OK is driven. -/
def Dev.setHold (d : Dev) (high : Bool) : Dev := (d.putBit ⟨R.PWR_STATUS, 1, 1⟩ high).emit (.holdOk high)

/-- A comparator of the bus may trip: it is accurate to ±0.05 V, and so is the voltage at which it does (R467, R468), in 10 mV. -/
def above (bus th : Nat) : Bool := decide (th < bus + 5)
def below (bus th : Nat) : Bool := decide (bus < th + 5)

/-- HOLD_BACK: above 11.4 V HOLD_OK rises, and its first rise arms the sag detector (R467, R468). -/
def execHoldBack (bus : Nat) (pfailN : Bool) (s : State) : Res :=
  onDev (fun d =>
    let d := d.busShow bus pfailN
    if d.holdOk || !above bus 1140 then d else ((d.setHold true).put ⟨R.PWR_STATUS, 0, 1⟩ 1).pwrEvent 1) s

/-- HOLD_LOST: below 11.2 V HOLD_OK falls. -/
def execHoldLost (bus : Nat) (pfailN : Bool) (s : State) : Res :=
  onDev (fun d =>
    let d := d.busShow bus pfailN
    if d.holdOk && below bus 1120 then ((d.setHold false).bump ⟨R.PWR_HOLD_CNT, 0, 32⟩).pwrEvent 0 else d) s

/-- VCORE_LOW: VCORE in mV, and the event below 720 mV (R476). -/
def execVcoreLow (mv : Nat) (s : State) : Res :=
  onDev (fun d =>
    let d := d.setReg R.PWR_VCORE (BitVec.ofNat 32 (min mv 65535))
    if mv < 720 then d.pwrEvent 4 else d) s

/-! ### The sag record (R469, R471) -/

/-- Bytes 216 to 975 of the record: the staging area. -/
def Dev.stagingBytes (d : Dev) : List Byte :=
  let tail := ((d.glb.log.take 15).reverse.flatMap LogEntry.bytes)
  leBytes 4 d.lode.tracks.length ++ leBytes 4 d.shf.placed.length ++
  (List.range 12).flatMap (fun t => leBytes 2 (d.fld ⟨R.CAL_TSENt t, 0, 16⟩)) ++ leBytes 8 0 ++
  tail ++ List.replicate (720 - tail.length) 0

/-- Firmware refreshes the staging area every 10 ms. -/
def execStagingRefresh (s : State) : Res :=
  onDev (fun d => { d with cove := { d.cove with staging := d.stagingBytes, stagedAt := some d.now2 } }) s

/-- UPD of the record: stage, COMMITTED, COLD. -/
def Dev.updByte (d : Dev) : Nat :=
  let u := d.updMark
  u.stage + (if u.committed then 8 else 0) + (if u.cold then 16 else 0)

/-- BOOT of the record. -/
def Dev.bootByte (d : Dev) : Nat :=
  d.fld bootPhase + 16 * d.fld ⟨R.GLB_STATUS, 0, 1⟩ + 32 * d.fld ⟨R.CFG_BOOT_STATUS, 1, 1⟩ + 64 * d.fld ⟨R.CFG_BOOT_STATUS, 0, 1⟩

/-- STATE of the record. -/
def Dev.stateByte (d : Dev) : Nat :=
  (if d.tb0Locked then 1 else 0) + (if d.calBusy then 2 else 0) + (if d.moving then 4 else 0)

/-- The fields latched at detection, bytes 0 to 215, with V_END and SAVE_US still 0. -/
def Dev.sagLatch (d : Dev) (jseq cause bus abort : Nat) : List Byte :=
  leBytes 4 0x47534743 ++ leBytes 1 1 ++ leBytes 1 cause ++ leBytes 2 0 ++ leBytes 4 jseq ++ leBytes 2 (d.fld ⟨R.CFG_EPOCH, 0, 12⟩) ++
  leBytes 1 d.bootByte ++ leBytes 1 d.updByte ++ leBytes 8 d.now2 ++ d.tim.tb0.stamp.bytes ++ leBytes 1 d.stateByte ++
  leBytes 1 abort ++ leBytes 2 bus ++ leBytes 2 0 ++ leBytes 2 0 ++ leBytes 4 0 ++ leBytes 8 (d.reg64 R.REC_SEQ_LO) ++
  (List.range 4).flatMap (fun m => leBytes 8 (ofSigned 64 (d.lastK m))) ++
  (List.range 8).flatMap (fun n => leBytes 8 (ofSigned 64 (d.posOf n))) ++
  (List.range 16).flatMap (fun n => leBytes 4 (d.reg (R.TDL_TRIGn_COUNT n)).toNat)

/-- The record without V_END, SAVE_US and CRC; the staging area as last refreshed. -/
def Dev.sagRecord (d : Dev) (jseq cause bus abort : Nat) : List Byte :=
  d.sagLatch jseq cause bus abort ++ (d.cove.staging ++ List.replicate (760 - d.cove.staging.length) 0) ++ List.replicate 44 0

/-- The record as written: V_END and SAVE_US at bytes 40 to 43, the CRC at the end. -/
def sagBytes (r : List Byte) (vEnd saveUs : Nat) : List Byte :=
  withCrc (r.take 40 ++ leBytes 2 vEnd ++ leBytes 2 (min saveUs 65535) ++ r.drop 44)

/-! ### Detection to SAG_HOLD and its end (R468 to R474) -/

/-- The device is gated off: every unit but the Cove domain loses its state (R470). -/
def Dev.shed (d : Dev) : Dev :=
  let e := d.fullReset
  { e with cove := { d.cove with upd := none, stagedAt := none, erasing := d.cove.erasing.drop 1, bistDone := false }
           glb := { e.glb with started := d.glb.started } }

/-- SAG_DETECTION: the sources asserted, and the kind of flash operation that is aborted (0 none, 1 program, 2 erase). The detector
must be armed, and VSENSE counts below 10.8 V. No record is written without JNL_READY, nor before the epoch write (R473). -/
def execSagDetection (bus : Nat) (vsense pfail : Bool) (flashOp : Nat) (s : State) : Res :=
  onNv (fun d n =>
    let vsense := vsense && below bus 1080
    if d.bit ⟨R.PWR_STATUS, 0, 1⟩ = false ∨ (vsense = false ∧ pfail = false) then (d, n)
    else
      let d := d.busShow bus !pfail
      let cause := (if vsense then 1 else 0) + (if pfail then 2 else 0) + (if d.stagingOld then 4 else 0)
      let jseq := match n.newestSag with
        | some (_, q) => (q + 1) % 2 ^ 32
        | none => 1
      let slot := if d.bit ⟨R.PWR_STATUS, 3, 1⟩ && d.cfg.epochWrite.isNone then some (d.fld ⟨R.PWR_JNL, 0, 9⟩) else none
      let save : SagSave := { slot := slot, record := d.sagRecord jseq cause (min bus 65535) (min flashOp 2) }
      let r := halfLost (if d.holdOk then d.setHold false else d) (d.storeAbort n) (d.cove.erasing.take 1)
      let e := r.1.shed
      ({ e with cove := { e.cove with save := some save } }, r.2)) s

/-- The end of the save: the record is complete, and the device is in SAG_HOLD; a RESET_N that fell meanwhile applies now. -/
def execSagHold (vEnd saveUs : Nat) (s : State) : Res :=
  onPin (fun d n =>
    match d.cove.save with
    | none => (d, n)
    | some sv =>
      let n := match sv.slot with
        | some i => n.prog (journalSlot i) (sagBytes sv.record (min vEnd 65535) saveUs)
        | none => n
      let again := d.cove.released
      let waits := d.cove.resetWaits
      let d := { d with cove := { d.cove with save := none, hold := true, resetWaits := false, released := none } }
      if waits then
        let r := d.holdReset n
        match again with
        | some f => r.1.bootStart r.2 f
        | none => r
      else (d, n)) s

/-- The end of SAG_HOLD: the device resets itself as by RESET_N, while the Cove domain runs on (R464, R474). -/
def execSagHoldEnd (s : State) : Res :=
  onPin (fun d n =>
    if d.cove.hold then
      let e := d.fullReset
      { e with cove := { d.cove with hold := false } }.bootStart n { answers := d.cove.flashUp }
    else (d, n)) s

/-- VCOVE is lost: total power loss. A save that ran leaves its slot undefined: free bytes. -/
def execVcoveLoss (s : State) : Res :=
  onPin (fun d n =>
    match d.cove.save.bind (·.slot) with
    | some i =>
      let x := d.drawNat
      x.2.holdReset ((n.erase (journalSlot i) 1024).prog (journalSlot i) (leBytes 1024 x.1))
    | none => d.holdReset n) s

/-! ### The journal (R472, R477) -/

/-- The erase of a journal half ends. With a second half still to be erased, the next slot is slot 0 (R477). -/
def execJournalErase (ok : Bool) (s : State) : Res :=
  onNv (fun d n =>
    match d.cove.erasing with
    | [] => (d, n)
    | h :: hs =>
      let d := { d with cove := { d.cove with erasing := hs } }
      if ok then
        let n := n.erase (journalHalf h) halfSize
        let d := d.jnlShow n
        (if h = 0 ∧ hs ≠ [] then (d.put ⟨R.PWR_JNL, 0, 9⟩ 0).put ⟨R.PWR_STATUS, 3, 1⟩ 1 else d, n)
      else
        let r := halfLost d n [h]
        (r.1.pwrEvent 3, r.2)) s

/-- 0x1101 PWR_INFO. -/
def execPwrInfo (tag : Word) (args : List Word) (s : State) : Res :=
  onDev (fun d => d.mailbox 0x1101 false (args.length == 0) tag args (fun d => .ok d (d.regsBytes (addrs R.PWR_STATUS 9)))) s

/-- 0x1102 PWR_SAG_READ: slot, or 0xFFFF for the newest. -/
def execPwrSagRead (tag : Word) (args : List Word) (s : State) : Res :=
  onNv (mailboxNv 0x1102 false (args.length == 1) tag args (fun d n =>
    let i := (args.getD 0 0).toNat
    let slot := if i = 0xFFFF then n.newestSag.map (·.1) else if (n.slotSeq i).isSome then some i else none
    if 512 ≤ i ∧ i ≠ 0xFFFF then (.fail stBadArg, n)
    else match slot with
      | some j => (.ok d (n.slotBytes j), n)
      | none => (.fail stNotFound, n))) s

/-- 0x1103 PWR_JNL_CLEAR: it answers when the erase starts. -/
def execPwrJnlClear (tag : Word) (args : List Word) (s : State) : Res :=
  onDev (fun d => d.mailbox 0x1103 true (args.length == 0) tag args (fun d =>
    let d := (d.put ⟨R.PWR_STATUS, 3, 1⟩ 0).put ⟨R.PWR_JNL, 0, 9⟩ 0
    .ok { d with cove := { d.cove with erasing := d.cove.erasing ++ [0, 1] } } [])) s

end Sys2Proof.Machine
end

