-- ==== Sys2Proof/Machine/Calib.lean ====
section
/-! DEFINITION. Calibration, its store, and built-in self-test (R478 to R489, R494, R495). -/

namespace Sys2Proof.Machine

/-! ### Requests (R478) -/

/-- The items mapped to a sensor (Table 23-1). -/
def sensorItems (t : Nat) : Nat :=
  if t < 4 then 15 * 16 ^ t else if t = 4 then 2 ^ 16 else if t = 5 then 2 ^ 17 else if t = 6 then 2 ^ 18 else 0

/-- The sensor of an item. -/
def itemSensor (i : Nat) : Nat := if i < 16 then i / 4 else i - 12

def tAverage (t : Nat) : Fld := ⟨R.CAL_TSENt t, 0, 16⟩
def tRef (t : Nat) : Fld := ⟨R.CAL_TSENt t, 16, 16⟩

/-- The average of a sensor differs from its T_ref by more than CAL_DELTA_T. -/
def Dev.drifted (d : Dev) (t : Nat) : Bool :=
  let x := toSigned 16 (d.fld (tAverage t)) - toSigned 16 (d.fld (tRef t))
  decide (16 * max 1 (d.fld ⟨R.CAL_CFG, 8, 8⟩) < x.natAbs)

/-- The stack of a sensor that lies by one: TSEN4 + s (Table 23-1). -/
def Dev.sensorStack (d : Dev) (t : Nat) : Bool := t == 4 || (t == 5 && d.variant.dual)

/-- A 100 ms average of a sensor (R478). A stack's sensor shows in whole degrees in its status, and above 85 °C doubles the stack's
refresh (R373, Table 17-11). -/
def execTsenAverage (t avg : Nat) (s : State) : Res :=
  onDev (fun d =>
    if 12 ≤ t then d
    else
      let d := d.put (tAverage t) (avg % 65536)
      let d := if d.sensorStack t then d.stackTemp (t - 4) (toSigned 16 (avg % 65536)) else d
      if t < 7 ∧ d.bit ⟨R.CAL_CFG, 0, 1⟩ = true ∧ d.drifted t = true then d.calRequest (sensorItems t) else d) s

/-- A write of CAL_REQ: bits of absent ports are ignored (R494). -/
def execCalReq (v : Word) (s : State) : Res := onDev (fun d => d.calRequest (v.toNat % 2 ^ 19)) s

/-! ### Items (R479 to R483) -/

def calPending (i : Nat) : Fld := ⟨R.CAL_PENDING, i, 1⟩
def calFailed (i : Nat) : Fld := ⟨R.CAL_FAILED, i, 1⟩
def calSkipped (i : Nat) : Fld := ⟨R.CAL_SKIPPED, i, 1⟩

/-- An item that cannot run is dropped; one whose port is not ACTIVE is requested again when it is (R479). -/
def Dev.calDrop (d : Dev) (i : Nat) (again : Bool) : Dev :=
  let d := (d.put (calPending i) 0).put (calSkipped i) 1
  let d := if again then { d with cal := { d.cal with again := if d.cal.again.contains i then d.cal.again else i :: d.cal.again } } else d
  d.calShow

/-- Items that hinder another: TDC runs on its own, and the DRAM items run one stack at a time (R480). -/
def calExcludes (i j : Nat) : Bool := i == 18 || j == 18 || (decide (16 ≤ i) && decide (16 ≤ j))

/-- A pending item starts when nothing blocks it. A LANE item asks for SP for its lane 0 (R59, R481). -/
def execCalItemStart (item : Nat) (s : State) : Res :=
  onDev (fun d =>
    if 19 ≤ item ∨ d.bit (calPending item) = false ∨ d.cal.running.contains item = true ∨ d.paused = true then d
    else if item < 16 ∧ d.portState item ≠ 7 then d.calDrop item true
    else if item < 16 ∧ d.bit (liveCal item) = false then (d.calDrop item false).calEvent 2
    else if d.cal.running.any (calExcludes item) then d
    else
      let d := { d with cal := { d.cal with running := d.cal.running ++ [item] } }
      if item < 16 then d.spRequest item (.recal 0) 0 else d) s

/-- The dwell to select: the largest margin of those without a mismatch or code violation, and of equal ones the lower setting
(R482). -/
def bestDwell : List Dwell → Option Dwell
  | [] => none
  | x :: xs =>
    match bestDwell xs with
    | some y => if x.clean && (decide (y.margin < x.margin) || (x.margin == y.margin && decide (x.ctle < y.ctle))) then some x else some y
    | none => if x.clean then some x else none

/-- One lane of a lane item: its CTLE is replaced, or kept when the selected margin is below EYE_MIN. -/
def Dev.calLane (d : Dev) (p : Nat) (dwells : List Dwell) (k : Nat) : Dev :=
  match bestDwell (dwells.filter (fun x => x.lane == k)) with
  | some b =>
    if d.fld ⟨R.CAM_CTRL p, 8, 8⟩ ≤ b.margin then
      let f : Fld := ⟨R.CAM_LANEk_EQ p k, 8, 4⟩
      let d := if d.fld f = b.ctle % 16 then d else { d with cal := { d.cal with changed := true } }
      d.put f b.ctle
    else (d.put (calFailed p) 1).calEvent 1
  | none => (d.put (calFailed p) 1).calEvent 1

/-- A channel of a DRAM item: its margins. -/
def Dev.calChannel (d : Dev) (s : Nat) (t : TrainCh) : Dev :=
  if t.stack = s ∧ t.ch < 16 then (d.put ⟨R.MEM_TRAINs_c s t.ch, 8, 8⟩ t.rdMargin).put ⟨R.MEM_TRAINs_c s t.ch, 16, 8⟩ t.wrMargin else d

/-- The lanes of a lane item are still being taken: it holds SP or waits for it (R481). -/
def Dev.calHolds (d : Dev) (p : Nat) : Bool :=
  let recal (h : SpHold) : Bool := match h with
    | .recal _ => true
    | _ => false
  ((d.cport p).spHolder.map recal).getD false || (d.cport p).spWait.any recal

/-- A running item completes (R478, R482). -/
def execCalItemDone (item : Nat) (dwells : List Dwell) (train : List TrainCh) (changed : Bool) (s : State) : Res :=
  onDev (fun d =>
    if d.cal.running.contains item = false ∨ (item < 16 ∧ d.calHolds item = true) then d
    else
      let d := { d with cal := { d.cal with running := d.cal.running.filter (fun i => i != item), changed := d.cal.changed || changed } }
      let d := (((d.put (calFailed item) 0).put (calSkipped item) 0).put (calPending item) 0).bump ⟨R.CAL_RUN_CNT, 0, 32⟩
      let d := if item < 16 then [4, 0, 1, 2, 3].foldl (fun d k => d.calLane item dwells k) d
        else if item < 18 then train.foldl (fun d t => d.calChannel (item - 16) t) d
        else d
      (d.put (tRef (itemSensor item)) (d.fld (tAverage (itemSensor item)))).calShow) s

/-! ### The store (R484, R485) -/

/-- The sections table: offset and length of each section, laid one after another from byte 64. -/
def sectionTable : Nat → List (List Byte) → List Byte
  | _, [] => []
  | ofs, x :: xs => leBytes 4 ofs ++ leBytes 4 x.length ++ sectionTable (ofs + x.length) xs

/-- A copy of the store: header, sections, CRC. -/
def storeBytes (deviceId seq : Nat) (sections : List (List Byte)) : List Byte :=
  let four := (sections ++ [[], [], [], []]).take 4
  let body := four.flatMap id
  withCrc (leBytes 4 0x4C434743 ++ leBytes 1 1 ++ leBytes 1 0 ++ leBytes 2 0 ++ leBytes 4 seq ++ leBytes 4 (64 + body.length + 4) ++
    leBytes 6 deviceId ++ leBytes 2 0 ++ sectionTable 64 four ++ leBytes 8 0 ++ body)

/-- The write of the store ends: the copy is in use, or its first sector is erased and STORE_FAIL raised. -/
def execStoreWrite (ok : Bool) (sections : List (List Byte)) (s : State) : Res :=
  onNv (fun d n =>
    if !d.cal.writing then (d, n)
    else
      let a := n.storeSeq 0
      let b := n.storeSeq 1
      let copy := olderCopy a b
      let bs := storeBytes n.fuses.deviceId (nextSeq a b) sections
      let d' := ({ d with cal := { d.cal with writing := false } }).put ⟨R.CAL_STATUS, 3, 1⟩ 0
      if ok && d.cove.flashUp && decide (bs.length ≤ storeSize) then
        let d' := ((d'.put ⟨R.CAL_STATUS, 1, 1⟩ 0).put ⟨R.CAL_STATUS, 2, 1⟩ copy).setReg R.CAL_STORE_SEQ (BitVec.ofNat 32 (nextSeq a b))
        (d'.calShow, (n.erase (storeBase copy) 4096).prog (storeBase copy) bs)
      else ((d'.calEvent 3).calShow, d.storeAbort n)) s

/-! ### Built-in self-test (R487 to R489) -/

/-- The partitions that a mask selects: 0 selects every one. -/
def bistSelected (mask : Nat) : List Nat := (List.range 14).filter (fun p => mask == 0 || mask / 2 ^ p % 2 == 1)

/-- A partition whose units the variant lacks (R487). -/
def Dev.bistAbsent (d : Dev) (p : Nat) : Bool := !d.variant.assay && (p == 7 || p == 8)

/-- Step 3 of Table 23-5: tracks and jobs have ended, the page policy is close, and the partitions run. -/
def execBistPartitionsRun (s : State) : Res :=
  onDev (fun d =>
    match d.cove.bist with
    | some (mask, 0) =>
      let d := d.closeRest
      if d.pipeEmpty then
        let d := (List.range (if d.variant.dual then 2 else 1)).foldl (fun d s => d.put ⟨R.MEM_Ss_STATUS s, 9, 1⟩ 1) d
        { d with cove := { d.cove with bist := some (mask, 1) } }
      else d
    | _ => d) s

/-- One partition has run: its signature, and PASS or FAIL against the fused one (R489). -/
def Dev.bistPart (d : Dev) (n : NonVol) (sigs : List Nat) (p : Nat) : Dev :=
  if d.bistAbsent p then d.put ⟨R.CAL_BIST_SKIP, p, 1⟩ 1
  else
    let sig := sigs.getD p 0 % 2 ^ 64
    let d := d.setReg64 (R.CAL_BISTp_SIG_LO p) sig
    if sig = tget (fun _ => 0) n.fuses.bistSig p then d.put ⟨R.CAL_BIST_PASS, p, 1⟩ 1 else d.put ⟨R.CAL_BIST_FAIL, p, 1⟩ 1

/-- Steps 4 and 5 of Table 23-5: the results are written, the device resets and boots. -/
def execBistDone (sigs : List Nat) (ms : Nat) (s : State) : Res :=
  onNv (fun d n =>
    match d.cove.bist with
    | some (mask, 1) =>
      let d := ((d.setReg R.CAL_BIST_PASS 0).setReg R.CAL_BIST_FAIL 0).setReg R.CAL_BIST_SKIP 0
      let d := (bistSelected mask).foldl (fun d p => d.bistPart n sigs p) d
      let d := d.setReg R.CAL_BIST_STATUS (BitVec.ofNat 32 (min ms 65535 * 65536))
      let d := { d with cove := { d.cove with bistDone := true } }
      (d.logPut 0x12 .bistDone []).restart n
    | _ => (d, n)) s

/-! ### Commands (R495) -/

/-- 0x1201 CAL_INFO. -/
def execCalInfo (tag : Word) (args : List Word) (s : State) : Res :=
  onDev (fun d => d.mailbox 0x1201 false (args.length == 0) tag args (fun d => .ok d (d.regsBytes (listedIn R.CAL_CFG 0x1200070)))) s

/-- 0x1202 CAL_RUN. -/
def execCalRun (tag : Word) (args : List Word) (s : State) : Res :=
  onDev (fun d => d.mailbox 0x1202 false (args.length == 1) tag args (fun d =>
    let m := (args.getD 0 0).toNat
    let named := (List.range 19).filter (fun i => m / 2 ^ i % 2 == 1)
    if 2 ^ 19 ≤ m then .fail stBadArg
    else if !named.isEmpty && named.all (fun i => !d.calItem i) then .fail stUnitAbsent
    else .ok (d.calRequest m) [])) s

/-- 0x1203 BIST_RUN: it answers before BIST begins. -/
def execBistRun (tag : Word) (args : List Word) (s : State) : Res :=
  onDev (fun d => d.mailbox 0x1203 true (args.length == 1) tag args (fun d =>
    let m := (args.getD 0 0).toNat
    if 2 ^ 14 ≤ m then .fail stBadArg
    else if d.stage = 4 ∨ d.stage = 5 ∨ d.paused = true then .fail stBadState
    else match d.refusal with
      | some st => .failWith st (d.refuse st) []
      | none =>
        let d := d.pauseStart false
        .ok { d with cove := { d.cove with bist := some (m, 0) } } [])) s

/-- 0x1204 BIST_RESULT. -/
def execBistResult (tag : Word) (args : List Word) (s : State) : Res :=
  onDev (fun d => d.mailbox 0x1204 false (args.length == 0) tag args (fun d =>
    if d.fld ⟨R.CAL_BIST_STATUS, 0, 2⟩ = 0 then .fail stNotFound else .ok d (d.regsBytes (listedIn R.CAL_BIST_STATUS 0x12001DC)))) s

/-- 0x1205 CAL_STORE_READ. -/
def execCalStoreRead (tag : Word) (args : List Word) (s : State) : Res :=
  onNv (mailboxNv 0x1205 false (args.length == 3) tag args (fun d n =>
    let copy := (args.getD 0 0).toNat
    let ofs := (args.getD 1 0).toNat
    let len := (args.getD 2 0).toNat
    if 1 < copy ∨ len = 0 ∨ 262144 < len ∨ storeSize < ofs + len then (.fail stBadArg, n)
    else (.ok d (n.read (storeBase copy + ofs) len), n))) s

end Sys2Proof.Machine
end

