-- ==== Sys2Proof/Machine/HostEnd.lean ====
section
/-! DEFINITION. The end of a mailbox command, and detachment (R354, R356, R360). -/

namespace Sys2Proof.Machine

/-- A HIF register (Table 20-9). -/
def isHif (a : Nat) : Bool := a / 0x100000 == 0xB

/-- Detachment: every engine stops, the owner session, a host's update session and the host's claims end, every HIF register returns
to its reset value, and a running command goes on with its response discarded (R354, R424, R435, R443). -/
def Dev.detach (d : Dev) : Dev :=
  let d := (List.range 16).foldl (fun d e => d.dmaHalt e) d.ownEnd
  { d with
    regs := d.regs.filter (fun e => !isHif e.1), heldHi := d.heldHi.filter (fun e => !isHif e.1)
    latch := d.latch.filter (fun e => !isHif e.1)
    hif := { old := d.hif.old ++ (d.hif.running.map (fun r => { r with discard := true })).toList, taken := d.hif.taken }
    cfg := { d.cfg with claims := d.cfg.claims.filter (fun c => !c.host) } }

def execUsb4LinkLoss (s : State) : Res := onDev (fun d => d.detach) s
def execFunctionLevelReset (s : State) : Res := onDev (fun d => d.detach) s
def execHotReset (s : State) : Res := onDev (fun d => d.detach) s

/-- Status, response, length and tag are written; DONE sets, BUSY clears, vector 0 is requested (R356). -/
def Dev.mbFinish (d : Dev) (tag : Word) (status : Nat) (resp : List Byte) : Dev :=
  let ws := bytesWords resp
  let d := (List.range ws.length).foldl (fun d i => d.setReg (R.MB_RESP i) (ws.getD i 0)) d
  let d := (d.put ⟨R.MB_STATUS, 16, 16⟩ status).setReg R.MB_RESP_LEN (BitVec.ofNat 32 resp.length)
  let d := d.setReg R.MB_RESP_TAG tag
  ((d.put ⟨R.MB_STATUS, 1, 1⟩ 1).put ⟨R.MB_STATUS, 0, 1⟩ 0).irq 0

/-- A command that has replied ends: its response goes to the host unless it is discarded, and GLB_RESET resets the device
(R354, R356, R360). -/
def Running.finish (r : Running) (d : Dev) (n : NonVol) : Dev × NonVol :=
  match r.reply with
  | none => (d, n)
  | some (status, resp) =>
    let d := if r.discard then d else d.mbFinish r.tag status resp
    if r.code = 0x0103 ∧ status = stOk then d.restart n else (d, n)

/-- The running command completes, and those of an earlier attachment that have replied are over. -/
def execMailboxCompletion (s : State) : Res :=
  onNv (fun d n =>
    let ended := (d.hif.running.toList ++ d.hif.old).filter (fun r => r.reply.isSome)
    let d := { d with hif := { d.hif with old := d.hif.old.filter (fun r => r.reply.isNone),
                                          running := d.hif.running.filter (fun r => r.reply.isNone) } }
    ended.foldl (fun x r => r.finish x.1 x.2) (d, n)) s

end Sys2Proof.Machine
end

