-- ==== Sys2Proof/Machine/Jtag.lean ====
section
/-! DEFINITION. The test access port (R490 to R493). Each row is one instruction in the instruction register with one scan of the
data register it selects. -/

namespace Sys2Proof.Machine

/-- The TAP leaves EXTEST, CLAMP, HIGHZ, EXTEST_PULSE or EXTEST_TRAIN: the pins return to the core, and a device that is out of reset
resets as by GLB_RESET (R491). -/
def Dev.tapLeave (d : Dev) (n : NonVol) : Dev × NonVol :=
  if d.pins.boundary = 0 then (d, n)
  else
    let d := { d with pins := { d.pins with boundary := 0 } }
    if d.glb.held || !d.glb.started then (d, n) else d.restart n

/-- An instruction is selected. The TAP is dead while the device is gated off for a sag (R470). An instruction that does not take the
pins leaves one that does (DEDUCED, assumption 47). -/
def onTap (code : Nat) (boundary : Nat) (f : Dev → NonVol → Dev) (s : State) : Res :=
  onPin (fun d n =>
    if d.cove.save.isSome || d.cove.hold then (d, n)
    else
      let r := if boundary = 0 then d.tapLeave n else (d, n)
      let d := { r.1 with pins := { r.1.pins with ir := code, boundary := boundary } }
      (f d r.2, r.2)) s

/-- The boundary register is loaded. -/
def Dev.loadBsr (d : Dev) (v : Nat) : Dev := { d with pins := { d.pins with bsr := v } }

/-- DEBUG_OPEN (R439). -/
def debugOpen : Fld := ⟨R.SEC_STATUS, 2, 1⟩

/-- Under DEBUG_LOCK without DEBUG_OPEN an instruction acts as BYPASS (Table 23-6). -/
def Dev.debugShut (d : Dev) (n : NonVol) : Bool := n.fuses.locked && !d.bit debugOpen

/-- A debug instruction, or BYPASS in its place. -/
def Dev.debugAct (d : Dev) (n : NonVol) (f : Dev → Dev) : Dev :=
  if d.debugShut n then { d with pins := { d.pins with ir := 0xFF } } else f d

def execExtest (bsr : Nat) (s : State) : Res := onTap 0x00 1 (fun d _ => d.loadBsr bsr) s
def execSamplePreload (bsr : Nat) (s : State) : Res := onTap 0x01 0 (fun d _ => d.loadBsr bsr) s

/-- The identification register: revision B, part, manufacturer. -/
def execIdcode (s : State) : Res := onTap 0x02 0 (fun d _ => d.emit (.jtag [0xB0000000 + d.variant.device * 4096 + 0x78B])) s

def execClamp (s : State) : Res := onTap 0x03 2 (fun d _ => d) s
def execHighz (s : State) : Res := onTap 0x04 3 (fun d _ => d) s
def execExtestPulse (bsr : Nat) (s : State) : Res := onTap 0x05 1 (fun d _ => d.loadBsr bsr) s
def execExtestTrain (bsr : Nat) (s : State) : Res := onTap 0x06 1 (fun d _ => d.loadBsr bsr) s

/-- The wrapper serial path, whose contents the spec does not describe, is open or bypassed. -/
def execWrapAccess (s : State) : Res := onTap 0x10 0 (fun d n => d.debugAct n id) s

/-- The 64-bit data register: offset in [25:0], value in [63:32]. Nothing is written, not even the counters a read clears. -/
def execRegRead (addr : Nat) (s : State) : Res :=
  onTap 0x11 0 (fun d n => d.debugAct n (fun d =>
    d.emit (.jtag [addr % 2 ^ 26 + (readReg d (addr % 2 ^ 26)).toNat * 2 ^ 32]))) s

/-- The Pitman debug port, which the spec does not describe, is open or bypassed. -/
def execPitmanDebug (s : State) : Res := onTap 0x13 0 (fun d n => d.debugAct n id) s

/-- A fresh nonce of 32 bytes, which voids the one before. -/
def execUnlockChal (s : State) : Res :=
  onTap 0x20 0 (fun d _ =>
    if d.glb.held || !d.glb.started then d
    else
      let (b, d) := d.freshBytes 32
      ({ d with sec := { d.sec with unlockNonce := some b } }).emit (.jtag [leNat b])) s

/-- Does a signature open debug (R439)? -/
def NonVol.unlocks (n : NonVol) (nonce sig : List Byte) : Bool :=
  match n.ownerKey with
  | some key => ecVerify key ([0x43, 0x47, 0x44, 0x55] ++ n.idBytes ++ nonce) sig
  | none => false

/-- The signature is checked: DEBUG_OPEN, or a counted failure; after eight failures it is ignored until reset. -/
def execUnlockResp (sig : List Byte) (s : State) : Res :=
  onTap 0x21 0 (fun d n =>
    if d.glb.held || !d.glb.started || decide (8 ≤ d.sec.unlockFails) then d
    else
      let good := match d.sec.unlockNonce with
        | some nonce => sig.length == 96 && n.unlocks nonce sig
        | none => false
      if good then ({ d with sec := { d.sec with unlockFailed := false } }).put debugOpen 1
      else
        let d := { d with sec := { d.sec with unlockFails := d.sec.unlockFails + 1, unlockFailed := true } }
        (d.bump ⟨R.CAL_UNLOCK_FAIL, 0, 8⟩).calEvent 6) s

/-- DEBUG_LOCK, DEBUG_OPEN, last unlock failed, unlock refused. -/
def execLockStatus (s : State) : Res :=
  onTap 0x22 0 (fun d n =>
    let b (i : Nat) (x : Bool) : Nat := if x then 2 ^ i else 0
    d.emit (.jtag [b 0 n.fuses.locked + b 1 (d.bit debugOpen) + b 2 d.sec.unlockFailed + b 3 (decide (8 ≤ d.sec.unlockFails))])) s

def execBypass (s : State) : Res := onTap 0xFF 0 (fun d _ => d) s

/-- The TAP leaves an EXTEST-class instruction; Test-Logic-Reset selects IDCODE. -/
def execTapExitReset (s : State) : Res :=
  onPin (fun d n =>
    if d.cove.save.isSome || d.cove.hold then (d, n)
    else
      let r := d.tapLeave n
      ({ r.1 with pins := { r.1.pins with ir := 0x02 } }, r.2)) s

end Sys2Proof.Machine
end

