-- ==== Sys2Proof/Machine/Pace.lean ====
section
/-! DEFINITION. The pace monitors of the fabric's regions (R23 to R25, R38). -/

namespace Sys2Proof.Machine

/-- PACE_WIN of a GLB_PACE_CTRL word in ns: 0 is treated as 1 µs (R38, Table 2-6). -/
def paceWin (ctrl : Word) : Nat := max 1 (getBits ctrl 8 8) * 1000

/-- The measured rate over the fused rate, u4.12 (R23): `count` ring counts in `win` ns against `ref` counts per ms. Beyond 16 bits
it reads 0xFFFF (DESIGN CHOICE, assumption 103); a rate between two steps reads as one of them (assumption 49). -/
def Dev.paceRatio (d : Dev) (count win ref : Nat) : Nat × Dev :=
  let (q, d) := d.quotient (count * 1000000 * 4096) (win * ref)
  (min q 0xFFFF, d)

/-- One region's measurement of a window of `win` ns, with the PACE_MIN in force in it: its ring count, and the ns for which it held
data (R23 to R25). A region that the variant lacks has no monitor. -/
def Dev.paceRegion (d : Dev) (paceMin r win ref count busy : Nat) : Dev :=
  if r = 9 ∧ d.variant.assay = false then d
  else
    let (ratio, d) := d.paceRatio count win ref
    let d := (d.put ⟨R.GLB_PACE_RGNn r, 0, 16⟩ ratio).put ⟨R.GLB_PACE_RGNn r, 16, 8⟩ (min 100 (busy * 100 / win))
    let d := if ratio < paceMin then (d.sticky ⟨R.GLB_PACE_STATUS, r, 1⟩ 1 true).raise 0x8 2 else d
    if ratio < 0x1000 then (d.sticky ⟨R.GLB_PACE_STATUS, 16 + r, 1⟩ 1 true).logPut 0x01 .paceUnder [r, ratio] else d

/-- A window ends PACE_WIN after its start; the next runs with the values now in GLB_PACE_CTRL (R23, R38). With PACE_EN clear the last
values are held. -/
def execPaceWindow (rgn : List (Nat × Nat)) (s : State) : Res :=
  onDev (fun d =>
    if d.bit ⟨R.GLB_PACE_CTRL, 0, 1⟩ = false then d
    else
      let win := paceWin d.glb.paceCtrl
      let d := d.expire d.glb.paceStart win
      let d := (rgn.take 12).zipIdx.foldl (fun d x =>
        d.paceRegion (getBits d.glb.paceCtrl 16 16) x.2 win (tget paceRefInit s.nv.fuses.paceRef x.2) x.1.1 x.1.2) d
      { d with glb := { d.glb with paceCtrl := d.reg R.GLB_PACE_CTRL, paceStart := d.glb.paceStart + win } }) s

end Sys2Proof.Machine
end

