-- ==== Sys2Proof/Machine/RegWrite.lean ====
section
/-! DEFINITION. A host write to a BAR0 register (R2, R7 to R10, R282, R404, R424, R425). The bits whose write has behaviour of its own
belong to other rows of the opcode table; the other writable bits of the word take the value written. -/

namespace Sys2Proof.Machine

/-- The bits of a register row that this row writes: its fields without those of another row. -/
def RegRow.plain (r : RegRow) : Word := BitVec.ofNat 32 r.fields &&& ~~~(BitVec.ofNat 32 r.own)

/-- The word after a write of `v` to the plain bits of `old`. -/
def RegRow.merge (r : RegRow) (old v : Word) : Word := (old &&& ~~~r.plain) ||| (v &&& r.plain)

/-- Index and offset of an address in an array of registers. -/
def inArray (a base count stride : Nat) : Option (Nat × Nat) :=
  if base ≤ a ∧ a < base + count * stride then some ((a - base) / stride, (a - base) % stride) else none

/-- Would the write put a resource to a use other than its claim, or reach a channel or unit that is not the host's (R282, R424)? `new`
is the word that the register would hold. -/
def Dev.writeDenied (d : Dev) (a : Nat) (new : Word) : Bool :=
  match inArray a (R.TDL_CMPn_CFG 0) 32 0x40, inArray a (R.DR_n_CFG 0) 4096 0x10, inArray a (R.RNL_CHc_CFG 0) 128 0x20,
      inArray a (R.CV_CFG 0) 8 0x100 with
  | some (c, 0), _, _, _ => !d.cmpModeOk c (getBits new 0 2)
  | _, some (n, 0), _, _ => (getBits new 0 2 == 1 || getBits new 0 2 == 2) && !d.ringClaimed n
  | _, _, some (c, _), _ => d.chOwner c != 0
  | _, _, _, some (u, o) => decide (o < 0x48) && d.cvImage u
  | _, _, _, _ => false

/-- Is the write ignored: a window or a setting of a check-value unit that it cannot take now (R402, R404, R407)? -/
def Dev.writeIgnored (d : Dev) (a : Nat) (new : Word) : Bool :=
  match inArray a (R.CV_CFG 0) 8 0x100 with
  | some (_, 0) => cvRefused new || d.cvAbsent new
  | some (u, o) => decide (0x38 ≤ o) && decide (o ≤ 0x40) && d.cvEn u
  | none => false

/-- What follows a write: a channel whose MODE changed, the descriptor of a ring or of the job queues, a unit's settings, FULL of an engine, and the window that
starts with the pace monitors. -/
def Dev.writeFollows (d : Dev) (a : Nat) (old new : Word) : Dev :=
  match inArray a (R.TDL_CMPn_CFG 0) 32 0x40, inArray a (R.DR_n_CFG 0) 4096 0x10, inArray a (R.CV_CFG 0) 8 0x100,
      inArray a (R.HIF_DMAe_CFG 0) 16 0x40 with
  | some (c, 0), _, _, _ => d.modeChanged c (getBits old 0 2)
  | _, some (n, 0), _, _ => d.ringShow n
  | _, some (n, 4), _, _ => d.ringShow n
  | _, _, some (u, 0), _ => (d.setReg a old).cvConfig u new
  | _, _, _, some (e, 0) => d.dmaShow e
  | _, _, _, _ =>
    if a = R.SHF_JOB_LIMIT then (List.range 4).foldl (fun d m => d.setJobs m (d.asyJobs m)) d
    else if a = R.GLB_PACE_CTRL ∧ getBits old 0 1 = 0 ∧ getBits new 0 1 = 1 then 
      { d with glb := { d.glb with paceCtrl := new, paceStart := d.now2 } } else d

/-- A write that the access and write-time codes allow. -/
def Dev.plainWrite (d : Dev) (r : RegRow) (a : Nat) (v : Word) : Dev :=
  let old := d.reg a
  let new := r.merge old v
  if d.writeDenied a new then d.denied
  else if d.writeIgnored a new then d
  else if r.access = .w1c then d.setReg a (old &&& ~~~(v &&& r.plain))
  else if r.pair = 2 then { d with heldHi := tset noneAt d.heldHi a (some (v &&& r.plain)) }
  else
    let d := if r.pair = 1 ∧ r.plain ≠ 0 then d.takeHeldHi (a + 4) 0xFFFFFFFF else d
    (d.setReg a new).writeFollows a old new

/-- REGISTER_WRITE: an address that no register table lists, or whose unit the variant lacks, has no effect (R2, R425); a field that
the image or firmware writes stays unchanged and sets WR_DENIED, whatever its access (R10); any other that is read-only stays
unchanged (R9). -/
def execRegisterWrite (addr : Nat) (v : Word) (s : State) : Res :=
  onDev (fun d => d.hostWriteTo addr (fun d =>
    match regRow addr with
    | none => d
    | some r =>
      if r.when_ = .boot ∨ r.when_ = .fw then d.denied
      else if r.access = .ro ∨ r.access = .rc then d
      else d.plainWrite r addr v)) s

end Sys2Proof.Machine
end

