-- ==== Sys2Proof/Machine/Vlp.lean ====
section
/-! DEFINITION. The Vilek Lane Protocol receiver and the commands and events of its chapter (R68 to R100, R108 to R110). -/

namespace Sys2Proof.Machine

/-! ### Packets (Table 4-1, R70 to R73) -/

/-- A packet as framed: the bytes between its SOP and its EOP (R71). -/
structure VlpPacket where
  bytes : List Byte
deriving DecidableEq, Repr

def VlpPacket.vc (p : VlpPacket) : Nat := byteAt p.bytes 0 / 64
def VlpPacket.dt (p : VlpPacket) : Nat := byteAt p.bytes 0 % 64
def VlpPacket.ver (p : VlpPacket) : Nat := byteAt p.bytes 1 % 16
def VlpPacket.len (p : VlpPacket) : Nat := fieldAt p.bytes 2 2
def VlpPacket.seq (p : VlpPacket) : Nat := fieldAt p.bytes 4 2
def VlpPacket.offset (p : VlpPacket) : Nat := fieldAt p.bytes 6 2
def VlpPacket.payload (p : VlpPacket) : List Byte := (p.bytes.drop 10).take (p.bytes.length - 14)
def VlpPacket.hdrOk (p : VlpPacket) : Bool := crc16 0xFFFF (p.bytes.take 8) == fieldAt p.bytes 8 2
def VlpPacket.payOk (p : VlpPacket) : Bool := crc32c p.payload == fieldAt p.bytes (p.bytes.length - 4) 4

/-- LEN fits the bytes received and lies within 1 to 8,192 (R71). -/
def VlpPacket.framed (p : VlpPacket) : Bool :=
  p.len + 14 == p.bytes.length && decide (1 ≤ p.len) && decide (p.len ≤ 8192)

/-- Table 4-2's rule on LEN. -/
def lenRule (dt len : Nat) (payload : List Byte) : Bool :=
  match dt with
  | 0x01 => len == 16
  | 0x02 => len == 8
  | 0x10 => true
  | 0x11 => len % 5 == 0
  | 0x12 => len % 3 == 0
  | 0x13 => len % 2 == 0
  | 0x20 => len == 16
  | 0x30 => len == 4 + 4 * fieldAt payload 2 2
  | _ => true

def hdrDrop (p : Nat) : Fld := ⟨R.CAM_PKT_ERR p, 0, 8⟩
def dtUnknown (p : Nat) : Fld := ⟨R.CAM_PKT_ERR p, 8, 8⟩
def vcUnmapped (p : Nat) : Fld := ⟨R.CAM_PKT_ERR p, 16, 8⟩
def seqGap (p : Nat) : Fld := ⟨R.CAM_PKT_ERR2 p, 0, 8⟩
def offsetErr (p : Nat) : Fld := ⟨R.CAM_PKT_ERR2 p, 8, 8⟩
def noStart (p : Nat) : Fld := ⟨R.CAM_PKT_ERR2 p, 16, 8⟩
def gapErr (p : Nat) : Fld := ⟨R.CAM_PKT_ERR2 p, 24, 8⟩

/-! ### Lines (R76 to R83) -/

/-- The open line of a virtual channel has a packet CRC mismatch (R83). -/
def Dev.lineMis (d : Dev) (p v : Nat) : Dev :=
  match (d.vcRx p v).line with
  | none => d
  | some l => d.setVcRx p v { d.vcRx p v with line := some { l with mis := true } }

/-- SEQ of a kept header (R74): adopted first, then expected; a difference counts SEQ_GAP and marks the open line. -/
def Dev.vcSeq (d : Dev) (p v seq : Nat) : Dev :=
  let x := d.vcRx p v
  let d := match x.seq with
    | some e => if e = seq then d else (d.bump (seqGap p)).lineMis p v
    | none => d
  d.setVcRx p v { d.vcRx p v with seq := some ((seq + 1) % 65536) }

/-- A line start opens a line, closing one still open (R76, R78), and matches its trigger count (R108). The last ORPHAN of a
run brings the resync (R110). The first line accepted ends an activation pause (R449). -/
def Dev.lineStart (d : Dev) (p v : Nat) (pay : List Byte) : Dev :=
  let d := d.closeLine p v false false
  let c := d.vcCtx p v
  match d.matchLine c (fieldAt pay 0 4) with
  | (e, d) =>
    let l : OpenLine := { ctx := c, slot := e.map (·.slot), num := fieldAt pay 4 4, exposure := fieldAt pay 8 4 }
    let d := (d.setVcRx p v { d.vcRx p v with line := some l }).put ⟨R.CAM_VLP_STATUS p, 8 + v, 1⟩ 1
    let d := match e with
      | some e => (d.setCport p { d.cport p with lineAt := d.now2 }).pauseEnd c e.pos
      | none => d
    d.resyncCtx c

/-- The first `n` bits of a little-endian bit string, in whole bytes: the spare bits of the last are 0. -/
def firstBits (n : Nat) (bs : List Byte) : List Byte :=
  bs.take (n / 8) ++ (if n % 8 = 0 then [] else ((bs.drop (n / 8)).take 1).map (fun x => BitVec.ofNat 8 (x.toNat % 2 ^ (n % 8))))

/-- Pixels are written into the line's slot at their offset: positions at or above W are discarded and never reach the ring (R79, R106),
a gap before them is filled (R106). An OFFSET within a group begins at its byte rounded down (DESIGN CHOICE, assumption 115), and the
bits of the last byte above the line's width are written 0 (DESIGN CHOICE, assumption 119). -/
def Dev.writePixels (d : Dev) (l : OpenLine) (off n : Nat) (pay : List Byte) : Dev :=
  match l.slot with
  | none => d
  | some s =>
    let w := d.ctxWidth l.ctx
    let b := bitsPerPixel (d.ctxFormat l.ctx)
    let base := d.slotAddr l.ctx s + 64
    let hi := min (off + n) w
    let d := if l.end_ < off ∧ l.end_ < w then
        d.memWrite 0x00 (base + l.end_ * b / 8) (packPixels b (List.replicate (min off w - l.end_) (d.ctxFill l.ctx)))
      else d
    if off < hi then d.memWrite 0x00 (base + off * b / 8) (firstBits ((hi - off) * b) pay) else d

/-- A pixel packet of an open line (R77 to R79): below the end of the previous one it is discarded. The digest covers every payload byte
of a packet so kept, those above W and those of a line without a slot among them (DEDUCED, assumption 116). -/
def Dev.pixels (d : Dev) (p v : Nat) (l : OpenLine) (off : Nat) (pay : List Byte) : Dev :=
  if off < l.end_ then d.bump (offsetErr p)
  else
    let b := bitsPerPixel (d.ctxFormat l.ctx)
    let n := pay.length * 8 / b
    let w := d.ctxWidth l.ctx
    let hi := min (off + n) w
    let d := d.writePixels l off n pay
    d.setVcRx p v { d.vcRx p v with line := some { l with
      end_ := off + n, written := l.written + (hi - off), pixEnd := if off < hi then hi else l.pixEnd,
      long := l.long || decide (w < off + n), digest := BitVec.ofNat 32 (crc32cFold l.digest.toNat pay) } }

/-- A line end closes the line with its digest (R77, R78). -/
def Dev.lineEnd (d : Dev) (p v : Nat) (l : OpenLine) (pay : List Byte) : Dev :=
  d.closeLine p v true (fieldAt pay 0 4 == l.digest.toNat ^^^ 0xFFFFFFFF)

/-- A kept pixel packet or line end (R78): without an open line it counts in NO_START. -/
def Dev.vcData (d : Dev) (p v : Nat) (k : VlpPacket) : Dev :=
  match (d.vcRx p v).line with
  | none => d.bump (noStart p)
  | some l => if k.dt = 0x02 then d.lineEnd p v l k.payload else d.pixels p v l k.offset k.payload

/-- A VC-scope packet arrives on a virtual channel (R80). -/
def Dev.vcSeen (d : Dev) (p v : Nat) : Dev := d.setVcRx p v { d.vcRx p v with lastAt := d.now2 }

/-- A VC-scope packet with a good HCRC (R73, R74, R81, R82). One that R73 discards leaves the expected SEQ as it was; one that R78 or R81
discards has been expected and counts (DEDUCED, assumption 114). -/
def Dev.vcPacket (d : Dev) (p : Nat) (k : VlpPacket) : Dev :=
  let v := k.vc
  let d := d.vcSeen p v
  let mapped := d.vcMapped p v
  if mapped && decide (0x10 ≤ k.dt) && k.dt != 0x10 + d.ctxFormat (d.vcCtx p v) then d.bump (dtUnknown p)
  else if !lenRule k.dt k.len k.payload then d.bump (lenErr p)
  else if !mapped || d.bit ⟨R.CAM_VLP_STATUS p, 4 + v, 1⟩ || !d.bit ⟨R.CAM_VLP_STATUS p, 0, 1⟩ then d.bump (vcUnmapped p)
  else
    let d := d.vcSeq p v k.seq
    if k.dt = 0x01 then (if k.payOk then d.lineStart p v k.payload else d.bump (hdrDrop p))
    else (if k.payOk then d else d.lineMis p v).vcData p v k

/-- A VC-scope packet with a wrong HCRC (R81, R82): a line start is dropped; any other packet is kept provisionally when every
condition holds, and marks its line; otherwise it is dropped, and marks its line all the same (R83). -/
def Dev.vcProvisional (d : Dev) (p : Nat) (k : VlpPacket) : Dev :=
  let v := k.vc
  let x := d.vcRx p v
  let fmt := 0x10 + d.ctxFormat (d.vcCtx p v)
  let keep := match x.line with
    | none => false
    | some l => k.ver == 1 && (k.dt == 0x02 || k.dt == fmt) && x.seq == some k.seq && (k.dt == 0x02 || k.offset == l.end_)
  if k.dt = 0x01 then d.bump (hdrDrop p)
  else if keep then
    if lenRule k.dt k.len k.payload then (((d.vcSeen p v).vcSeq p v k.seq).lineMis p v).vcData p v k else d.bump (lenErr p)
  else (d.bump (hdrDrop p)).lineMis p v

/-! ### Port-scope packets (R82, R84, R85, R87) -/

/-- A status packet (R84). -/
def Dev.statusPacket (d : Dev) (p : Nat) (pay : List Byte) : Dev :=
  let old := d.fld ⟨R.CAM_CAMSTATi p 0, 16, 16⟩
  let d := (List.range 4).foldl (fun d i => d.setReg (R.CAM_CAMSTATi p i) (BitVec.ofNat 32 (fieldAt pay (4 * i) 4))) d
  let flags := fieldAt pay 2 2
  let valid := flags / 8 % 2
  let d := d.put ⟨R.CAM_VLP_STATUS p, 1, 1⟩ valid
  let d := if flags = old then d else d.vlpEvent p 1
  if valid = 0 then
    let d := d.vlpEvent p 2
    if d.bit ⟨R.CAM_VLP_STATUS p, 0, 1⟩ then d.setCount p false else d
  else d

/-- A vendor packet (R85). -/
def Dev.vendorPacket (d : Dev) (p : Nat) (pay : List Byte) : Dev :=
  (d.setCport p { d.cport p with vendor := pay.take 256 }).vlpEvent p 4

/-- A back-channel reply (R87, R97): with the outstanding command's tag it ends it; BUSY to a discovery command counts as no
reply. -/
def Dev.bcReply (d : Dev) (p tag : Nat) (pay : List Byte) : Dev :=
  match (d.cport p).bc with
  | [] => d
  | c :: _ =>
    let st := fieldAt pay 0 2
    if c.sent = false ∨ tag ≠ c.tag ∨ (st = 3 ∧ c.use.disc = true) then d
    else d.bcEnd p (some (st, (List.range (fieldAt pay 2 2)).map (fun i => fieldAt pay (4 + 4 * i) 4)))

/-- A port-scope packet is kept only when both of its CRCs match (R82). -/
def Dev.portPacket (d : Dev) (p : Nat) (k : VlpPacket) : Dev :=
  if !k.hdrOk then d.bump (hdrDrop p)
  else if !lenRule k.dt k.len k.payload then d.bump (lenErr p)
  else if !k.payOk then d.bump (hdrDrop p)
  else match k.dt with
    | 0x20 => d.statusPacket p k.payload
    | 0x30 => d.bcReply p k.seq k.payload
    | _ => d.vendorPacket p k.payload

/-! ### Reception -/

/-- A packet is complete: framing first, and a packet that fails it counts in LEN_ERR alone (R71; DEDUCED, assumption 117); then the data
type (R73), then the packet itself. At the start of an activation the ports discard every line (R448). -/
def Dev.receive (d : Dev) (p : Nat) (k : VlpPacket) : Dev :=
  if !k.framed then d.bump (lenErr p)
  else if k.dt = 0x01 ∨ k.dt = 0x02 ∨ (0x10 ≤ k.dt ∧ k.dt ≤ 0x13) then
    if d.discards then d else if k.hdrOk then d.vcPacket p k else d.vcProvisional p k
  else if k.dt = 0x20 ∨ k.dt = 0x30 ∨ k.dt = 0x3F then d.portPacket p k
  else d.bump (dtUnknown p)

def Dev.setPartial (d : Dev) (p : Nat) (x : Option (List Byte)) : Dev := d.setCport p { d.cport p with part := x }

/-- One symbol of the reassembled stream (R68, R71): packets are framed from SOP to EOP; outside a packet a data symbol that is not zero
counts in GAP_ERR. Only an ACTIVE port receives. -/
def Dev.rxSym (d : Dev) (p : Nat) (s : Sym) : Dev :=
  if d.portState p ≠ 7 then d
  else match (d.cport p).part, s with
    | none, .ctl c => if c = kSop then d.setPartial p (some []) else d
    | none, .data b => if b = 0 then d else d.bump (gapErr p)
    | none, .bad => d
    | some bs, .ctl c =>
      if c = kEop then (d.setPartial p none).receive p { bytes := bs.reverse }
      else if c = kSop then (d.bump (lenErr p)).setPartial p (some [])
      else d
    | some bs, s =>
      let (b, d) := d.symByte s
      if 8206 ≤ bs.length then (d.bump (lenErr p)).setPartial p none else d.setPartial p (some (b :: bs))

/-- The symbols of a lane with its idle ordered sets and markers taken out, which act on the way (R44 to R48): `n` symbols have passed
since the last of them, and `t` is the symbol time of the port. -/
def Dev.laneRun (p k : Nat) : Nat → Nat → List Sym → Dev → List Sym × Dev
  | n, _, [], d => ([], d.laneBusy p k n)
  | n, t, s :: a :: b :: c :: rest, d =>
    if s = .ctl kIdle then Dev.laneRun p k 0 (t + 4) rest ((d.laneBusy p k n).idleSet p k [a, b, c])
    else if s = .ctl kMarker then Dev.laneRun p k 0 (t + 4) rest ((d.laneBusy p k n).markerSet p k [a, b, c] t)
    else
      let r := Dev.laneRun p k (n + 1) (t + 1) (a :: b :: c :: rest) d
      (s :: r.1, r.2)
  | n, t, s :: rest, d =>
    let r := Dev.laneRun p k (n + 1) (t + 1) rest d
    (s :: r.1, r.2)

/-- What a lane receives for a packet row becomes symbols, and those outside ordered sets are left. A lane's symbols arrive later than
the earliest lane's by its skew. -/
def Dev.laneTake (d : Dev) (p k t : Nat) (groups : List Nat) : List Sym × Dev :=
  let (syms, d) := d.laneSyms p k groups
  Dev.laneRun p k 0 t syms d

/-- Every lane of a port takes its groups, lane `i` of the list being logical lane i. -/
def Dev.lanesTake (d : Dev) (p t : Nat) : Nat → List (List Nat) → List (List Sym) × Dev
  | _, [] => ([], d)
  | i, g :: gs =>
    let (ss, d) := d.laneTake p (d.laneOf p i) (t + d.fld ⟨R.CAM_DESKEW p, 8 * i, 6⟩) g
    let (rest, d) := d.lanesTake p t (i + 1) gs
    (ss :: rest, d)

/-- A packet row: the groups of the lanes in use become the stream again, symbol i from logical lane i mod LANE_CNT (R45), and the stream
is framed. Entries lost at a full crossing count (R30, R31). A port under a test pattern on a data lane receives nothing (R94). -/
def Dev.receiveRow (d : Dev) (p : Nat) (k : VlpSyms) : Dev :=
  if d.portState p ≠ 7 ∨ (List.range 4).any (fun i => d.patternNow p i) = true then d
  else
    let use := d.lanesUsed p
    let d := if 0 < k.lost ∧ d.xingFull then d.xingDrop p k.lost else d
    let d := if use.contains 4 then d else (d.laneTake p 4 k.at_ k.spare).2
    let (ls, d) := d.lanesTake p k.at_ 0 (k.lanes.take use.length)
    let n := (ls.map List.length).foldl max 0
    let d := (unstripe n ls).foldl (fun d s => d.rxSym p s) d
    (List.range 5).foldl (fun d i => d.lockCheck p i) d

/-- A packet sent as line start (R76, R81, R108). -/
def execLineStart (port : Nat) (p : VlpSyms) (s : State) : Res := onPort port (fun d => d.receiveRow port p) s
/-- A packet sent as pixels (R78, R82). -/
def execPixelPacket (port : Nat) (p : VlpSyms) (s : State) : Res := onPort port (fun d => d.receiveRow port p) s
/-- A packet sent as line end (R77, R78, R83). -/
def execLineEnd (port : Nat) (p : VlpSyms) (s : State) : Res := onPort port (fun d => d.receiveRow port p) s
/-- A packet sent as status (R84). -/
def execStatusPacket (port : Nat) (p : VlpSyms) (s : State) : Res := onPort port (fun d => d.receiveRow port p) s
/-- A packet sent as vendor packet (R85). -/
def execVendorPkt (port : Nat) (p : VlpSyms) (s : State) : Res := onPort port (fun d => d.receiveRow port p) s
/-- A packet sent as back-channel reply (R87). -/
def execBackChannelReply (port : Nat) (p : VlpSyms) (s : State) : Res := onPort port (fun d => d.receiveRow port p) s

/-- 1 ms without a VC-scope packet: the open line closes without a line end (R80). -/
def execLineTimeout (port vc : Nat) (s : State) : Res :=
  onPort port (fun d =>
    if vc < 4 ∧ (d.vcRx port vc).line.isSome then (d.expire (d.vcRx port vc).lastAt 1000000).closeLine port vc false false else d) s

/-- The outstanding command is sent again, and counted (R89). -/
def Dev.bcAgain (d : Dev) (p : Nat) : Dev :=
  match (d.cport p).bc with
  | [] => d
  | c :: cs => ((d.setCport p { d.cport p with bc := { c with resends := c.resends + 1 } :: cs }).bump ⟨R.CAM_BC_ERR p, 0, 16⟩).bcEmit p

/-- 10 µs without a reply (R89): the command is sent again with its tag up to three times; then it fails with NO_REPLY. -/
def execBcReplyTimeout (port : Nat) (s : State) : Res :=
  onPort port (fun d =>
    match (d.cport port).bc with
    | [] => d
    | c :: _ =>
      if !c.sent then d
      else
        let d := d.expire c.at_ 10000
        if c.resends < 3 then d.bcAgain port
        else ((d.bump ⟨R.CAM_BC_ERR port, 16, 16⟩).vlpEvent port 3).bcEnd port none) s

/-- LINE_WAIT expires for stamp E (R109). -/
def execLineWait (ctx : Nat) (s : State) : Res :=
  onDev (fun d => if ctx < d.variant.contexts then d.lineWait ctx else d) s

/-- RESYNC_N ORPHAN line starts in a row (R110). -/
def execResync (ctx : Nat) (s : State) : Res :=
  onDev (fun d => if ctx < d.variant.contexts then d.resyncCtx ctx else d) s

/-! ### Mailbox commands (Table 4-8) -/

/-- A command to the camera: BAD_STATE unless the port is ACTIVE; otherwise it waits for the reply (R100). -/
def Dev.camCommand (d : Dev) (p code bcCode : Nat) (payload : List Byte) : Act :=
  if d.portState p ≠ 7 then .fail stBadState
  else .wait (d.bcPush p { use := .host code d.hif.taken, code := bcCode, payload := payload })

/-- CAM_REG_READ. -/
def execCamRegRead (tag : Word) (args : List Word) (s : State) : Res :=
  onDev (fun d => d.mailbox 0x0205 false (args.length == 3) tag args (fun d =>
    let p := (args.getD 0 0).toNat
    let n := (args.getD 2 0).toNat
    d.portArg p (if n = 0 ∨ 64 < n then .fail stBadArg
      else d.camCommand p 0x0205 0x01 (wordsBytes [args.getD 1 0, args.getD 2 0])))) s

/-- The camera registers that the device owns (Table 4-5, R98). -/
def deviceOwned (a : Nat) : Bool :=
  a == 0x40 || (List.range 4).any (fun v => a == 0x100 + 0x20 * v || a == 0x104 + 0x20 * v || a == 0x108 + 0x20 * v)

/-- CAM_REG_WRITE: CONFLICT for a device-owned register (R98). -/
def execCamRegWrite (tag : Word) (args : List Word) (s : State) : Res :=
  onDev (fun d => d.mailbox 0x0206 false (decide (3 ≤ args.length) && decide (args.length ≤ 66)) tag args (fun d =>
    let p := (args.getD 0 0).toNat
    let a := (args.getD 1 0).toNat
    d.portArg p (if (List.range (args.length - 2)).any (fun i => deviceOwned ((a + 4 * i) % 2 ^ 32)) then .fail stConflict
      else d.camCommand p 0x0206 0x02 (wordsBytes (args.drop 1))))) s

/-- CAM_IDENT: CAM_IDENT0 to CAM_IDENT11 and CAM_VLP_STATUS. -/
def execCamIdent (tag : Word) (args : List Word) (s : State) : Res :=
  onDev (fun d => d.mailbox 0x0207 false (args.length == 1) tag args (fun d =>
    let p := (args.getD 0 0).toNat
    d.portArg p (.ok d (d.regsBytes (addrs (R.CAM_IDENTi p 0) 12 ++ [R.CAM_VLP_STATUS p]))))) s

/-- CAM_VENDOR_READ: the stored payload and its length, in the order of Table 4-8 (R356). -/
def execCamVendorRead (tag : Word) (args : List Word) (s : State) : Res :=
  onDev (fun d => d.mailbox 0x0208 false (args.length == 1) tag args (fun d =>
    let p := (args.getD 0 0).toNat
    d.portArg p (.ok d ((d.cport p).vendor ++ leBytes 4 (d.cport p).vendor.length)))) s

/-- CAM_VENDOR_CMD: VENDOR with 1 to 256 bytes, whose number stands in a word after the port (DESIGN CHOICE, assumption 118). -/
def execCamVendorCmd (tag : Word) (args : List Word) (s : State) : Res :=
  onDev (fun d =>
    let n := (args.getD 1 0).toNat
    d.mailbox 0x0209 false (decide (2 ≤ args.length) && decide (args.length = 2 + (n + 3) / 4)) tag args (fun d =>
      let p := (args.getD 0 0).toNat
      d.portArg p (if n = 0 ∨ 256 < n then .fail stBadArg
        else d.camCommand p 0x0209 0x3F ((wordsBytes (args.drop 2)).take n)))) s

/-- CAM_RESET: CAMERA_RESET; after an OK reply the port retrains. -/
def execCamReset (tag : Word) (args : List Word) (s : State) : Res :=
  onDev (fun d => d.mailbox 0x020A false (args.length == 1) tag args (fun d =>
    let p := (args.getD 0 0).toNat
    d.portArg p (d.camCommand p 0x020A 0x06 (leBytes 4 0)))) s

end Sys2Proof.Machine
end

