-- ==== Sys2Proof/Machine/Dispatch.lean ====
section
/-! DEFINITION. The dispatch of commands: one arm per constructor, each one call of its meaning. -/

namespace Sys2Proof.Machine

def exec (i : Instr) (s : State) : Host.Outcome State Fault Refusal :=
  match i with
  | .camRetrain tag args => Sys2Proof.Machine.execCamRetrain tag args s
  | .camLp tag args => Sys2Proof.Machine.execCamLp tag args s
  | .camPrbs tag args => Sys2Proof.Machine.execCamPrbs tag args s
  | .camLaneInfo tag args => Sys2Proof.Machine.execCamLaneInfo tag args s
  | .camRegRead tag args => Sys2Proof.Machine.execCamRegRead tag args s
  | .camRegWrite tag args => Sys2Proof.Machine.execCamRegWrite tag args s
  | .camIdent tag args => Sys2Proof.Machine.execCamIdent tag args s
  | .camVendorRead tag args => Sys2Proof.Machine.execCamVendorRead tag args s
  | .camVendorCmd tag args => Sys2Proof.Machine.execCamVendorCmd tag args s
  | .camReset tag args => Sys2Proof.Machine.execCamReset tag args s
  | .strTableLoad tag args dma => Sys2Proof.Machine.execStrTableLoad tag args dma s
  | .strCommit tag args => Sys2Proof.Machine.execStrCommit tag args s
  | .strCtxInfo tag args => Sys2Proof.Machine.execStrCtxInfo tag args s
  | .strBlRead tag args => Sys2Proof.Machine.execStrBlRead tag args s
  | .rsFsRead tag args => Sys2Proof.Machine.execRsFsRead tag args s
  | .seamInfo tag args => Sys2Proof.Machine.execSeamInfo tag args s
  | .histLocate tag args => Sys2Proof.Machine.execHistLocate tag args s
  | .histDirRead tag args => Sys2Proof.Machine.execHistDirRead tag args s
  | .lodeInfo tag args => Sys2Proof.Machine.execLodeInfo tag args s
  | .lodeCommit tag args => Sys2Proof.Machine.execLodeCommit tag args s
  | .lodeCloseAll tag args => Sys2Proof.Machine.execLodeCloseAll tag args s
  | .asyNetLoad tag args dma => Sys2Proof.Machine.execAsyNetLoad tag args dma s
  | .asyNetInfo tag args => Sys2Proof.Machine.execAsyNetInfo tag args s
  | .asyCommit tag args => Sys2Proof.Machine.execAsyCommit tag args s
  | .asyPatchRead tag args => Sys2Proof.Machine.execAsyPatchRead tag args s
  | .asyInfo tag args => Sys2Proof.Machine.execAsyInfo tag args s
  | .shfInfo tag args => Sys2Proof.Machine.execShfInfo tag args s
  | .shfQueueRead tag args => Sys2Proof.Machine.execShfQueueRead tag args s
  | .drConfig tag args => Sys2Proof.Machine.execDrConfig tag args s
  | .tdlInfo tag args => Sys2Proof.Machine.execTdlInfo tag args s
  | .tdlPosLoad tag args => Sys2Proof.Machine.execTdlPosLoad tag args s
  | .tdlCmpSet tag args => Sys2Proof.Machine.execTdlCmpSet tag args s
  | .tdlHistRead tag args => Sys2Proof.Machine.execTdlHistRead tag args s
  | .rnlChSet tag args => Sys2Proof.Machine.execRnlChSet tag args s
  | .rnlChInfo tag args => Sys2Proof.Machine.execRnlChInfo tag args s
  | .rnlGrpSet tag args => Sys2Proof.Machine.execRnlGrpSet tag args s
  | .rnlSwev tag args => Sys2Proof.Machine.execRnlSwev tag args s
  | .rnlCycleList tag args => Sys2Proof.Machine.execRnlCycleList tag args s
  | .timInfo tag args => Sys2Proof.Machine.execTimInfo tag args s
  | .timTb3Adj tag args => Sys2Proof.Machine.execTimTb3Adj tag args s
  | .timTcSet tag args => Sys2Proof.Machine.execTimTcSet tag args s
  | .timPtpInfo tag args => Sys2Proof.Machine.execTimPtpInfo tag args s
  | .timTb0SecSet tag args => Sys2Proof.Machine.execTimTb0SecSet tag args s
  | .netInfo tag args => Sys2Proof.Machine.execNetInfo tag args s
  | .netPortInfo tag args => Sys2Proof.Machine.execNetPortInfo tag args s
  | .netModRead tag args answer => Sys2Proof.Machine.execNetModRead tag args answer s
  | .glbInfo tag args => Sys2Proof.Machine.execGlbInfo tag args s
  | .logRead tag args => Sys2Proof.Machine.execLogRead tag args s
  | .glbReset tag args => Sys2Proof.Machine.execGlbReset tag args s
  | .memInfo tag args => Sys2Proof.Machine.execMemInfo tag args s
  | .memErrRead tag args => Sys2Proof.Machine.execMemErrRead tag args s
  | .memDecode tag args => Sys2Proof.Machine.execMemDecode tag args s
  | .memTrainInfo tag args => Sys2Proof.Machine.execMemTrainInfo tag args s
  | .memLogClear tag args => Sys2Proof.Machine.execMemLogClear tag args s
  | .sluInfo tag args => Sys2Proof.Machine.execSluInfo tag args s
  | .sluRun tag args => Sys2Proof.Machine.execSluRun tag args s
  | .cvInfo tag args => Sys2Proof.Machine.execCvInfo tag args s
  | .cvSet tag args => Sys2Proof.Machine.execCvSet tag args s
  | .cvSave tag args => Sys2Proof.Machine.execCvSave tag args s
  | .cvRestore tag args => Sys2Proof.Machine.execCvRestore tag args s
  | .cfgInfo tag args => Sys2Proof.Machine.execCfgInfo tag args s
  | .cfgClaim tag args => Sys2Proof.Machine.execCfgClaim tag args s
  | .cfgRelease tag args => Sys2Proof.Machine.execCfgRelease tag args s
  | .cfgClaimList tag args => Sys2Proof.Machine.execCfgClaimList tag args s
  | .cfgRecordsRead tag args => Sys2Proof.Machine.execCfgRecordsRead tag args s
  | .secInfo tag args => Sys2Proof.Machine.execSecInfo tag args s
  | .secSessionOpen tag args => Sys2Proof.Machine.execSecSessionOpen tag args s
  | .secSessionAuth tag args => Sys2Proof.Machine.execSecSessionAuth tag args s
  | .secSessionClose tag args => Sys2Proof.Machine.execSecSessionClose tag args s
  | .secQuote tag args => Sys2Proof.Machine.execSecQuote tag args s
  | .secCertRead tag args => Sys2Proof.Machine.execSecCertRead tag args s
  | .secOwnerProvision tag args => Sys2Proof.Machine.execSecOwnerProvision tag args s
  | .secOwnerRetire tag args => Sys2Proof.Machine.execSecOwnerRetire tag args s
  | .secLock tag args => Sys2Proof.Machine.execSecLock tag args s
  | .secDebugLock tag args => Sys2Proof.Machine.execSecDebugLock tag args s
  | .updOpen tag args => Sys2Proof.Machine.execUpdOpen tag args s
  | .updWrite tag args dma => Sys2Proof.Machine.execUpdWrite tag args dma s
  | .updVerify tag args => Sys2Proof.Machine.execUpdVerify tag args s
  | .updActivate tag args => Sys2Proof.Machine.execUpdActivate tag args s
  | .updClose tag args => Sys2Proof.Machine.execUpdClose tag args s
  | .updStatus tag args => Sys2Proof.Machine.execUpdStatus tag args s
  | .pwrInfo tag args => Sys2Proof.Machine.execPwrInfo tag args s
  | .pwrSagRead tag args => Sys2Proof.Machine.execPwrSagRead tag args s
  | .pwrJnlClear tag args => Sys2Proof.Machine.execPwrJnlClear tag args s
  | .calInfo tag args => Sys2Proof.Machine.execCalInfo tag args s
  | .calRun tag args => Sys2Proof.Machine.execCalRun tag args s
  | .bistRun tag args => Sys2Proof.Machine.execBistRun tag args s
  | .bistResult tag args => Sys2Proof.Machine.execBistResult tag args s
  | .calStoreRead tag args => Sys2Proof.Machine.execCalStoreRead tag args s
  | .badCode code tag args => Sys2Proof.Machine.execBadCode code tag args s
  | .dbOverrun v => Sys2Proof.Machine.execDbOverrun v s
  | .registerWrite addr v => Sys2Proof.Machine.execRegisterWrite addr v s
  | .bar0Size read => Sys2Proof.Machine.execBar0Size read s
  | .bar2Write offset bytes meets => Sys2Proof.Machine.execBar2Write offset bytes meets s
  | .bar2Read offset n meets mirror => Sys2Proof.Machine.execBar2Read offset n meets mirror s
  | .train port v => Sys2Proof.Machine.execTrain port v s
  | .lpReq port v => Sys2Proof.Machine.execLpReq port v s
  | .prbsEn port v stream => Sys2Proof.Machine.execPrbsEn port v stream s
  | .commit ctx v => Sys2Proof.Machine.execCommit ctx v s
  | .strGroupCommit v => Sys2Proof.Machine.execStrGroupCommit v s
  | .freezeAll ctx v => Sys2Proof.Machine.execFreezeAll ctx v s
  | .acquire ctx v => Sys2Proof.Machine.execAcquire ctx v s
  | .lodeCtrlCommit m v => Sys2Proof.Machine.execLodeCtrlCommit m v s
  | .asyCtrlCommit v => Sys2Proof.Machine.execAsyCtrlCommit v s
  | .load n => Sys2Proof.Machine.execLoad n s
  | .tgtLo n v => Sys2Proof.Machine.execTgtLo n v s
  | .startLo n v => Sys2Proof.Machine.execStartLo n v s
  | .arm n v => Sys2Proof.Machine.execArm n v s
  | .timSnap mask => Sys2Proof.Machine.execTimSnap mask s
  | .tgtNs n v => Sys2Proof.Machine.execTgtNs n v s
  | .disarm n v => Sys2Proof.Machine.execDisarm n v s
  | .rnlChcCfg c v => Sys2Proof.Machine.execRnlChcCfg c v s
  | .rnlGrpEn v => Sys2Proof.Machine.execRnlGrpEn v s
  | .swev v => Sys2Proof.Machine.execSwev v s
  | .glbGpioOut v => Sys2Proof.Machine.execGlbGpioOut v s
  | .dmaRun e v => Sys2Proof.Machine.execDmaRun e v s
  | .dmaStop e v => Sys2Proof.Machine.execDmaStop e v s
  | .dmaWr e v => Sys2Proof.Machine.execDmaWr e v s
  | .dmaRd e v => Sys2Proof.Machine.execDmaRd e v s
  | .sluEn v => Sys2Proof.Machine.execSluEn v s
  | .sluJobWr v => Sys2Proof.Machine.execSluJobWr v s
  | .cvEn u v => Sys2Proof.Machine.execCvEn u v s
  | .cvValue u v => Sys2Proof.Machine.execCvValue u v s
  | .save u v => Sys2Proof.Machine.execSave u v s
  | .calReq v => Sys2Proof.Machine.execCalReq v s
  | .extest bsr => Sys2Proof.Machine.execExtest bsr s
  | .samplePreload bsr => Sys2Proof.Machine.execSamplePreload bsr s
  | .idcode => Sys2Proof.Machine.execIdcode s
  | .clamp => Sys2Proof.Machine.execClamp s
  | .highz => Sys2Proof.Machine.execHighz s
  | .extestPulse bsr => Sys2Proof.Machine.execExtestPulse bsr s
  | .extestTrain bsr => Sys2Proof.Machine.execExtestTrain bsr s
  | .wrapAccess => Sys2Proof.Machine.execWrapAccess s
  | .regRead addr => Sys2Proof.Machine.execRegRead addr s
  | .pitmanDebug => Sys2Proof.Machine.execPitmanDebug s
  | .unlockChal => Sys2Proof.Machine.execUnlockChal s
  | .unlockResp sig => Sys2Proof.Machine.execUnlockResp sig s
  | .lockStatus => Sys2Proof.Machine.execLockStatus s
  | .bypass => Sys2Proof.Machine.execBypass s
  | .tapExitReset => Sys2Proof.Machine.execTapExitReset s
  | .resetNLow => Sys2Proof.Machine.execResetNLow s
  | .resetNRelease flash => Sys2Proof.Machine.execResetNRelease flash s
  | .epochWrite ok => Sys2Proof.Machine.execEpochWrite ok s
  | .dramReady train => Sys2Proof.Machine.execDramReady train s
  | .inspReady selfFail => Sys2Proof.Machine.execInspReady selfFail s
  | .hello port lane groups => Sys2Proof.Machine.execHello port lane groups s
  | .detectTimeout port => Sys2Proof.Machine.execDetectTimeout port s
  | .rateAck port lane groups => Sys2Proof.Machine.execRateAck port lane groups s
  | .lockEnd port locked => Sys2Proof.Machine.execLockEnd port locked s
  | .ack port lane groups => Sys2Proof.Machine.execAck port lane groups s
  | .reqTimeout port lane => Sys2Proof.Machine.execReqTimeout port lane s
  | .dwellEnd port lane margin ctle violations => Sys2Proof.Machine.execDwellEnd port lane margin ctle violations s
  | .sweepEnd port => Sys2Proof.Machine.execSweepEnd port s
  | .doneAck port lane groups => Sys2Proof.Machine.execDoneAck port lane groups s
  | .doneRetry port => Sys2Proof.Machine.execDoneRetry port s
  | .alignmentMarker l g0 g1 g2 g3 at_ => Sys2Proof.Machine.execAlignmentMarker l g0 g1 g2 g3 at_ s
  | .deskewDone port => Sys2Proof.Machine.execDeskewDone port s
  | .idleOrderedSet l g0 g1 g2 g3 => Sys2Proof.Machine.execIdleOrderedSet l g0 g1 g2 g3 s
  | .ctleFreeze port lane => Sys2Proof.Machine.execCtleFreeze port lane s
  | .ctleResume port lane => Sys2Proof.Machine.execCtleResume port lane s
  | .lossOfLock port lane groups missed => Sys2Proof.Machine.execLossOfLock port lane groups missed s
  | .retrainReq port lane margin => Sys2Proof.Machine.execRetrainReq port lane margin s
  | .faultRetry port => Sys2Proof.Machine.execFaultRetry port s
  | .spGrant port => Sys2Proof.Machine.execSpGrant port s
  | .spareMirror port => Sys2Proof.Machine.execSpareMirror port s
  | .spareReturn port spLost => Sys2Proof.Machine.execSpareReturn port spLost s
  | .lpIdleT port => Sys2Proof.Machine.execLpIdleT port s
  | .ebbEnter port lane groups => Sys2Proof.Machine.execEbbEnter port lane groups s
  | .lpExit port => Sys2Proof.Machine.execLpExit port s
  | .lineStart port p => Sys2Proof.Machine.execLineStart port p s
  | .pixelPacket port p => Sys2Proof.Machine.execPixelPacket port p s
  | .lineEnd port p => Sys2Proof.Machine.execLineEnd port p s
  | .lineTimeout port vc => Sys2Proof.Machine.execLineTimeout port vc s
  | .statusPacket port p => Sys2Proof.Machine.execStatusPacket port p s
  | .vendorPkt port p => Sys2Proof.Machine.execVendorPkt port p s
  | .backChannelReply port p => Sys2Proof.Machine.execBackChannelReply port p s
  | .bcReplyTimeout port => Sys2Proof.Machine.execBcReplyTimeout port s
  | .lineWait ctx => Sys2Proof.Machine.execLineWait ctx s
  | .resync ctx => Sys2Proof.Machine.execResync ctx s
  | .stripeStart strand => Sys2Proof.Machine.execStripeStart strand s
  | .freezeTimeout ctx col x => Sys2Proof.Machine.execFreezeTimeout ctx col x s
  | .stripeEnd strand badBlack badDef badTrk rs => Sys2Proof.Machine.execStripeEnd strand badBlack badDef badTrk rs s
  | .flush ctx => Sys2Proof.Machine.execFlush ctx s
  | .blFreeze ctx => Sys2Proof.Machine.execBlFreeze ctx s
  | .blThaw ctx => Sys2Proof.Machine.execBlThaw ctx s
  | .blAcquire ctx => Sys2Proof.Machine.execBlAcquire ctx s
  | .commitTask ctx => Sys2Proof.Machine.execCommitTask ctx s
  | .delivery ctx n => Sys2Proof.Machine.execDelivery ctx n s
  | .memberTimeout m k => Sys2Proof.Machine.execMemberTimeout m k s
  | .memberBlind ctx => Sys2Proof.Machine.execMemberBlind ctx s
  | .histStallEnd m => Sys2Proof.Machine.execHistStallEnd m s
  | .unitLabelled e => Sys2Proof.Machine.execUnitLabelled e s
  | .settlement m stalled => Sys2Proof.Machine.execSettlement m stalled s
  | .cut m => Sys2Proof.Machine.execCut m s
  | .stillClose m => Sys2Proof.Machine.execStillClose m s
  | .closeAllTask m => Sys2Proof.Machine.execCloseAllTask m s
  | .lodeCommitTask m => Sys2Proof.Machine.execLodeCommitTask m s
  | .padWait m n => Sys2Proof.Machine.execPadWait m n s
  | .assayTake => Sys2Proof.Machine.execAssayTake s
  | .result => Sys2Proof.Machine.execResult s
  | .assayDeadline => Sys2Proof.Machine.execAssayDeadline s
  | .sramErr slot corrected => Sys2Proof.Machine.execSramErr slot corrected s
  | .slotReload slot => Sys2Proof.Machine.execSlotReload slot s
  | .encoderEdge n lineB level t acc pair => Sys2Proof.Machine.execEncoderEdge n lineB level t acc pair s
  | .wireFault n line => Sys2Proof.Machine.execWireFault n line s
  | .zEdge n level t => Sys2Proof.Machine.execZEdge n level t s
  | .hallTransition u v w t acc => Sys2Proof.Machine.execHallTransition u v w t acc s
  | .ssiPeriod n idle t => Sys2Proof.Machine.execSsiPeriod n idle t s
  | .ssiWord n word errBit check acc => Sys2Proof.Machine.execSsiWord n word errBit check acc s
  | .ssiTo n => Sys2Proof.Machine.execSsiTo n s
  | .posnLoad n => Sys2Proof.Machine.execPosnLoad n s
  | .standstill n => Sys2Proof.Machine.execStandstill n s
  | .interpolatedFire n => Sys2Proof.Machine.execInterpolatedFire n s
  | .timedFire n => Sys2Proof.Machine.execTimedFire n s
  | .setArm n => Sys2Proof.Machine.execSetArm n s
  | .clearArm n => Sys2Proof.Machine.execClearArm n s
  | .syncInPulse width t acc => Sys2Proof.Machine.execSyncInPulse width t acc s
  | .enableGrp g => Sys2Proof.Machine.execEnableGrp g s
  | .disableGrp g => Sys2Proof.Machine.execDisableGrp g s
  | .driveHigh n => Sys2Proof.Machine.execDriveHigh n s
  | .driveLow n => Sys2Proof.Machine.execDriveLow n s
  | .hostEvt n => Sys2Proof.Machine.execHostEvt n s
  | .logMark => Sys2Proof.Machine.execLogMark s
  | .gpioEdge n level => Sys2Proof.Machine.execGpioEdge n level s
  | .tcFire n => Sys2Proof.Machine.execTcFire n s
  | .sync w domain seq source twoStep origin correction logInterval lost => Sys2Proof.Machine.execSync w domain seq source twoStep origin correction logInterval lost s
  | .followUp w domain seq source origin correction => Sys2Proof.Machine.execFollowUp w domain seq source origin correction s
  | .delayReq port domain lost => Sys2Proof.Machine.execDelayReq port domain lost s
  | .delayResp w domain seq source receipt correction => Sys2Proof.Machine.execDelayResp w domain seq source receipt correction s
  | .pdelayReq w domain correction turnaround8 lost => Sys2Proof.Machine.execPdelayReq w domain correction turnaround8 lost s
  | .pdelayReqTimer port domain lost => Sys2Proof.Machine.execPdelayReqTimer port domain lost s
  | .pdelayResp w domain seq twoStep receipt correction lost => Sys2Proof.Machine.execPdelayResp w domain seq twoStep receipt correction lost s
  | .pdelayRespFollowUp w domain seq origin correction => Sys2Proof.Machine.execPdelayRespFollowUp w domain seq origin correction s
  | .announce w domain a => Sys2Proof.Machine.execAnnounce w domain a s
  | .management w domain signaling => Sys2Proof.Machine.execManagement w domain signaling s
  | .holdover b => Sys2Proof.Machine.execHoldover b s
  | .holdoverT b => Sys2Proof.Machine.execHoldoverT b s
  | .ppsIn => Sys2Proof.Machine.execPpsIn s
  | .ppsInMiss => Sys2Proof.Machine.execPpsInMiss s
  | .ppsOut => Sys2Proof.Machine.execPpsOut s
  | .grant w dst src payload => Sys2Proof.Machine.execGrant w dst src payload s
  | .arbSel level => Sys2Proof.Machine.execArbSel level s
  | .switched => Sys2Proof.Machine.execSwitched s
  | .dualWindowEnd => Sys2Proof.Machine.execDualWindowEnd s
  | .grantLost => Sys2Proof.Machine.execGrantLost s
  | .linkDown port => Sys2Proof.Machine.execLinkDown port s
  | .linkUp port => Sys2Proof.Machine.execLinkUp port s
  | .selfTestCycle port c => Sys2Proof.Machine.execSelfTestCycle port c s
  | .arpRequest w senderMac senderIp targetIp => Sys2Proof.Machine.execArpRequest w senderMac senderIp targetIp s
  | .rxErr w fcs => Sys2Proof.Machine.execRxErr w fcs s
  | .statusRequest w srcMac srcIp srcPort payload => Sys2Proof.Machine.execStatusRequest w srcMac srcIp srcPort payload s
  | .batchT port => Sys2Proof.Machine.execBatchT port s
  | .frameSent port => Sys2Proof.Machine.execFrameSent port s
  | .openReq w srcMac srcIp srcPort payload => Sys2Proof.Machine.execOpenReq w srcMac srcIp srcPort payload s
  | .openAuth w srcMac srcIp srcPort payload => Sys2Proof.Machine.execOpenAuth w srcMac srcIp srcPort payload s
  | .challengeExpiry => Sys2Proof.Machine.execChallengeExpiry s
  | .data w srcMac srcIp srcPort payload => Sys2Proof.Machine.execData w srcMac srcIp srcPort payload s
  | .verify w srcMac srcIp srcPort payload => Sys2Proof.Machine.execVerify w srcMac srcIp srcPort payload s
  | .activate w srcMac srcIp srcPort payload => Sys2Proof.Machine.execActivate w srcMac srcIp srcPort payload s
  | .close w srcMac srcIp srcPort payload => Sys2Proof.Machine.execClose w srcMac srcIp srcPort payload s
  | .verifyDone flashOk => Sys2Proof.Machine.execVerifyDone flashOk s
  | .updIdleT => Sys2Proof.Machine.execUpdIdleT s
  | .activationCommit selfFail => Sys2Proof.Machine.execActivationCommit selfFail s
  | .confirm => Sys2Proof.Machine.execConfirm s
  | .trialWindow => Sys2Proof.Machine.execTrialWindow s
  | .usb4LinkLoss => Sys2Proof.Machine.execUsb4LinkLoss s
  | .functionLevelReset => Sys2Proof.Machine.execFunctionLevelReset s
  | .hotReset => Sys2Proof.Machine.execHotReset s
  | .attach gen2 => Sys2Proof.Machine.execAttach gen2 s
  | .d3hot => Sys2Proof.Machine.execD3hot s
  | .dmaBurst e n => Sys2Proof.Machine.execDmaBurst e n s
  | .copyDescriptor e desc fault => Sys2Proof.Machine.execCopyDescriptor e desc fault s
  | .intT e => Sys2Proof.Machine.execIntT e s
  | .ageT e => Sys2Proof.Machine.execAgeT e s
  | .dramRead requester addr n meets mirror => Sys2Proof.Machine.execDramRead requester addr n meets mirror s
  | .dramWrite requester addr bytes meets => Sys2Proof.Machine.execDramWrite requester addr bytes meets s
  | .urgent index => Sys2Proof.Machine.execUrgent index s
  | .refresh stack pc => Sys2Proof.Machine.execRefresh stack pc s
  | .scrub found passEnds => Sys2Proof.Machine.execScrub found passEnds s
  | .parity stack channel requester addr => Sys2Proof.Machine.execParity stack channel requester addr s
  | .recoveryEnd stack channel => Sys2Proof.Machine.execRecoveryEnd stack channel s
  | .laneTake lane => Sys2Proof.Machine.execLaneTake lane s
  | .jobDone lane mismatch => Sys2Proof.Machine.execJobDone lane mismatch s
  | .tapBeat b => Sys2Proof.Machine.execTapBeat b s
  | .holdBack bus pfailN => Sys2Proof.Machine.execHoldBack bus pfailN s
  | .holdLost bus pfailN => Sys2Proof.Machine.execHoldLost bus pfailN s
  | .sagDetection bus vsense pfail flashOp => Sys2Proof.Machine.execSagDetection bus vsense pfail flashOp s
  | .sagHold vEnd saveUs => Sys2Proof.Machine.execSagHold vEnd saveUs s
  | .sagHoldEnd => Sys2Proof.Machine.execSagHoldEnd s
  | .stagingRefresh => Sys2Proof.Machine.execStagingRefresh s
  | .journalErase ok => Sys2Proof.Machine.execJournalErase ok s
  | .vcoreLow mv => Sys2Proof.Machine.execVcoreLow mv s
  | .paceWindow rgn => Sys2Proof.Machine.execPaceWindow rgn s
  | .tsenAverage t avg => Sys2Proof.Machine.execTsenAverage t avg s
  | .calItemStart item => Sys2Proof.Machine.execCalItemStart item s
  | .calItemDone item dwells train changed => Sys2Proof.Machine.execCalItemDone item dwells train changed s
  | .storeWrite ok sections => Sys2Proof.Machine.execStoreWrite ok sections s
  | .bistDone sigs ms => Sys2Proof.Machine.execBistDone sigs ms s
  | .mailboxCompletion => Sys2Proof.Machine.execMailboxCompletion s
  | .watchdogReset => Sys2Proof.Machine.execWatchdogReset s
  | .vcoveLoss => Sys2Proof.Machine.execVcoveLoss s
  | .wireFaultClear n line => Sys2Proof.Machine.execWireFaultClear n line s
  | .slewAbsorbed => Sys2Proof.Machine.execSlewAbsorbed s
  | .bistPartitionsRun => Sys2Proof.Machine.execBistPartitionsRun s

end Sys2Proof.Machine
end

