-- ==== Sys2Proof/Safety.lean ====
section
/-! DEFINITION. What counts as a safe run, in the terms that claims use: the canonical form of the memories, one-way fuses, and
the conditions under which the device takes a command. -/

namespace Sys2Proof.Machine

/-- The memories are in their one canonical form: addresses strictly rising, no entry equal to what an unlisted byte reads as. -/
def Memory.wf (s : State) : Bool := twf s.dev.mem.unlisted s.dev.mem.cells && twf flashInit s.nv.flash

/-- The flash is canonical and no more anti-rollback bits are burned than the part has (R440). -/
abbrev NonVol.wf (n : NonVol) : Prop := twf flashInit n.flash = true ∧ n.fuses.arb ≤ 64

/-- Fuses are burned one way (R429): nothing burned before is unburned, and what manufacture fused is as it was. -/
structure FusesKept (f g : Fuses) : Prop where
  owners : ∀ i h, tget noneAt f.owners i = some h → tget noneAt g.owners i = some h
  deviceId : g.deviceId = f.deviceId
  bistSig : g.bistSig = f.bistSig
  revoked : g.revoked = f.revoked
  arb : f.arb ≤ g.arb
  retired : ∀ i, f.retired.getLsbD i = true → g.retired.getLsbD i = true
  debugLock : ∀ i, f.debugLock.getLsbD i = true → g.debugLock.getLsbD i = true
  paceRef : g.paceRef = f.paceRef
  netLat : g.netLat = f.netLat

/-- The device takes commands in: it is not held in reset and no sag save has gated it off. -/
abbrev State.on (s : State) : Prop := s.dev.off = false

/-- May a doorbell command of a code act now: the device on, BUSY 0, the owner session open where it is asked for, and INSP_READY
for all groups but 0x01, 0x0F and 0x10 (R357, R358, R413)? -/
def Dev.mbOpen (d : Dev) (code : Nat) (own : Bool) : Bool :=
  !d.off && !d.mbBusy && (!own || d.ownSession) &&
    (d.inspReady || code / 0x100 == 0x01 || code / 0x100 == 0x0F || code / 0x100 == 0x10)

/-- The device once a command is taken: arguments and tag written, BUSY set, DONE cleared (R356). -/
def Dev.mbTaken (d : Dev) (code : Nat) (tag : Word) (args : List Word) : Dev := (d.mbWrite tag args).mbStart code tag

/-- A command of a code runs and has no reply yet: it waits. -/
def Dev.mbWaits (d : Dev) (code : Nat) : Bool :=
  match d.hif.running with
  | some r => r.code == code && r.reply.isNone
  | none => false

/-- A command that only reads, done: taken, and OK with its response waiting for the host. -/
def State.answered (s : State) (code : Nat) (tag : Word) (args : List Word) (resp : List Byte) : State :=
  { s with dev := (s.dev.mbTaken code tag args).mbReply stOk resp }

/-- A command carried out: taken, then `f` done to the device, and OK with its response waiting for the host. -/
def State.carried (s : State) (code : Nat) (tag : Word) (args : List Word) (f : Dev → Dev) (resp : List Byte) : State :=
  { s with dev := (f (s.dev.mbTaken code tag args)).mbReply stOk resp }

/-- A location that exists (R364): its fields are within their widths, and its stack is there. -/
abbrev Loc.fits (dual : Bool) (x : Loc) : Prop :=
  x.stack < (if dual then 2 else 1) ∧ x.pc < 32 ∧ x.sid < 2 ∧ x.bankGroup < 4 ∧ x.bank < 4 ∧ x.row < 65536 ∧ x.column < 1024

/-- A location as the seven argument words of MEM_DECODE. -/
def locWords (x : Loc) : List Word :=
  [x.stack, x.pc, x.sid, x.bankGroup, x.bank, x.row, x.column].map (BitVec.ofNat 32)

/-- The commands of the pins, the supplies and the TAP, which reach a device that is off. -/
def pinCommand : Sys2Proof.Instr → Bool
  | .extest _ | .samplePreload _ | .idcode | .clamp | .highz | .extestPulse _ | .extestTrain _ | .wrapAccess | .regRead _
  | .pitmanDebug | .unlockChal | .unlockResp _ | .lockStatus | .bypass | .tapExitReset | .resetNLow | .resetNRelease _
  | .sagHold _ _ | .sagHoldEnd | .vcoveLoss => true
  | _ => false

/-- The registers whose plain write is refused for a claim, ignored, or followed by more than the word: compare channels and delivery
rings, check-value units, engines, GLB_PACE_CTRL and SHF_JOB_LIMIT. -/
def writeHasMore (a : Nat) : Bool :=
  ((inArray a (R.TDL_CMPn_CFG 0) 32 0x40).any (fun x => x.2 == 0)) ||
    ((inArray a (R.DR_n_CFG 0) 4096 0x10).any (fun x => x.2 == 0 || x.2 == 4)) ||
    ((inArray a (R.CV_CFG 0) 8 0x100).any (fun x => decide (x.2 < 0x48))) ||
    ((inArray a (R.HIF_DMAe_CFG 0) 16 0x40).any (fun x => x.2 == 0)) || a == R.GLB_PACE_CTRL || a == R.SHF_JOB_LIMIT

/-! ### The mailbox commands as the command index lists them -/

/-- The mailbox commands (Table 16-5): code, tag and argument words; none for a row that is no mailbox command. -/
def doorbellOf : Sys2Proof.Instr → Option (Nat × Word × List Word)
  | .netModRead tag args _ => some (0x0A03, tag, args)
  | .glbInfo tag args => some (0x0101, tag, args)
  | .logRead tag args => some (0x0102, tag, args)
  | .glbReset tag args => some (0x0103, tag, args)
  | .camRetrain tag args => some (0x0201, tag, args)
  | .camLp tag args => some (0x0202, tag, args)
  | .camPrbs tag args => some (0x0203, tag, args)
  | .camLaneInfo tag args => some (0x0204, tag, args)
  | .camRegRead tag args => some (0x0205, tag, args)
  | .camRegWrite tag args => some (0x0206, tag, args)
  | .camIdent tag args => some (0x0207, tag, args)
  | .camVendorRead tag args => some (0x0208, tag, args)
  | .camVendorCmd tag args => some (0x0209, tag, args)
  | .camReset tag args => some (0x020A, tag, args)
  | .strTableLoad tag args _ => some (0x0301, tag, args)
  | .strCommit tag args => some (0x0302, tag, args)
  | .strCtxInfo tag args => some (0x0303, tag, args)
  | .strBlRead tag args => some (0x0304, tag, args)
  | .rsFsRead tag args => some (0x0305, tag, args)
  | .seamInfo tag args => some (0x0306, tag, args)
  | .histLocate tag args => some (0x0307, tag, args)
  | .histDirRead tag args => some (0x0308, tag, args)
  | .lodeInfo tag args => some (0x0309, tag, args)
  | .lodeCommit tag args => some (0x030A, tag, args)
  | .lodeCloseAll tag args => some (0x030B, tag, args)
  | .asyNetLoad tag args _ => some (0x0501, tag, args)
  | .asyNetInfo tag args => some (0x0502, tag, args)
  | .asyCommit tag args => some (0x0503, tag, args)
  | .asyPatchRead tag args => some (0x0504, tag, args)
  | .asyInfo tag args => some (0x0505, tag, args)
  | .shfInfo tag args => some (0x0601, tag, args)
  | .shfQueueRead tag args => some (0x0602, tag, args)
  | .drConfig tag args => some (0x0603, tag, args)
  | .tdlInfo tag args => some (0x0701, tag, args)
  | .tdlPosLoad tag args => some (0x0702, tag, args)
  | .tdlCmpSet tag args => some (0x0703, tag, args)
  | .tdlHistRead tag args => some (0x0704, tag, args)
  | .rnlChSet tag args => some (0x0801, tag, args)
  | .rnlChInfo tag args => some (0x0802, tag, args)
  | .rnlGrpSet tag args => some (0x0803, tag, args)
  | .rnlSwev tag args => some (0x0804, tag, args)
  | .rnlCycleList tag args => some (0x0805, tag, args)
  | .timInfo tag args => some (0x0901, tag, args)
  | .timTb3Adj tag args => some (0x0902, tag, args)
  | .timTcSet tag args => some (0x0903, tag, args)
  | .timPtpInfo tag args => some (0x0904, tag, args)
  | .timTb0SecSet tag args => some (0x0905, tag, args)
  | .netInfo tag args => some (0x0A01, tag, args)
  | .netPortInfo tag args => some (0x0A02, tag, args)
  | .memInfo tag args => some (0x0C01, tag, args)
  | .memErrRead tag args => some (0x0C02, tag, args)
  | .memDecode tag args => some (0x0C03, tag, args)
  | .memTrainInfo tag args => some (0x0C04, tag, args)
  | .memLogClear tag args => some (0x0C05, tag, args)
  | .sluInfo tag args => some (0x0D01, tag, args)
  | .sluRun tag args => some (0x0D02, tag, args)
  | .cvInfo tag args => some (0x0E01, tag, args)
  | .cvSet tag args => some (0x0E02, tag, args)
  | .cvSave tag args => some (0x0E03, tag, args)
  | .cvRestore tag args => some (0x0E04, tag, args)
  | .cfgInfo tag args => some (0x0F01, tag, args)
  | .cfgClaim tag args => some (0x0F02, tag, args)
  | .cfgRelease tag args => some (0x0F03, tag, args)
  | .cfgClaimList tag args => some (0x0F04, tag, args)
  | .cfgRecordsRead tag args => some (0x0F05, tag, args)
  | .secInfo tag args => some (0x1001, tag, args)
  | .secSessionOpen tag args => some (0x1002, tag, args)
  | .secSessionAuth tag args => some (0x1003, tag, args)
  | .secSessionClose tag args => some (0x1004, tag, args)
  | .secQuote tag args => some (0x1005, tag, args)
  | .secCertRead tag args => some (0x1006, tag, args)
  | .secOwnerProvision tag args => some (0x1007, tag, args)
  | .secOwnerRetire tag args => some (0x1008, tag, args)
  | .secLock tag args => some (0x1009, tag, args)
  | .secDebugLock tag args => some (0x100A, tag, args)
  | .updOpen tag args => some (0x100B, tag, args)
  | .updWrite tag args _ => some (0x100C, tag, args)
  | .updVerify tag args => some (0x100D, tag, args)
  | .updActivate tag args => some (0x100E, tag, args)
  | .updClose tag args => some (0x100F, tag, args)
  | .updStatus tag args => some (0x1010, tag, args)
  | .pwrInfo tag args => some (0x1101, tag, args)
  | .pwrSagRead tag args => some (0x1102, tag, args)
  | .pwrJnlClear tag args => some (0x1103, tag, args)
  | .calInfo tag args => some (0x1201, tag, args)
  | .calRun tag args => some (0x1202, tag, args)
  | .bistRun tag args => some (0x1203, tag, args)
  | .bistResult tag args => some (0x1204, tag, args)
  | .calStoreRead tag args => some (0x1205, tag, args)
  | _ => none

/-- The commands marked "OWN session only" in the chapters' command tables. -/
def ownOnly : List Nat := [0x0103, 0x0501, 0x0905, 0x0C05, 0x1008, 0x1009, 0x100A, 0x100B, 0x1103, 0x1203]

/-- The lengths of argument that fit a code, from the chapters' command tables (R358). -/
def mbLenOk (code : Nat) (args : List Word) : Bool :=
  match code with
  | 0x0101 | 0x0103 | 0x0505 | 0x0601 | 0x0805 | 0x0901 | 0x0A01 | 0x0C01 | 0x0C05 | 0x0D01 | 0x0F01 | 0x0F04
  | 0x1001 | 0x1002 | 0x1004 | 0x1008 | 0x100A | 0x100B | 0x100D | 0x100F | 0x1010 | 0x1101 | 0x1103 | 0x1201
  | 0x1204 => args.length == 0
  | 0x0201 | 0x0204 | 0x0207 | 0x0208 | 0x020A | 0x0303 | 0x0305 | 0x0306 | 0x0309 | 0x030A | 0x030B | 0x0502
  | 0x0503 | 0x0504 | 0x0701 | 0x0802 | 0x0804 | 0x0A02 | 0x0E01 | 0x0E03 | 0x1006 | 0x1009 | 0x100E | 0x1102
  | 0x1202 | 0x1203 => args.length == 1
  | 0x0102 | 0x0202 | 0x0302 | 0x0602 | 0x0803 | 0x0904 | 0x0905 | 0x0C02 | 0x0C04 | 0x0F05 => args.length == 2
  | 0x0205 | 0x0304 | 0x0307 | 0x0308 | 0x0702 | 0x0704 | 0x0F03 | 0x1205 => args.length == 3
  | 0x0203 | 0x0501 | 0x0603 | 0x0902 | 0x0A03 | 0x0E04 | 0x0F02 | 0x100C => args.length == 4
  | 0x0301 => args.length == 5
  | 0x0703 | 0x0E02 => args.length == 6
  | 0x1005 => args.length == 8
  | 0x0903 => args.length == 9
  | 0x0D02 => args.length == 10
  | 0x0801 => args.length == 14
  | 0x0206 => decide (3 ≤ args.length) && decide (args.length ≤ 66)
  | 0x0209 => decide (2 ≤ args.length) && decide (args.length = 2 + ((args.getD 1 0).toNat + 3) / 4)
  | 0x0C03 => args.length == 3 || args.length == 8
  | 0x1003 => args.length == 24 || args.length == 0
  | 0x1007 => args.length == 49 || args.length == 25
  | _ => false

/-- A port that receives: ACTIVE, with no test pattern on its data lanes (R45, R94). -/
abbrev Dev.hears (d : Dev) (p : Nat) : Prop :=
  d.portState p = 7 ∧ (List.range 4).any (fun i => d.patternNow p i) = false

/-- The groups of a row have passed the lanes in use: code errors, markers and idle sets have acted (R43 to R48), and the stream is
whole again, symbol by symbol (R45). -/
def Dev.streamOf (d : Dev) (p : Nat) (k : Sys2Proof.VlpSyms) : List Sym × Dev :=
  let use := d.lanesUsed p
  let d := if 0 < k.lost ∧ d.xingFull then d.xingDrop p k.lost else d
  let d := if use.contains 4 then d else (d.laneTake p 4 k.at_ k.spare).2
  let r := d.lanesTake p k.at_ 0 (k.lanes.take use.length)
  (unstripe ((r.1.map List.length).foldl max 0) r.1, r.2)

/-- The symbols of a packet: SOP, its bytes, EOP (R68). -/
def VlpPacket.symbols (k : VlpPacket) : List Sym := [.ctl kSop] ++ k.bytes.map .data ++ [.ctl kEop]

/-- A virtual channel that is mapped, without CTX_MISMATCH, on a port that has been discovered (R73, R97). -/
def Dev.vcListens (d : Dev) (p v : Nat) : Bool :=
  d.vcMapped p v && !d.bit ⟨R.CAM_VLP_STATUS p, 4 + v, 1⟩ && d.bit ⟨R.CAM_VLP_STATUS p, 0, 1⟩

/-- A task input that has handed its activation to its unit (R287). -/
def Dev.actTaken (d : Dev) (key : Nat) : Dev := { d with rnl := { d.rnl with acts := tset noneAt d.rnl.acts key none } }

/-- A run is safe when every step of it answers a next state. -/
def SafeRun (n : Nat) (s : State) : Prop :=
  match n with
  | 0 => True
  | n + 1 =>
    match step s with
    | .next t => SafeRun n t
    | .fault _ => False
    | .refused _ => False

end Sys2Proof.Machine
end

