-- ==== Sys2Proof/WellFormed.lean ====
section
/-! DEFINITION. Well-formed commands: operands within the ranges that the spec's hardware can present. The meanings are total
without it; it says which commands a run can meet. -/

namespace Sys2Proof

/-- The argument words fit MB_REQ, 4 KB (R356). -/
abbrev argsFit (args : List Word) : Prop := args.length ≤ 1024

/-- Groups of ten bits, as a lane receives them (R43). -/
abbrev tenBit (groups : List Nat) : Prop := ∀ g ∈ groups, g < 1024

/-- The groups of a packet row: those of at most four lanes, and of SP. -/
abbrev VlpSyms.fits (p : VlpSyms) : Prop := p.lanes.length ≤ 4 ∧ (∀ l ∈ p.lanes, tenBit l) ∧ tenBit p.spare

/-- An access within one 64-byte block of DRAM (R369). -/
abbrev inBlock (a n : Nat) : Prop := 0 < n ∧ a % 64 + n ≤ 64 ∧ a + n ≤ 0x2000000000

/-- Is a command well-formed: its indexes name something a CG-7240 has (Table 0-1), its addresses and lengths are ones that can
occur? -/
def Instr.wf : Instr → Bool
  | .camRetrain _ args | .camLp _ args | .camPrbs _ args | .camLaneInfo _ args | .camRegRead _ args
  | .camRegWrite _ args | .camIdent _ args | .camVendorRead _ args | .camVendorCmd _ args | .camReset _ args
  | .strTableLoad _ args _ | .strCommit _ args | .strCtxInfo _ args | .strBlRead _ args | .rsFsRead _ args
  | .seamInfo _ args | .histLocate _ args | .histDirRead _ args | .lodeInfo _ args | .lodeCommit _ args
  | .lodeCloseAll _ args | .asyNetLoad _ args _ | .asyNetInfo _ args | .asyCommit _ args | .asyPatchRead _ args
  | .asyInfo _ args | .shfInfo _ args | .shfQueueRead _ args | .drConfig _ args | .tdlInfo _ args
  | .tdlPosLoad _ args | .tdlCmpSet _ args | .tdlHistRead _ args | .rnlChSet _ args | .rnlChInfo _ args
  | .rnlGrpSet _ args | .rnlSwev _ args | .rnlCycleList _ args | .timInfo _ args | .timTb3Adj _ args
  | .timTcSet _ args | .timPtpInfo _ args | .timTb0SecSet _ args | .netInfo _ args | .netPortInfo _ args
  | .netModRead _ args _ | .glbInfo _ args | .logRead _ args | .glbReset _ args | .memInfo _ args
  | .memErrRead _ args | .memDecode _ args | .memTrainInfo _ args | .memLogClear _ args | .sluInfo _ args
  | .sluRun _ args | .cvInfo _ args | .cvSet _ args | .cvSave _ args | .cvRestore _ args | .cfgInfo _ args
  | .cfgClaim _ args | .cfgRelease _ args | .cfgClaimList _ args | .cfgRecordsRead _ args | .secInfo _ args
  | .secSessionOpen _ args | .secSessionAuth _ args | .secSessionClose _ args | .secQuote _ args
  | .secCertRead _ args | .secOwnerProvision _ args | .secOwnerRetire _ args | .secLock _ args | .secDebugLock _ args
  | .updOpen _ args | .updWrite _ args _ | .updVerify _ args | .updActivate _ args | .updClose _ args
  | .updStatus _ args | .pwrInfo _ args | .pwrSagRead _ args | .pwrJnlClear _ args | .calInfo _ args | .calRun _ args
  | .bistRun _ args | .bistResult _ args | .calStoreRead _ args => decide (argsFit args)
  | .badCode code _ args => decide (code < 0x10000 ∧ argsFit args)
  | .dbOverrun _ | .bar0Size _ | .strGroupCommit _ | .asyCtrlCommit _ | .timSnap _ | .rnlGrpEn _ | .swev _
  | .glbGpioOut _ | .sluEn _ | .sluJobWr _ | .calReq _ | .extest _ | .samplePreload _ | .idcode | .clamp | .highz
  | .extestPulse _ | .extestTrain _ | .wrapAccess | .pitmanDebug | .unlockChal | .unlockResp _ | .lockStatus
  | .bypass | .tapExitReset | .resetNLow | .resetNRelease _ | .epochWrite _ | .dramReady _ | .inspReady _
  | .assayTake | .result | .assayDeadline | .hallTransition _ _ _ _ _ | .syncInPulse _ _ _ | .logMark | .ppsIn
  | .ppsInMiss | .ppsOut | .arbSel _ | .switched | .dualWindowEnd | .grantLost | .challengeExpiry | .verifyDone _
  | .updIdleT | .activationCommit _ | .confirm | .trialWindow | .usb4LinkLoss | .functionLevelReset | .hotReset
  | .attach _ | .d3hot | .urgent _ | .scrub _ _ | .holdBack _ _ | .holdLost _ _ | .sagDetection _ _ _ _
  | .sagHold _ _ | .sagHoldEnd | .stagingRefresh | .journalErase _ | .vcoreLow _ | .paceWindow _ | .storeWrite _ _
  | .bistDone _ _ | .mailboxCompletion | .watchdogReset | .vcoveLoss | .slewAbsorbed | .bistPartitionsRun => true
  | .registerWrite addr _ => decide (addr % 4 = 0 ∧ addr < 0x4000000)
  | .bar2Write offset bytes _ => decide (inBlock offset bytes.length)
  | .bar2Read offset n _ _ => decide (inBlock offset n)
  | .train port _ | .lpReq port _ | .prbsEn port _ _ | .detectTimeout port | .lockEnd port _ | .sweepEnd port
  | .doneRetry port | .deskewDone port | .faultRetry port | .spGrant port | .spareMirror port | .spareReturn port _
  | .lpIdleT port | .lpExit port | .bcReplyTimeout port => decide (port < 16)
  | .lineStart port p | .pixelPacket port p | .lineEnd port p | .statusPacket port p
  | .vendorPkt port p | .backChannelReply port p => decide (port < 16 ∧ p.fits)
  | .commit ctx _ | .freezeAll ctx _ | .acquire ctx _ | .lineWait ctx | .resync ctx | .freezeTimeout ctx _ _
  | .flush ctx | .blFreeze ctx | .blThaw ctx | .blAcquire ctx | .commitTask ctx | .delivery ctx _ | .memberBlind ctx => decide (ctx < 32)
  | .lodeCtrlCommit m _ | .memberTimeout m _ | .histStallEnd m | .settlement m _ | .cut m | .stillClose m
  | .closeAllTask m | .lodeCommitTask m | .padWait m _ => decide (m < 4)
  | .load n | .posnLoad n | .standstill n => decide (n < 8)
  | .tgtLo n _ | .startLo n _ | .arm n _ | .interpolatedFire n | .timedFire n | .setArm n | .clearArm n | .hostEvt n => decide (n < 32)
  | .tgtNs n _ | .disarm n _ | .driveHigh n | .driveLow n | .gpioEdge n _ | .tcFire n => decide (n < 16)
  | .rnlChcCfg c _ => decide (c < 128)
  | .unitLabelled e => decide (e < 4)
  | .dmaRun e _ | .dmaStop e _ | .dmaWr e _ | .dmaRd e _ | .dmaBurst e _ | .copyDescriptor e _ _
  | .intT e | .ageT e => decide (e < 16)
  | .cvEn u _ | .cvValue u _ | .save u _ => decide (u < 8)
  | .regRead addr => decide (addr < 0x4000000)
  | .hello port lane groups | .rateAck port lane groups | .ack port lane groups | .doneAck port lane groups
  | .lossOfLock port lane groups _
  | .ebbEnter port lane groups => decide (port < 16 ∧ lane < 5 ∧ tenBit groups)
  | .alignmentMarker l g0 g1 g2 g3 _ | .idleOrderedSet l g0 g1 g2 g3 => decide (l.port < 16 ∧ l.lane < 5 ∧ tenBit [g0, g1, g2, g3])
  | .reqTimeout port lane | .dwellEnd port lane _ _ _
  | .ctleFreeze port lane | .ctleResume port lane | .retrainReq port lane _ => decide (port < 16 ∧ lane < 5)
  | .lineTimeout port vc => decide (port < 16 ∧ vc < 4)
  | .stripeStart strand | .stripeEnd strand _ _ _ _ => decide (strand < 4)
  | .sramErr slot _ | .slotReload slot => decide (slot < 4)
  | .encoderEdge n _ _ _ _ _ | .zEdge n _ _ => decide (n < 4)
  | .wireFault n line | .wireFaultClear n line => decide (n < 4 ∧ line < 3)
  | .ssiPeriod n _ _ | .ssiWord n _ _ _ _ | .ssiTo n => decide (n < 2)
  | .enableGrp g | .disableGrp g => decide (g < 16)
  | .sync w num _ _ _ _ _ _ _ | .followUp w num _ _ _ _ | .delayResp w num _ _ _ _ | .pdelayReq w num _ _ _
  | .pdelayResp w num _ _ _ _ _ | .pdelayRespFollowUp w num _ _ _ | .announce w num _
  | .management w num _ => decide (w.port < 2 ∧ num < 256)
  | .delayReq port domain _ | .pdelayReqTimer port domain _ => decide (port < 2 ∧ domain < 2)
  | .holdover b | .holdoverT b => decide (b < 2)
  | .grant w _ _ payload | .statusRequest w _ _ _ payload | .openReq w _ _ _ payload
  | .openAuth w _ _ _ payload | .data w _ _ _ payload | .verify w _ _ _ payload
  | .activate w _ _ _ payload | .close w _ _ _ payload => decide (w.port < 2 ∧ payload.length ≤ 9216)
  | .arpRequest w _ _ _ | .rxErr w _ => decide (w.port < 2)
  | .linkDown port | .linkUp port | .selfTestCycle port _ | .batchT port
  | .frameSent port => decide (port < 2)
  | .dramRead requester addr n _ _ => decide (requester < 14 ∧ inBlock addr n)
  | .dramWrite requester addr bytes _ => decide (requester < 14 ∧ inBlock addr bytes.length)
  | .refresh stack pc => decide (stack < 2 ∧ pc < 32)
  | .parity stack channel requester _ => decide (stack < 2 ∧ channel < 16 ∧ requester < 14)
  | .recoveryEnd stack channel => decide (stack < 2 ∧ channel < 16)
  | .laneTake lane | .jobDone lane _ => decide (lane < 4)
  | .tapBeat b => decide (b.bytes.length ≤ 64 ∧ b.sel < 16)
  | .tsenAverage t _ => decide (t < 12)
  | .calItemStart item | .calItemDone item _ _ _ => decide (item < 19)
end Sys2Proof
end

