-- ==== Sys2Proof/Certificates/Slice0/Obligations.lean ====
section
/-! DEFINITION. The statements for the provers, one definition each. `s.on` says that the device takes commands in; `mbOpen`
and `mbTaken` are the mailbox's conditions and the device that has taken a command (Sys2Proof/Safety.lean). -/

open Sys2Proof Sys2Proof.Machine

/-! ### The machine -/

/-- A step with a command in front is that command's meaning on the state whose queue is the rest. -/
def Obligations.StepRunsFrontCommand : Prop :=
  ∀ (c : Instr) (s : State) (rest : List Instr),
    step { s with pending := c :: rest } = exec c { s with pending := rest }

/-- On an empty queue a running device's time clock ticks: TB2 gains 0.8 ns, and so does TB0 while its FREQ is 0 (R293, R294; that
time passes when no command waits is the model's choice, assumption 5); with no slew going on no register changes. -/
def Obligations.IdleStepTicksTimeBases : Prop :=
  ∀ s : State, s.pending = [] → s.on → s.dev.glb.started = true →
    ∃ t, step s = .next t ∧ t.pending = [] ∧ t.nv = s.nv ∧
      t.dev.tim.tb2 = s.dev.tim.tb2.add 3435973837 ∧
      (s.dev.freq 0 = 0 → t.dev.tim.tb0 = s.dev.tim.tb0.add 3435973837) ∧
      (s.dev.tim.slew = 0 → t.dev.regs = s.dev.regs) ∧
      t.dev.mem = s.dev.mem ∧ t.dev.glb = s.dev.glb

/-- At reset every base reads 0 s, 0 ns and fraction 0 (R295), no command waits, and registers read the reset values of their tables.
That the part is a CG-7240, which GLB_ID shows, is the model's choice (assumption 1). -/
def Obligations.ResetLeavesTheTables : Prop :=
  (∀ b, State.reset.dev.base b = { sec := 0, ns := 0, frac := 0 }) ∧ State.reset.pending = [] ∧
  readReg State.reset.dev R.GLB_ID = 0x00B07240 ∧
  readReg State.reset.dev R.GLB_PACE_CTRL = 0x10526401 ∧
  readReg State.reset.dev (R.CAM_CFG 15) = 0x03E8000E ∧
  readReg State.reset.dev (R.CAM_LANE_MAP 0) = 0x00003210 ∧
  readReg State.reset.dev R.MEM_CFG = 3 ∧
  readReg State.reset.dev R.PWR_VSENSE_MIN = 0x0000FFFF

/-- The invariant holds at reset: memories canonical, at most 64 anti-rollback bits burned.
That no fuse is burned is the model's choice (assumption 25). -/
def Obligations.InvariantHoldsAtReset : Prop :=
  Memory.wf State.reset = true ∧ State.reset.nv.wf

/-- Every command of the table answers a next state in every state, and the queue behind it is as it was. -/
def Obligations.EveryCommandAnswers : Prop :=
  ∀ (c : Instr) (s : State), ∃ t, exec c s = .next t ∧ t.pending = s.pending

/-- A step keeps the flash in its canonical form and the count of anti-rollback bits within the 64 of the part.
What an erased byte reads as is presumed (assumption 4). -/
def Obligations.StepKeepsFlashCanonical : Prop :=
  ∀ s t : State, s.nv.wf → step s = .next t → t.nv.wf

/-- Fuses burn one way: no step unburns a retire bit, a debug-lock bit or an anti-rollback bit, or replaces an owner hash
(R429, R431, R437, R439, R440). -/
def Obligations.StepBurnsFusesOneWay : Prop :=
  ∀ s t : State, s.nv.wf → step s = .next t → FusesKept s.nv.fuses t.nv.fuses

/-- While the device is held in reset, or a sag save has gated it off, only RESET_N, the supplies and the TAP do anything
(R470, R501): every other command changes nothing.
Which commands act there is an inference (assumption 18). -/
def Obligations.OffDeviceIgnoresCommands : Prop :=
  ∀ (c : Instr) (s : State), s.dev.off = true → pinCommand c = false → exec c s = .next s

/-! ### Registers -/

/-- A host read follows the access codes of Table 0-4 and the reads of R2, R7 and R425: an address without a register, or of an
absent unit, reads 0; a WO register reads 0; a read returns the value, and an RC register goes back to its reset value; the read
of a _LO word latches its _HI word for the next read of it.
That a counter of least values restarts at its reset value is an inference (assumption 45). -/
def Obligations.HostReadFollowsAccessCodes : Prop :=
  ∀ (d : Dev) (a : Nat), tget noneAt d.latch a = none →
    (hostRead d a).1 = readReg d a ∧
    (regRow a = none → hostRead d a = (0, d)) ∧
    (present d.variant a = false → readReg d a = 0 ∧ (hostRead d a).2 = d) ∧
    (∀ r, regRow a = some r → present d.variant a = true →
      (r.access = .wo → readReg d a = 0) ∧
      (r.access = .rc → (hostRead d a).2.reg a = resetWord a) ∧
      (r.access ≠ .rc → (hostRead d a).2.regs = d.regs) ∧
      (r.pair = 1 → (hostRead (hostRead d a).2 (a + 4)).1 = readReg (if r.access = .rc then d.setReg a (resetWord a) else d) (a + 4)) ∧
      (r.pair ≠ 1 → (hostRead d a).2.latch = d.latch))

/-- A host write that no other rule takes: an unlisted address and an absent unit stay as they are without a flag (R2, R425); a register
that only the image or firmware writes stays and sets WR_DENIED, whatever its access (R10); any other read-only register stays (R9,
Table 0-4); a register that the write would put to a use other than its claim, or of a channel that is not the host's, stays and sets
WR_DENIED (R282, R424); of a read-write register the writable bits take the word written and the others stay (R8); a W1C register loses the
bits written as 1. -/
def Obligations.RegisterWriteFollowsTheCodes : Prop :=
  ∀ (a : Nat) (v : Word) (s : State), s.on →
    (present s.dev.variant a = false → exec (.registerWrite a v) s = .next s) ∧
    (regRow a = none → exec (.registerWrite a v) s = .next s) ∧
    ∀ r, regRow a = some r → present s.dev.variant a = true →
      (r.when_ ≠ .boot → r.when_ ≠ .fw → (r.access = .ro ∨ r.access = .rc) → exec (.registerWrite a v) s = .next s) ∧
      (r.when_ = .boot ∨ r.when_ = .fw →
        ∃ t, exec (.registerWrite a v) s = .next t ∧ t.dev.bit ⟨R.GLB_ERR, 0, 1⟩ = true ∧
          (a ≠ R.GLB_ERR → t.dev.reg a = s.dev.reg a) ∧ t.nv = s.nv ∧ t.dev.mem = s.dev.mem) ∧
      (r.when_ = .run → s.dev.writeDenied a (r.merge (s.dev.reg a) v) = true →
        r.access = .rw → ∃ t, exec (.registerWrite a v) s = .next t ∧ t.dev.bit ⟨R.GLB_ERR, 0, 1⟩ = true ∧
          t.dev.reg a = s.dev.reg a ∧ t.nv = s.nv ∧ t.dev.mem = s.dev.mem) ∧
      (r.when_ = .run → r.pair = 0 → writeHasMore a = false →
        (r.access = .rw ∨ r.access = .wo → s.dev.writeDenied a (r.merge (s.dev.reg a) v) = false → ∃ t, exec (.registerWrite a v) s = .next t ∧
          (∀ i, i < 32 → (t.dev.reg a).getLsbD i = if r.plain.getLsbD i then v.getLsbD i else (s.dev.reg a).getLsbD i) ∧
          (∀ b, b ≠ a → t.dev.reg b = s.dev.reg b) ∧ t.nv = s.nv ∧ t.dev.mem = s.dev.mem ∧ t.dev.hif = s.dev.hif) ∧
        (r.access = .w1c → s.dev.writeDenied a (r.merge (s.dev.reg a) v) = false → ∃ t, exec (.registerWrite a v) s = .next t ∧
          (∀ i, i < 32 → (t.dev.reg a).getLsbD i = ((s.dev.reg a).getLsbD i && !(v.getLsbD i && r.plain.getLsbD i))) ∧
          (∀ b, b ≠ a → t.dev.reg b = s.dev.reg b) ∧ t.nv = s.nv ∧ t.dev.mem = s.dev.mem ∧ t.dev.hif = s.dev.hif))

/-- The order of split registers (R7). A read of _LO latches _HI until _HI is read: whatever happens to the registers in between, the next
read of _HI answers the word it held then, and empties the latch. A value written _HI first and then _LO takes effect on the _LO write:
after the first write no register has changed, after the second both hold the writable bits written. (Compare targets and timed starts,
whose _LO write is a row of its own, are in `Obligations.TimingWritesAct`.) -/
def Obligations.SplitRegistersFollowTheirOrder : Prop :=
  ∀ (a : Nat) (lo hi : Word) (s : State) (r q : RegRow), s.on → regRow a = some r → regRow (a + 4) = some q →
    r.pair = 1 → q.pair = 2 → present s.dev.variant a = true → present s.dev.variant (a + 4) = true →
    (tget noneAt s.dev.latch a = none → ∀ d, d.latch = (hostRead s.dev a).2.latch →
      (hostRead d (a + 4)).1 = readReg (if r.access = .rc then s.dev.setReg a (resetWord a) else s.dev) (a + 4) ∧
      tget noneAt (hostRead d (a + 4)).2.latch (a + 4) = none) ∧
    (r.access = .rw → q.access = .rw → r.when_ = .run → q.when_ = .run → r.plain ≠ 0 →
      s.dev.writeDenied a (r.merge (s.dev.reg a) lo) = false → s.dev.writeIgnored a (r.merge (s.dev.reg a) lo) = false →
      s.dev.writeDenied (a + 4) (q.merge (s.dev.reg (a + 4)) hi) = false →
      s.dev.writeIgnored (a + 4) (q.merge (s.dev.reg (a + 4)) hi) = false →
      ∃ t u, exec (.registerWrite (a + 4) hi) s = .next t ∧ exec (.registerWrite a lo) t = .next u ∧
        t.dev.regs = s.dev.regs ∧
        u.dev.reg (a + 4) = hi &&& q.plain ∧
        u.dev.reg a = r.merge (s.dev.reg a) lo ∧
        (∀ b, b ≠ a → b ≠ a + 4 → u.dev.reg b = s.dev.reg b) ∧ u.nv = s.nv)

/-! ### The mailbox -/

/-- A doorbell write while BUSY is 1 is dropped and raises DB_OVERRUN, and the running command is unaffected (R357), whichever command it
is for; what the host wrote into MB_REQ and MB_TAG before it stays written. -/
def Obligations.DoorbellWhileBusyIsDropped : Prop :=
  ∀ (c : Instr) (s : State), s.on → s.dev.mbBusy = true →
    (∀ code tag args, doorbellOf c = some (code, tag, args) →
      exec c s = .next { s with dev := (s.dev.mbWrite tag args).dbOverrun }) ∧
    (∀ v, exec (.dbOverrun v) s = .next { s with dev := s.dev.dbOverrun }) ∧
    s.dev.dbOverrun.bit ⟨R.HIF_EVENT, 3, 1⟩ = true ∧ s.dev.dbOverrun.hif.running = s.dev.hif.running

/-- The mailbox checks each command before it acts (R358), and refuses all groups but 0x01, 0x0F and 0x10 before INSP_READY (R413): a
code outside the index is BAD_CODE, a length that does not fit BAD_ARG, an owner command without an owner session DENIED, and
nothing but the reply changes.
The order of checks that R358 leaves is an inference (assumption 19). -/
def Obligations.MailboxChecksBeforeActing : Prop :=
  ∀ (c : Instr) (s : State), s.on → s.dev.mbBusy = false →
    (∀ code tag args, codeDefined code = false → exec (.badCode code tag args) s =
      .next { s with dev := (s.dev.mbTaken code tag args).mbReply stBadCode [] }) ∧
    ∀ code tag args, doorbellOf c = some (code, tag, args) →
      (mbLenOk code args = false →
        exec c s = .next { s with dev := (s.dev.mbTaken code tag args).mbReply stBadArg [] }) ∧
      (mbLenOk code args = true → ownOnly.contains code = true → s.dev.ownSession = false →
        exec c s = .next { s with dev := (s.dev.mbTaken code tag args).mbReply stDenied [] }) ∧
      (mbLenOk code args = true → (ownOnly.contains code = true → s.dev.ownSession = true) → s.dev.inspReady = false →
        code / 0x100 ≠ 0x01 → code / 0x100 ≠ 0x0F → code / 0x100 ≠ 0x10 →
        exec c s = .next { s with dev := (s.dev.mbTaken code tag args).mbReply stBadState [] })

/-- Taking a command sets BUSY and clears DONE (R356), and changes no register but MB_REQ, MB_TAG and MB_STATUS. -/
def Obligations.TakingACommandChangesTheMailboxAlone : Prop :=
  ∀ (d : Dev) (code : Nat) (tag : Word) (args : List Word), args.length ≤ 1024 →
    (d.mbTaken code tag args).mbBusy = true ∧
    (d.mbTaken code tag args).bit ⟨R.MB_STATUS, 1, 1⟩ = false ∧
    (d.mbTaken code tag args).reg R.MB_TAG = tag ∧
    (∀ i, i < args.length → (d.mbTaken code tag args).reg (R.MB_REQ i) = args.getD i 0) ∧
    (∀ a, a < R.MB_TAG ∨ (R.MB_STATUS < a ∧ a < R.MB_REQ 0) ∨ R.MB_REQ args.length ≤ a →
      readReg (d.mbTaken code tag args) a = readReg d a) ∧
    (d.mbTaken code tag args).mem = d.mem ∧ (d.mbTaken code tag args).active = d.active

/-- Completion writes the status, the response length and the tag, then sets DONE, clears BUSY and requests vector 0 (R356), unless the
host detached meanwhile; GLB_RESET in the owner session answers OK, and when that is handed over the device resets (R360). -/
def Obligations.CompletionHandsTheReplyOver : Prop :=
  ∀ (s : State) (r : Running) (status : Nat) (resp : List Byte) (tag : Word), s.on → (∀ x ∈ s.dev.hif.old, x.reply = none) →
    (s.dev.mbOpen 0x0103 true = true → exec (.glbReset tag []) s = .next (s.answered 0x0103 tag [] [])) ∧
    (s.dev.hif.running = some r → r.code = 0x0103 → r.reply = some (stOk, resp) → r.discard = false →
      let d := { s.dev with hif := { s.dev.hif with running := none } }
      let e := (d.mbFinish r.tag stOk resp).restart s.nv
      exec .mailboxCompletion s = .next { s with dev := e.1, nv := e.2 }) ∧
    (s.dev.hif.running = some r → r.reply = some (status, resp) → r.code ≠ 0x0103 → resp.length ≤ 262144 →
      ∃ t, exec .mailboxCompletion s = .next t ∧ t.dev.hif.running = none ∧ t.nv = s.nv ∧ t.dev.mem = s.dev.mem ∧
        (r.discard = true → t.dev.regs = s.dev.regs) ∧
        (r.discard = false →
          t.dev.fld ⟨R.MB_STATUS, 16, 16⟩ = status % 65536 ∧
          t.dev.bit ⟨R.MB_STATUS, 1, 1⟩ = true ∧ t.dev.mbBusy = false ∧
          t.dev.reg R.MB_RESP_LEN = BitVec.ofNat 32 resp.length ∧ t.dev.reg R.MB_RESP_TAG = r.tag ∧
          (∀ i, i < (bytesWords resp).length → t.dev.reg (R.MB_RESP i) = (bytesWords resp).getD i 0) ∧
          (∀ a, a < R.MB_STATUS ∨ (R.MB_RESP_TAG < a ∧ a < R.MB_RESP 0) ∨ R.MB_RESP 65536 ≤ a → t.dev.reg a = s.dev.reg a) ∧
          (s.dev.pins.boundary = 0 → t.dev.glb.out = .msix 0 :: s.dev.glb.out)))

/-! ### Commands that read

Each answers OK, with the response its command table gives, on the device as it was before the command; nothing but the mailbox
changes (`answered`). -/

/-- The camera, strand and resampler reads: CAM_LANE_INFO, CAM_IDENT, CAM_VENDOR_READ with the payload before its length (R67, R100, R356),
STR_CTX_INFO and STR_BL_READ, which reads the columns' states from good blocks of DRAM (R123, R140, R144), and RS_FS_READ (R159).
Where the states lie in the tables partition is the model's choice (assumption 34). -/
def Obligations.CameraAndStrandReadsAnswer : Prop :=
  ∀ (s : State) (tag a0 a1 a2 : Word),
    (s.dev.mbOpen 0x0204 false = true → a0.toNat < s.dev.variant.ports → exec (.camLaneInfo tag [a0]) s =
      .next (s.answered 0x0204 tag [a0] (s.dev.regsBytes
        (R.CAM_STATUS a0.toNat :: R.CAM_LANE_MAP a0.toNat :: addrs (R.CAM_LANEk_EQ a0.toNat 0) 5)))) ∧
    (s.dev.mbOpen 0x0207 false = true → a0.toNat < s.dev.variant.ports → exec (.camIdent tag [a0]) s =
      .next (s.answered 0x0207 tag [a0] (s.dev.regsBytes (addrs (R.CAM_IDENTi a0.toNat 0) 12 ++ [R.CAM_VLP_STATUS a0.toNat])))) ∧
    (s.dev.mbOpen 0x0208 false = true → a0.toNat < s.dev.variant.ports → (s.dev.cport a0.toNat).vendor.length ≤ 8192 →
      exec (.camVendorRead tag [a0]) s = .next (s.answered 0x0208 tag [a0]
        ((s.dev.cport a0.toNat).vendor ++ leBytes 4 (s.dev.cport a0.toNat).vendor.length))) ∧
    (s.dev.mbOpen 0x0303 false = true → a0.toNat < s.dev.variant.contexts → exec (.strCtxInfo tag [a0]) s =
      .next (s.answered 0x0303 tag [a0] (s.dev.regsBytes (listedIn (R.CTX_CFG a0.toNat) (R.CTX_RESYNC_CNT a0.toNat))))) ∧
    (let e := s.dev.mbTaken 0x0304 tag [a0, a1, a2]
     let a := e.trkPlace a0.toNat + 8 * a1.toNat
     let n := 8 * a2.toNat
     s.dev.mbOpen 0x0304 false = true → a0.toNat < s.dev.variant.contexts → 0 < a2.toNat → a2.toNat ≤ 4096 →
      a1.toNat + a2.toNat ≤ e.outW a0.toNat → e.memFrozen = false → e.readable a n = true →
      exec (.strBlRead tag [a0, a1, a2]) s =
        .next { s with dev := (e.access a n).mbReply stOk ((e.access a n).orderedRead a n) }) ∧
    (s.dev.mbOpen 0x0305 false = true → a0.toNat ≤ 15 → exec (.rsFsRead tag [a0]) s =
      .next (s.answered 0x0305 tag [a0] ((List.range 64).flatMap (fun p =>
        (tapWeights a0.toNat p 7 1).flatMap (fun w => leBytes 2 (ofSigned 16 w))))))

/-- The mosaic, engine and classifier reads: SEAM_INFO (R181), LODE_INFO (R200), ASY_NET_INFO and ASY_INFO (R221), SHF_INFO (R243). -/
def Obligations.MosaicAndClassifierReadsAnswer : Prop :=
  ∀ (s : State) (tag a0 : Word),
    (s.dev.mbOpen 0x0306 false = true → s.dev.mosEn a0.toNat = true → exec (.seamInfo tag [a0]) s =
      .next (s.answered 0x0306 tag [a0] (s.dev.regsBytes (addrs (R.SEAM_CFG a0.toNat) 23) ++
        s.dev.regsBytes (addrs (R.SEAM_Si a0.toNat 0) 31)))) ∧
    (s.dev.mbOpen 0x0309 false = true → s.dev.mosEn a0.toNat = true → exec (.lodeInfo tag [a0]) s =
      .next (s.answered 0x0309 tag [a0] (s.dev.regsBytes (listedIn (R.LODE_MCFG a0.toNat) (R.LODE_STILL_CLOSE a0.toNat)) ++
        (if s.dev.segEn a0.toNat then (List.range (s.dev.bands a0.toNat)).flatMap (fun b =>
          s.dev.regsBytes (addrs (R.LODE_ESTAT (s.dev.firstEng a0.toNat + b)) 7)) else [])))) ∧
    (∀ x, s.dev.mbOpen 0x0502 false = true → s.dev.variant.assay = true → a0.toNat < 4 → s.dev.asyNet a0.toNat = some x →
      exec (.asyNetInfo tag [a0]) s = .next (s.answered 0x0502 tag [a0]
        (x.blob.take 1856 ++ wordBytes (s.dev.reg (R.ASY_NETn_BILL a0.toNat))))) ∧
    (s.dev.mbOpen 0x0505 false = true → s.dev.variant.assay = true → exec (.asyInfo tag []) s =
      .next (s.answered 0x0505 tag [] (s.dev.regsBytes (listedIn 0x500000 0x50006C)))) ∧
    (s.dev.mbOpen 0x0601 false = true → exec (.shfInfo tag []) s =
      .next (s.answered 0x0601 tag [] (s.dev.regsBytes (listedIn 0x600000 0x600050))))

/-- The position, event and time reads: TDL_INFO (R277), RNL_CH_INFO and RNL_CYCLE_LIST (R292), TIM_PTP_INFO (R319), and TIM_INFO, which
first captures all four bases (R297, R319). -/
def Obligations.TimingReadsAnswer : Prop :=
  ∀ (s : State) (tag a0 a1 : Word),
    (s.dev.mbOpen 0x0701 false = true → a0.toNat < 8 → exec (.tdlInfo tag [a0]) s =
      .next (s.answered 0x0701 tag [a0] (s.dev.regsBytes (addrs (R.TDL_POSn_CFG a0.toNat) 14 ++ [R.TDL_STATUS])))) ∧
    (s.dev.mbOpen 0x0802 false = true → a0.toNat < 128 → exec (.rnlChInfo tag [a0]) s =
      .next (s.answered 0x0802 tag [a0] (s.dev.regsBytes (addrs (R.RNL_CHc_CFG a0.toNat) 8)))) ∧
    (s.dev.mbOpen 0x0805 false = true → exec (.rnlCycleList tag []) s =
      .next (s.answered 0x0805 tag [] (leBytes 4 (s.dev.fld ⟨R.RNL_STATUS, 0, 1⟩) ++
        (chanCycles s.dev.chanMap).flatMap (leBytes 4)))) ∧
    (s.dev.mbOpen 0x0904 false = true → a0.toNat < s.dev.variant.netPorts → a1.toNat < 2 → exec (.timPtpInfo tag [a0, a1]) s =
      .next (s.answered 0x0904 tag [a0, a1] (
        let c := s.dev.ptp a0.toNat a1.toNat
        let m := c.master.getD {}
        leBytes 10 m.source ++ leBytes 8 m.grandmaster ++ leBytes 4 m.clockClass ++
          leBytes 8 (ofSigned 64 c.offset) ++ leBytes 8 (ofSigned 64 (c.path.getD 0)) ++
          [0, 2, 3, 8, 9, 10, 11, 12, 13].flatMap (fun ty => leBytes 4 (tget (fun _ => 0) c.counts ty)) ++
          leBytes 4 (s.dev.fld ⟨R.TIM_STAMP_LOST, 16 * a0.toNat, 16⟩)))) ∧
    (s.dev.mbOpen 0x0901 false = true → exec (.timInfo tag []) s =
      (let d := (s.dev.mbTaken 0x0901 tag []).snap 15
       .next { s with dev := d.mbReply stOk (d.regsBytes (addrs 0x900020 16 ++ [R.TIM_STATUS] ++ addrs 0x900080 6)) }))

/-- The network, host and log reads: NET_INFO, NET_PORT_INFO and NET_MOD_READ (R341), GLB_INFO and LOG_READ (R360).
The layout of DATA in a log entry is the model's choice (assumption 23), its CODE is open (assumption 6). -/
def Obligations.NetworkAndLogReadsAnswer : Prop :=
  ∀ (s : State) (tag a0 a1 a2 a3 : Word),
    (s.dev.mbOpen 0x0A01 false = true → exec (.netInfo tag []) s =
      .next (s.answered 0x0A01 tag [] (s.dev.regsBytes (listedIn 0xA00000 0xA0003C)))) ∧
    (s.dev.mbOpen 0x0A02 false = true → a0.toNat < s.dev.variant.netPorts → (s.dev.netPort a0.toNat).health.length ≤ 56 →
      exec (.netPortInfo tag [a0]) s = .next (s.answered 0x0A02 tag [a0]
        (s.dev.regsBytes (listedIn (R.NETP_CFG a0.toNat) (R.NETP_PROBE_RTT a0.toNat)) ++ (s.dev.netPort a0.toNat).health ++
          List.replicate (56 - (s.dev.netPort a0.toNat).health.length) 0))) ∧
    (∀ bs : List Byte, s.dev.mbOpen 0x0A03 false = true → a0.toNat < s.dev.variant.netPorts →
      (a1.toNat = 0xA0 ∨ a1.toNat = 0xA2) → a2.toNat < 256 → 0 < a3.toNat → a3.toNat ≤ 128 →
      exec (.netModRead tag [a0, a1, a2, a3] (some bs)) s =
        .next (s.answered 0x0A03 tag [a0, a1, a2, a3] (bs.take a3.toNat))) ∧
    (s.dev.mbOpen 0x0101 false = true → exec (.glbInfo tag []) s =
      .next (s.answered 0x0101 tag [] (s.dev.regsBytes (listedIn 0x0 0x474 ++ [R.HIF_STATUS])))) ∧
    (s.dev.mbOpen 0x0102 false = true → 0 < a1.toNat → a1.toNat ≤ 5461 →
      s.dev.glb.log.reverse.dropWhile (fun e => e.seq != a0.toNat) ≠ [] → exec (.logRead tag [a0, a1]) s =
      .next (s.answered 0x0102 tag [a0, a1]
        (((s.dev.glb.log.reverse.dropWhile (fun e => e.seq != a0.toNat)).take a1.toNat).flatMap LogEntry.bytes)))

/-- The memory, compression and check-value reads: MEM_INFO, MEM_ERR_READ, MEM_DECODE in both directions and MEM_TRAIN_INFO (R384),
SLU_INFO (R398), CV_INFO (R407). -/
def Obligations.MemoryReadsAnswer : Prop :=
  ∀ (s : State) (tag a0 a1 a2 : Word) (x : Loc),
    (s.dev.mbOpen 0x0C01 false = true → exec (.memInfo tag []) s =
      .next (s.answered 0x0C01 tag [] (s.dev.regsBytes (listedIn 0xC00000 0xC00148)))) ∧
    (s.dev.mbOpen 0x0C02 false = true → a0.toNat < 64 → 0 < a1.toNat → a1.toNat ≤ 64 → exec (.memErrRead tag [a0, a1]) s =
      .next (s.answered 0x0C02 tag [a0, a1]
        (((s.dev.mem.log.drop a0.toNat).take a1.toNat).flatMap (fun e => s.dev.memErrBytes e)))) ∧
    (s.dev.mbOpen 0x0C03 false = true → word64 a1 a2 < s.dev.variant.dramBytes → exec (.memDecode tag [0, a1, a2]) s =
      .next (s.answered 0x0C03 tag [0, a1, a2] (
        let y := decodeAddr s.dev.variant.dual (word64 a1 a2)
        [y.stack, y.pc, y.sid, y.bankGroup, y.bank, y.row, y.column, s.dev.partOf (word64 a1 a2)].flatMap (leBytes 4)))) ∧
    (s.dev.mbOpen 0x0C03 false = true → Loc.fits s.dev.variant.dual x →
      exec (.memDecode tag (1 :: locWords x)) s =
      .next (s.answered 0x0C03 tag (1 :: locWords x)
        (leBytes 8 (encodeAddr s.dev.variant.dual x) ++ leBytes 4 (s.dev.partOf (encodeAddr s.dev.variant.dual x))))) ∧
    (s.dev.mbOpen 0x0C04 false = true → a0.toNat < (if s.dev.variant.dual then 2 else 1) → a1.toNat < 16 →
      (tget (fun _ => []) s.dev.mem.helper (16 * a0.toNat + a1.toNat)).length ≤ 4096 → exec (.memTrainInfo tag [a0, a1]) s =
      .next (s.answered 0x0C04 tag [a0, a1] (wordBytes (readReg s.dev (R.MEM_TRAINs_c a0.toNat a1.toNat)) ++
        (tget (fun _ => []) s.dev.mem.helper (16 * a0.toNat + a1.toNat)).flatMap (leBytes 4)))) ∧
    (s.dev.mbOpen 0x0D01 false = true → exec (.sluInfo tag []) s =
      .next (s.answered 0x0D01 tag [] (s.dev.regsBytes (listedIn 0xD00000 0xD0004C)))) ∧
    (s.dev.mbOpen 0x0E01 false = true → a0.toNat < 8 → exec (.cvInfo tag [a0]) s =
      .next (s.answered 0x0E01 tag [a0] (s.dev.regsBytes (listedIn (R.CV_CFG a0.toNat) (R.CV_EVENT a0.toNat)))))

/-- The configuration, security, power and calibration reads: CFG_INFO, CFG_CLAIM_LIST and CFG_RECORDS_READ (R427), SEC_INFO and
UPD_STATUS (R460), SEC_CERT_READ (R432), PWR_INFO and PWR_SAG_READ (R477), CAL_INFO, BIST_RESULT and CAL_STORE_READ (R495).
The layout of CFG_CLAIM_LIST is the model's choice (assumption 39). -/
def Obligations.SystemReadsAnswer : Prop :=
  ∀ (s : State) (tag a0 a1 a2 : Word),
    (s.dev.mbOpen 0x0F01 false = true → exec (.cfgInfo tag []) s =
      .next (s.answered 0x0F01 tag [] (s.dev.regsBytes ([R.GLB_ID, R.GLB_STATUS, R.GLB_ERR] ++ addrs R.CFG_BOOT_STATUS 8) ++
        s.dev.cfg.manifest.take 2304))) ∧
    (s.dev.mbOpen 0x0F04 false = true → s.dev.cfg.claims.length ≤ 13107 → exec (.cfgClaimList tag []) s =
      .next (s.answered 0x0F04 tag [] (s.dev.cfg.claims.flatMap (fun c =>
        [c.cls, c.first, c.count, c.use, if c.host then 1 else 0].flatMap (leBytes 4))))) ∧
    (s.dev.mbOpen 0x0F05 false = true → 0 < a1.toNat → a1.toNat ≤ 262144 → a0.toNat + a1.toNat ≤ s.dev.cfg.records.length →
      exec (.cfgRecordsRead tag [a0, a1]) s =
      .next (s.answered 0x0F05 tag [a0, a1] ((s.dev.cfg.records.drop a0.toNat).take a1.toNat))) ∧
    (s.dev.mbOpen 0x1001 false = true → exec (.secInfo tag []) s =
      .next (s.answered 0x1001 tag [] (s.dev.regsBytes (addrs R.SEC_STATUS 10)))) ∧
    (s.dev.mbOpen 0x1006 false = true → a0.toNat < 3 → exec (.secCertRead tag [a0]) s =
      .next (s.answered 0x1006 tag [a0] (s.nv.read (idBase + 0x1000 * a0.toNat) 4096))) ∧
    (s.dev.mbOpen 0x1010 false = true → exec (.updStatus tag []) s =
      .next (s.answered 0x1010 tag [] (s.dev.regsBytes
        [R.SEC_STATUS, R.SEC_UPD_BYTES, R.SEC_UPD_RESULT, R.SEC_TRIAL, R.SEC_LAST_UPD] ++
        (match s.dev.sec.holder with
          | some h => h.bytes
          | none => leBytes 8 0)))) ∧
    (s.dev.mbOpen 0x1101 false = true → exec (.pwrInfo tag []) s =
      .next (s.answered 0x1101 tag [] (s.dev.regsBytes (addrs R.PWR_STATUS 9)))) ∧
    (s.dev.mbOpen 0x1102 false = true → a0.toNat < 512 → (s.nv.slotSeq a0.toNat).isSome = true →
      exec (.pwrSagRead tag [a0]) s = .next (s.answered 0x1102 tag [a0] (s.nv.slotBytes a0.toNat))) ∧
    (∀ j q, s.dev.mbOpen 0x1102 false = true → a0.toNat = 0xFFFF → s.nv.newestSag = some (j, q) →
      exec (.pwrSagRead tag [a0]) s = .next (s.answered 0x1102 tag [a0] (s.nv.slotBytes j))) ∧
    (s.dev.mbOpen 0x1201 false = true → exec (.calInfo tag []) s =
      .next (s.answered 0x1201 tag [] (s.dev.regsBytes (listedIn R.CAL_CFG 0x1200070)))) ∧
    (s.dev.mbOpen 0x1204 false = true → s.dev.fld ⟨R.CAL_BIST_STATUS, 0, 2⟩ ≠ 0 → exec (.bistResult tag []) s =
      .next (s.answered 0x1204 tag [] (s.dev.regsBytes (listedIn R.CAL_BIST_STATUS 0x12001DC)))) ∧
    (s.dev.mbOpen 0x1205 false = true → a0.toNat ≤ 1 → 0 < a2.toNat → a2.toNat ≤ 262144 → a1.toNat + a2.toNat ≤ storeSize →
      exec (.calStoreRead tag [a0, a1, a2]) s =
      .next (s.answered 0x1205 tag [a0, a1, a2] (s.nv.read (storeBase a0.toNat + a1.toNat) a2.toNat)))

/-! ### Commands that act

Each is taken, does what its command table says to the device, and answers OK (`carried`), or waits for what it has asked for. -/

/-- The camera commands of Tables 3-13 and 4-8 with their arguments in range: retrain (R51), low power (R65), test pattern (R61): the lanes of
the mask take the enable and, when enabled, the pattern in CAM_PRBS_CTRL, the other lanes keep theirs, and TEST_PATTERN joins the back
channel's queue (R94); and the commands for the camera, which join that queue, go out at once when it is empty, as a packet of Table 4-1,
and go on running until the camera replies (R86, R100). A port argument is BAD_ARG above 15, and UNIT_ABSENT where the variant lacks the
port (R67, R100). -/
def Obligations.CameraCommandsAct : Prop :=
  (∀ (s : State) (tag a0 a1 a2 a3 : Word), a0.toNat < s.dev.variant.ports →
     (s.dev.mbOpen 0x0201 false = true → exec (.camRetrain tag [a0]) s =
       .next (s.carried 0x0201 tag [a0] (fun d => d.camTrain a0.toNat) [])) ∧
     (s.dev.mbOpen 0x0202 false = true → a1.toNat < 3 → s.dev.lpOk a0.toNat = true → exec (.camLp tag [a0, a1]) s =
       .next (s.carried 0x0202 tag [a0, a1] (fun d => (d.put ⟨R.CAM_CTRL a0.toNat, 1, 2⟩ a1.toNat).lpRequest a0.toNat a1.toNat) [])) ∧
     (s.dev.mbOpen 0x0203 false = true → a1.toNat < 32 → a2.toNat < 2 → a3.toNat < 2 → s.dev.portState a0.toNat = 7 →
       ∃ d : Dev, exec (.camPrbs tag [a0, a1, a2, a3]) s = .next { s with dev := (d.bcPush a0.toNat {
           use := .pattern a1.toNat (a3.toNat == 1), code := 0x04
           payload := leBytes 1 a1.toNat ++ leBytes 1 a2.toNat ++ leBytes 1 a3.toNat ++ leBytes 1 0 }).mbReply stOk [] } ∧
         d.mem = s.dev.mem ∧ (d.cport a0.toNat).bc = (s.dev.cport a0.toNat).bc ∧
         ∀ k, k < 5 → (d.lane a0.toNat k).pattern = (s.dev.lane a0.toNat k).pattern ∧
           d.fld ⟨R.CAM_PRBS_CTRL a0.toNat, k, 1⟩ =
             (if a1.getLsbD k then a3.toNat else s.dev.fld ⟨R.CAM_PRBS_CTRL a0.toNat, k, 1⟩) ∧
           d.fld ⟨R.CAM_PRBS_CTRL a0.toNat, 8 + k, 1⟩ =
             (if a1.getLsbD k && a3.toNat == 1 then a2.toNat else s.dev.fld ⟨R.CAM_PRBS_CTRL a0.toNat, 8 + k, 1⟩)) ∧
     (∀ (c : Instr) (code bc : Nat) (args : List Word) (payload : List Byte),
       (c = .camRegRead tag [a0, a1, a2] ∧ 0 < a2.toNat ∧ a2.toNat ≤ 64 ∧
         (code, bc, args, payload) = (0x0205, 0x01, [a0, a1, a2], wordsBytes [a1, a2])) ∨
       (∃ ws, c = .camRegWrite tag (a0 :: a1 :: ws) ∧ 1 ≤ ws.length ∧ ws.length ≤ 64 ∧
         (∀ i, i < ws.length → deviceOwned ((a1.toNat + 4 * i) % 2 ^ 32) = false) ∧
         (code, bc, args, payload) = (0x0206, 0x02, a0 :: a1 :: ws, wordsBytes (a1 :: ws))) ∨
       (∃ ws, c = .camVendorCmd tag (a0 :: a1 :: ws) ∧ 0 < a1.toNat ∧ a1.toNat ≤ 256 ∧ ws.length = (a1.toNat + 3) / 4 ∧
         (code, bc, args, payload) = (0x0209, 0x3F, a0 :: a1 :: ws, (wordsBytes ws).take a1.toNat)) ∨
       (c = .camReset tag [a0] ∧ (code, bc, args, payload) = (0x020A, 0x06, [a0], leBytes 4 0)) →
       s.dev.mbOpen code false = true → s.dev.portState a0.toNat = 7 →
       let e := s.dev.mbTaken code tag args
       let q : BcCmd := { use := .host code (s.dev.hif.taken + 1), code := bc, payload := payload }
       let k := bcPacket bc (((s.dev.cport a0.toNat).bcTag + 1) % 65536) payload
       ∃ d, exec c s = .next { s with dev := d } ∧ d = e.bcPush a0.toNat q ∧ d.mbWaits code = true ∧ d.mbBusy = true ∧
         d.mem = s.dev.mem ∧ d.regs = e.regs ∧
         ((s.dev.cport a0.toNat).bc = [] → s.dev.pins.boundary = 0 → d.glb.out = .backChannel a0.toNat k :: s.dev.glb.out ∧
           (d.cport a0.toNat).bc = [{ q with
             sent := true, tag := ((s.dev.cport a0.toNat).bcTag + 1) % 65536, at_ := s.dev.now2 + 8 * (k.length + 2) }]) ∧
         (∀ x xs, (s.dev.cport a0.toNat).bc = x :: xs → x.sent = true → d.glb = s.dev.glb ∧
           (d.cport a0.toNat).bc = x :: xs ++ [q]))) ∧
  ∀ (c : Instr) (s : State) (code : Nat) (tag a0 : Word) (args : List Word), s.dev.mbOpen code false = true →
    (∃ rest, args = a0 :: rest) → mbLenOk code args = true → doorbellOf c = some (code, tag, args) →
    0x0201 ≤ code → code ≤ 0x020A → s.dev.variant.ports ≤ a0.toNat →
    exec c s = .next { s with dev := (s.dev.mbTaken code tag args).mbReply (if 16 ≤ a0.toNat then stBadArg else stUnitAbsent) [] }

/-- The strand, history and segmentation commands: a table goes into the inactive bank (R123), commits request the enabled contexts of
their mask (R118, R123), a directory entry is returned while history holds it (R181), a commit to Lode is pending (R200), and
LODE_CLOSE_ALL closes the open tracks and returns their number (R193). Those that read DRAM answer while the device is not frozen
(R379). -/
def Obligations.StrandAndMosaicCommandsAct : Prop :=
  ∀ (s : State) (tag a0 a1 a2 a3 a4 : Word) (dma : HostDma) (b : List Byte) (d : Dev),
    (let e := s.dev.mbTaken 0x0301 tag [a0, a1, a2, a3, a4]
     s.dev.mbOpen 0x0301 false = true → a0.toNat < s.dev.variant.contexts →
      (e.bit (ctxCommit a0.toNat) && e.bit (tableSwap a0.toNat)) = false →
      e.hostBuf (word64 a2 a3) a4.toNat dma = (stOk, b, d) → d.tableFits a0.toNat a1.toNat b = true →
      let f := d.setTable 0x01 a0.toNat (1 - d.tblBank a0.toNat) a1.toNat b
      s.dev.memFrozen = false → f.memFrozen = false →
      exec (.strTableLoad tag [a0, a1, a2, a3, a4] dma) s = .next { s with dev := f.mbReply stOk [] }) ∧
    (s.dev.mbOpen 0x0302 false = true → a0.toNat < 2 ^ s.dev.variant.contexts → exec (.strCommit tag [a0, a1]) s =
      .next (s.carried 0x0302 tag [a0, a1] (fun d =>
        ((List.range s.dev.variant.contexts).filter (fun c => getBits a0 c 1 == 1)).foldl
          (fun d c => if d.ctxEn c then (d.put (tableSwap c) (getBits a1 c 1)).ctxRequest c none
            else d.put (tableSwap c) (getBits a1 c 1)) d) [])) ∧
    (let e := s.dev.mbTaken 0x0308 tag [a0, a1, a2]
     s.dev.mbOpen 0x0308 false = true → s.dev.mosEn a0.toNat = true → (s.dev.seamMos a0.toNat).hist ≠ [] →
      e.dirRead 0x0B a0.toNat (toSigned 64 (word64 a1 a2)) = (some b, d) → b.length ≤ 262144 →
      s.dev.memFrozen = false → d.memFrozen = false →
      exec (.histDirRead tag [a0, a1, a2]) s = .next { s with dev := d.mbReply stOk b }) ∧
    (∀ e0 e1 eb d1 d2 k, let e := s.dev.mbTaken 0x0307 tag [a0, a1, a2]
     let m := a0.toNat
     let pos := toSigned 64 (word64 a1 a2)
     s.dev.mbOpen 0x0307 false = true → s.dev.mosEn m = true → (s.dev.seamMos m).hist ≠ [] →
      e.dirRead 0x0B m (e.oldestK m) = (some e0, d1) → d1.dirRead 0x0B m (e.lastK m) = (some e1, d2) →
      toSigned 64 (fieldAt e0 8 8) ≤ pos → pos ≤ toSigned 64 (fieldAt e1 16 8) →
      (d2.histFind m pos 64 (e.oldestK m) (e.lastK m)).1 = some k →
      (d2.histFind m pos 64 (e.oldestK m) (e.lastK m)).2.dirRead 0x0B m k = (some eb, d) → eb.length ≤ 262000 →
      s.dev.memFrozen = false → d.memFrozen = false →
      exec (.histLocate tag [a0, a1, a2]) s = .next { s with dev := (d.mbReply stOk
        (leBytes 8 (ofSigned 64 k) ++ leBytes 4 (histRow eb pos) ++ leBytes 4 (e.histSlot m k) ++ eb ++ leBytes 8 (e.tileAddr m k 0))) }) ∧
    (s.dev.mbOpen 0x030A false = true → a0.toNat < 16 →
      (∀ m, m < 4 → a0.getLsbD m = true → s.dev.mosEn m = true ∧ lodeSetOk (s.dev.lodeShadow m) = true) →
      exec (.lodeCommit tag [a0]) s = .next (s.carried 0x030A tag [a0] (fun d =>
        ((List.range 4).filter (fun m => a0.toNat / 2 ^ m % 2 == 1)).foldl (fun d m => d.lodeCommit m none) d) [])) ∧
    (s.dev.mbOpen 0x030B false = true → s.dev.mosEn a0.toNat = true → s.dev.memFrozen = false →
      ((s.dev.mbTaken 0x030B tag [a0]).hostClose a0.toNat).2.memFrozen = false → exec (.lodeCloseAll tag [a0]) s =
      .next (s.carried 0x030B tag [a0] (fun d => (d.hostClose a0.toNat).2)
        (leBytes 4 ((s.dev.mbTaken 0x030B tag [a0]).openTracks a0.toNat).length)))

/-- The Assay commands: ASY_NET_LOAD fills or empties a slot that no mosaic uses (R205, R221), ASY_COMMIT requests the mosaics of its mask
whose shadow copies R219 accepts, and ASY_PATCH_READ returns a patch that is still in the pool (R204, R221). Those that read DRAM answer
while the device is not frozen (R379). -/
def Obligations.AssayCommandsAct : Prop :=
  ∀ (s : State) (tag a0 a1 a2 a3 : Word) (dma : HostDma) (b : List Byte) (d : Dev) (sram : Nat), s.dev.variant.assay = true →
    (let e := s.dev.mbTaken 0x0501 tag [a0, a1, a2, a3]
     s.dev.mbOpen 0x0501 true = true → a0.toNat < 4 → e.slotHeld a0.toNat = false →
      (a3.toNat = 0 → exec (.asyNetLoad tag [a0, a1, a2, a3] dma) s =
        .next { s with dev := (e.setNet a0.toNat none).mbReply stOk [] }) ∧
      (a3.toNat ≠ 0 → e.hostBuf (word64 a1 a2) a3.toNat dma = (stOk, b, d) → blobBad b = none →
        d.sramFit (netParams b) = some sram →
        let f := d.netLoaded 0x0B a0.toNat { blob := b, sram := sram }
        s.dev.memFrozen = false → f.memFrozen = false → exec (.asyNetLoad tag [a0, a1, a2, a3] dma) s =
          .next { s with dev := f.mbReply stOk [] })) ∧
    (let e := s.dev.mbTaken 0x0503 tag [a0]
     s.dev.mbOpen 0x0503 false = true → a0.toNat < 16 → (∀ m, m < 4 → a0.getLsbD m = true → e.asyShadowOk m = true) →
      exec (.asyCommit tag [a0]) s = .next (s.carried 0x0503 tag [a0] (fun d =>
        ((List.range 4).filter (fun m => a0.toNat / 2 ^ m % 2 == 1)).foldl (fun d m => d.asyRequest m) d) [])) ∧
    (∀ d1 head, let e := s.dev.mbTaken 0x0504 tag [a0]
     let i := a0.toNat % 2 ^ 24
     let a := e.reg64 R.ASY_PB_BASE_LO + i * (e.reg R.ASY_PB_STRIDE).toNat
     let n := 32 * 2 ^ byteAt head 10
     s.dev.mbOpen 0x0504 false = true → i < e.fld ⟨R.ASY_PB_SLOTS, 0, 24⟩ →
      tget noneAt e.asy.pbGen i = some (a0.toNat / 2 ^ 24) → e.memRead 0x0B a 64 = (head, false, d1) →
      d1.memRead 0x0B a (64 + 2 * byteAt head 9 * n * n) = (b, false, d) → b.length ≤ 262144 →
      s.dev.memFrozen = false → d.memFrozen = false → exec (.asyPatchRead tag [a0]) s = .next { s with dev := d.mbReply stOk b })

/-- The delivery, position and event commands: SHF_QUEUE_READ (R243), DR_CONFIG on a claimed ring (R243, R424), TDL_POS_LOAD and
TDL_CMP_SET (R277), TDL_HIST_READ of entries that are kept and lie in good blocks, counts modulo 2^32 (R273), RNL_CH_SET past the checks
of R284, RNL_GRP_SET on groups that are not secure (R285), and RNL_SWEV (R288). Those that read DRAM answer while the device is not
frozen (R379). -/
def Obligations.DeliveryAndEventCommandsAct : Prop :=
  ∀ (s : State) (tag a0 a1 a2 a3 a4 a5 : Word) (ids : List Word),
    (s.dev.mbOpen 0x0602 false = true → a0.toNat < 1048576 → a1.toNat ≤ 16 →
      let e := s.dev.mbTaken 0x0602 tag [a0, a1]
      let d := (e.queueOk a0.toNat (e.queueElems a0.toNat a1.toNat)).2
      let r := (d.queueElems a0.toNat a1.toNat).foldl (fun (x : List Byte × Dev) i =>
        (x.1 ++ (x.2.elemRead i).1, (x.2.elemRead i).2.2)) ([], d)
      (r.2.queueDesc a0.toNat ++ r.1).length ≤ 262144 → s.dev.memFrozen = false → r.2.memFrozen = false →
      exec (.shfQueueRead tag [a0, a1]) s = .next { s with dev := r.2.mbReply stOk (r.2.queueDesc a0.toNat ++ r.1) }) ∧
    (s.dev.mbOpen 0x0603 false = true → a0.toNat < 4096 → a1.toNat < 3 → a2.toNat < 16 → a3.toNat < 2 ^ 24 →
      (s.dev.mbTaken 0x0603 tag [a0, a1, a2, a3]).ringClaimed a0.toNat = true →
      exec (.drConfig tag [a0, a1, a2, a3]) s = .next (s.carried 0x0603 tag [a0, a1, a2, a3] (fun d =>
        ((((d.put ⟨R.DR_n_CFG a0.toNat, 0, 2⟩ a1.toNat).put ⟨R.DR_n_CFG a0.toNat, 2, 4⟩ a2.toNat).put
          ⟨R.DR_n_LIMIT a0.toNat, 0, 24⟩ a3.toNat).ringShow a0.toNat)) [])) ∧
    (s.dev.mbOpen 0x0702 false = true → a0.toNat < 8 → exec (.tdlPosLoad tag [a0, a1, a2]) s =
      .next (s.carried 0x0702 tag [a0, a1, a2] (fun d =>
        ((d.setReg (R.TDL_POSn_PRESET_LO a0.toNat) a1).setReg (R.TDL_POSn_PRESET_HI a0.toNat) a2).posLoad a0.toNat none) [])) ∧
    (s.dev.mbOpen 0x0703 false = true → a0.toNat < 32 → a1.toNat < 2048 →
      (s.dev.mbTaken 0x0703 tag [a0, a1, a2, a3, a4, a5]).cmpDenied a0.toNat (getBits a1 0 2) = false →
      (getBits a1 0 2 = 3 → inWindow (toSigned 64 (word64 a2 a3) - (s.dev.now2 : Int)) = true) →
      exec (.tdlCmpSet tag [a0, a1, a2, a3, a4, a5]) s = .next (s.carried 0x0703 tag [a0, a1, a2, a3, a4, a5] (fun d =>
        let c := a0.toNat
        let d := (((d.disarmChannel c).setReg (R.TDL_CMPn_CFG c) (a1 &&& 0x5FF)).setReg (R.TDL_CMPn_PITCH c)
          (a4 &&& 0xFFFFFF)).setReg (R.TDL_CMPn_PITCH_REM c) a5
        let d := if getBits a1 0 2 = 3 then (d.setReg (R.TDL_CMPn_START_LO c) a2).setReg (R.TDL_CMPn_START_HI c) (a3 &&& 0xFF)
          else (((d.setReg (R.TDL_CMPn_TGT_LO c) a2).setReg (R.TDL_CMPn_TGT_HI c) a3).targetInForce c).behindNow c
        let d := if getBits a1 9 1 = 1 then (d.put (cmpArm c) 1).armedNow c else d
        (d.regrid c).schedule c) [])) ∧
    (let e := s.dev.mbTaken 0x0704 tag [a0, a1, a2]
     s.dev.mbOpen 0x0704 false = true → a0.toNat < 16 → 0 < a2.toNat → a2.toNat ≤ 256 →
      let cs := (List.range a2.toNat).map (fun i => (a1.toNat + i) % 2 ^ 32)
      (∀ c ∈ cs, e.histKept a0.toNat c = true ∧ e.readable (e.histAddr a0.toNat c) 32 = true) → s.dev.memFrozen = false →
      exec (.tdlHistRead tag [a0, a1, a2]) s = .next { s with
        dev := (cs.foldl (fun d c => d.access (e.histAddr a0.toNat c) 32) e).mbReply stOk
          (cs.flatMap (fun c => e.orderedRead (e.histAddr a0.toNat c) 32)) }) ∧
    (let e := s.dev.mbTaken 0x0801 tag (a0 :: a1 :: ids)
     let v := ids.map (fun w => w.toNat)
     s.dev.mbOpen 0x0801 false = true → a0.toNat < 128 → a1.toNat < 64 → ids.length = 12 → (∀ w ∈ ids, w.toNat < 0x10000) →
      e.chOwner a0.toNat = 0 → e.chRefusal (v.take 4) (v.drop 4) = none →
      exec (.rnlChSet tag (a0 :: a1 :: ids)) s = .next (s.carried 0x0801 tag (a0 :: a1 :: ids) (fun d =>
        ((List.range 6).foldl (fun d i => d.setReg ((chWordAddrs a0.toNat).getD i 0)
          (BitVec.ofNat 32 (v.getD (2 * i) 0 + v.getD (2 * i + 1) 0 * 0x10000))) d).chApply a0.toNat a1.toNat) [])) ∧
    (let e := s.dev.mbTaken 0x0803 tag [a0, a1]
     s.dev.mbOpen 0x0803 false = true → (∀ g, g < 16 → a0.getLsbD g = true → e.grpSecure g = false) →
      ∃ d, exec (.rnlGrpSet tag [a0, a1]) s = .next { s with dev := d } ∧
        (∀ g, g < 16 → d.fld ⟨R.RNL_GRP_EN, g, 1⟩ =
          if a0.getLsbD g then (if a1.getLsbD g then 1 else 0) else s.dev.fld ⟨R.RNL_GRP_EN, g, 1⟩) ∧
        (∀ a, a ≠ R.RNL_GRP_EN → d.reg a = e.reg a) ∧ d.mem = s.dev.mem) ∧
    (s.dev.mbOpen 0x0804 false = true → exec (.rnlSwev tag [a0]) s =
      .next (s.carried 0x0804 tag [a0] (fun d => d.swev (a0.toNat % 65536)) []))

/-- The time commands of R319: TIM_TB3_ADJ sets, steps or slews TB3 or writes its FREQ (R299), TIM_TC_SET arms a slot whose target lies in
the window of R302, and TIM_TB0_SEC_SET stores the second of the next pulse (R315). -/
def Obligations.TimeCommandsAct : Prop :=
  ∀ (s : State) (tag a1 a2 a3 : Word) (a : List Word),
    (s.dev.mbOpen 0x0902 false = true →
      (let bs := wordsBytes [a1, a2, a3]
       fieldAt bs 6 4 < 1000000000 → fieldAt bs 0 6 < 2 ^ 47 → ∃ d, exec (.timTb3Adj tag [0, a1, a2, a3]) s = .next { s with dev := d } ∧
        d.tim.tb3 = { sec := fieldAt bs 0 6, ns := fieldAt bs 6 4, frac := fieldAt bs 10 2 * 65536 } ∧ d.tim.slew = 0 ∧
        d.tim.tb0 = s.dev.tim.tb0 ∧ d.tim.tb1 = s.dev.tim.tb1 ∧ d.tim.tb2 = s.dev.tim.tb2) ∧
      (let v := s.dev.tim.tb3.total + toSigned 64 (word64 a1 a2) * 2 ^ 32
       baseOk v = true → ∃ d, exec (.timTb3Adj tag [1, a1, a2, a3]) s = .next { s with dev := d } ∧
        d.tim.tb3 = TimeBase.ofTotal v ∧ d.tim.slew = 0 ∧ d.tim.tb2 = s.dev.tim.tb2) ∧
      (let v := toSigned 64 (word64 a1 a2)
       v < 2 ^ 31 → -(2 ^ 31) ≤ v → exec (.timTb3Adj tag [2, a1, a2, a3]) s =
        .next (s.carried 0x0902 tag [2, a1, a2, a3] (fun d => d.setSlew (v * 2 ^ 32)) [])) ∧
      exec (.timTb3Adj tag [3, a1, a2, a3]) s =
        .next (s.carried 0x0902 tag [3, a1, a2, a3] (fun d => d.setReg R.TIM_TB3_FREQ a1) [])) ∧
    (let v (i : Nat) : Nat := (a.getD i 0).toNat
     let tgt : Nat := (v 4 + v 5 * 2 ^ 32) * 1000000000 + v 6
     s.dev.mbOpen 0x0903 false = true → a.length = 9 → v 0 < 16 → v 1 < 4 → v 2 < 2 → v 3 < 2 → v 5 < 65536 → v 6 < 1000000000 →
      v 8 < 128 → inWindow ((tgt : Int) - ((s.dev.base (v 1)).linear : Int)) = true →
      ∃ d, exec (.timTcSet tag a) s = .next { s with dev := d } ∧ d.bit (tcArmed (v 0)) = true ∧
        d.fld ⟨R.TIM_TCn_CFG (v 0), 1, 2⟩ = v 1 ∧ d.fld ⟨R.TIM_TCn_CFG (v 0), 3, 1⟩ = v 2 ∧ d.fld ⟨R.TIM_TCn_CFG (v 0), 4, 1⟩ = v 3 ∧
        d.reg (R.TIM_TCn_TGT_SEC_LO (v 0)) = a.getD 4 0 ∧ d.reg (R.TIM_TCn_TGT_SEC_HI (v 0)) = a.getD 5 0 ∧
        d.reg (R.TIM_TCn_TGT_NS (v 0)) = a.getD 6 0 ∧ d.reg (R.TIM_TCn_PERIOD_LO (v 0)) = a.getD 7 0 ∧
        d.reg (R.TIM_TCn_PERIOD_HI (v 0)) = a.getD 8 0 ∧
        d.bit (tcPast (v 0)) = decide (tgt ≤ (s.dev.base (v 1)).linear) ∧ d.mem = s.dev.mem) ∧
    (s.dev.mbOpen 0x0905 true = true → word64 a1 a2 < 2 ^ 47 → s.dev.tb0Src = 2 → exec (.timTb0SecSet tag [a1, a2]) s =
      .next (s.carried 0x0905 tag [a1, a2] (fun d => { d with tim := { d.tim with secSet := some (word64 a1 a2) } }) []))

/-- The memory, compression and check-value commands: MEM_LOG_CLEAR empties the log (R384), SLU_RUN hands its descriptor to the lanes and
runs until one has done it (R398), CV_SET configures a unit (R407), CV_SAVE captures its value and its byte count together and
CV_RESTORE puts them back (R404). -/
def Obligations.MemoryAndCheckCommandsAct : Prop :=
  ∀ (s : State) (tag a0 a1 a2 a3 a4 a5 : Word) (words : List Word),
    (s.dev.mbOpen 0x0C05 true = true → ∃ d, exec (.memLogClear tag []) s = .next { s with dev := d } ∧ d.mem.log = [] ∧
      d.fld ⟨R.MEM_LOG_STATUS, 16, 16⟩ = 0 ∧ d.mem.cells = s.dev.mem.cells) ∧
    (s.dev.mbOpen 0x0D02 false = true → s.dev.sluEn = true → words.length = 10 → ∃ d,
      exec (.sluRun tag words) s = .next { s with dev := d } ∧
      d.slu.runs = s.dev.slu.runs ++ [(s.dev.hif.taken + 1, wordsBytes words)] ∧ d.mbWaits 0x0D02 = true ∧
      d.mbBusy = true ∧ d.mem = s.dev.mem ∧ d.slu.lanes = s.dev.slu.lanes) ∧
    (s.dev.mbOpen 0x0E02 false = true → a0.toNat < 8 → cvRefused a1 = false →
      (s.dev.mbTaken 0x0E02 tag [a0, a1, a2, a3, a4, a5]).cvImage a0.toNat = false → s.dev.cvAbsent a1 = false →
      exec (.cvSet tag [a0, a1, a2, a3, a4, a5]) s = .next (s.carried 0x0E02 tag [a0, a1, a2, a3, a4, a5] (fun d =>
        let u := a0.toNat
        let d := (d.cvConfig u (d.reg (R.CV_CFG u) &&& 0xFFFFFFFE)).setReg (R.CV_INIT u) a2
        let d := (d.setReg64 (R.CV_WIN_BASE_LO u) (word64 a3 a4 / 64 * 64 % 2 ^ 37)).put ⟨R.CV_WIN_SIZE u, 0, 24⟩ a5.toNat
        (d.cvConfig u (a1 &&& 0xFFFFFFFE)).cvConfig u a1) [])) ∧
    (s.dev.mbOpen 0x0E03 false = true → a0.toNat < 8 → exec (.cvSave tag [a0]) s =
      .next (s.carried 0x0E03 tag [a0] (fun d => d.cvCapture a0.toNat)
        (wordBytes (s.dev.reg (R.CV_VALUE a0.toNat)) ++ leBytes 8 (s.dev.reg64 (R.CV_BYTES_LO a0.toNat))))) ∧
    (s.dev.mbOpen 0x0E04 false = true → a0.toNat < 8 → (s.dev.mbTaken 0x0E04 tag [a0, a1, a2, a3]).cvImage a0.toNat = false →
      ∃ d, exec (.cvRestore tag [a0, a1, a2, a3]) s = .next { s with dev := d } ∧
        (cvPoly (s.dev.reg (R.CV_CFG a0.toNat)) ≠ 2 → d.reg (R.CV_VALUE a0.toNat) = a1) ∧
        d.reg64 (R.CV_BYTES_LO a0.toNat) = word64 a2 a3 ∧ d.bit ⟨R.CV_ALIVE a0.toNat, 9, 1⟩ = false ∧ d.mem = s.dev.mem)

/-- The claim commands (R424, R427): CFG_CLAIM adds a claim that meets no other, CFG_RELEASE takes the named numbers out of the host's
claims, and nothing but the list of claims changes. -/
def Obligations.ClaimCommandsAct : Prop :=
  ∀ (s : State) (tag a0 a1 a2 a3 : Word),
    (s.dev.mbOpen 0x0F02 false = true → claimRange a0.toNat a1.toNat a2.toNat a3.toNat = true →
      (a0.toNat = 5 → a3.toNat = 3 → s.dev.variant.assay = true) → s.dev.cfg.claims.any (claimsMeet a0.toNat a1.toNat a2.toNat) = false →
      exec (.cfgClaim tag [a0, a1, a2, a3]) s = .next (s.carried 0x0F02 tag [a0, a1, a2, a3] (fun d =>
        { d with cfg := { d.cfg with claims := s.dev.cfg.claims ++
          [{ cls := a0.toNat, first := a1.toNat, count := a2.toNat, use := a3.toNat, host := true }] } }) [])) ∧
    (let hit (c : Claim) : Bool := c.host && claimsMeet a0.toNat a1.toNat a2.toNat c
     s.dev.mbOpen 0x0F03 false = true → s.dev.cfg.claims.any hit = true →
      exec (.cfgRelease tag [a0, a1, a2]) s = .next (s.carried 0x0F03 tag [a0, a1, a2] (fun d =>
        { d with cfg := { d.cfg with claims :=
          (s.dev.cfg.claims.flatMap (fun c => if hit c then c.without a1.toNat a2.toNat else [c])) } }) []))

/-- Owner sessions and attestation: SEC_SESSION_OPEN hands out a nonce (a free value), SEC_SESSION_AUTH opens the session when the
signature over it is the owner's, or is empty on an unowned device, and otherwise is DENIED and counts as a failure; the nonce serves
once; SEC_SESSION_CLOSE ends the session (R435); SEC_QUOTE answers the quote with its signature (R433), a free value.
How a signature is computed is presumed (assumption 24). -/
def Obligations.SessionCommandsAct : Prop :=
  ∀ (s : State) (tag : Word) (a : List Word) (nonce : List Byte),
    (s.dev.mbOpen 0x1002 false = true →
      let r := (s.dev.mbTaken 0x1002 tag []).freshBytes 32
      exec (.secSessionOpen tag []) s =
        .next { s with dev := ({ r.2 with sec := { r.2.sec with nonce := some r.1 } }).mbReply stOk r.1 } ∧ r.1.length = 32) ∧
    (s.dev.mbOpen 0x1003 false = true → a.length = 24 ∨ a.length = 0 → s.dev.sec.nonce = some nonce →
      (s.nv.ownerAuth nonce (argBytes a 0 96) = true → ∃ d, exec (.secSessionAuth tag a) s = .next { s with dev := d } ∧
        d.ownSession = true ∧ d.bit ⟨R.SEC_STATUS, 4, 1⟩ = true ∧ d.sec.session = some nonce ∧ d.sec.nonce = none ∧ d.mem = s.dev.mem) ∧
      (s.nv.ownerAuth nonce (argBytes a 0 96) = false → ∃ d, exec (.secSessionAuth tag a) s = .next { s with dev := d } ∧
        d.ownSession = s.dev.ownSession ∧ d.sec.session = s.dev.sec.session ∧ d.sec.nonce = none ∧ d.mem = s.dev.mem)) ∧
    (s.dev.mbOpen 0x1004 false = true → s.dev.ownSession = true → ∃ d, exec (.secSessionClose tag []) s = .next { s with dev := d } ∧
      d.ownSession = false ∧ d.bit ⟨R.SEC_STATUS, 4, 1⟩ = false ∧ d.sec.session = none ∧ d.mem = s.dev.mem) ∧
    (s.dev.mbOpen 0x1005 false = true → a.length = 8 →
      let e := s.dev.mbTaken 0x1005 tag a
      (e.quoteBytes s.nv (argBytes a 0 32)).length ≤ 262048 →
      exec (.secQuote tag a) s = .next { s with dev := ((e.freshBytes 96).2.mbReply stOk
        (e.quoteBytes s.nv (argBytes a 0 32) ++ (e.freshBytes 96).1)) })

/-- The owner's fuses: provisioning an unowned device burns the hash of the key into the lowest slot never burned, and a device whose owner
records were lost takes the same key again without a fuse (R436); retiring burns the retire bit of the active slot and ends the session
(R437); SEC_LOCK rewrites the owner record (R438); SEC_DEBUG_LOCK burns the slot's debug lock (R439). No other fuse changes.
How a signature is computed is presumed (assumption 24). -/
def Obligations.OwnerCommandsBurnTheirFuses : Prop :=
  ∀ (s : State) (tag : Word) (a : List Word) (nonce : List Byte) (i : Nat) (rcd : OwnerRec),
    (s.dev.mbOpen 0x1007 false = true → a.length = 49 → s.nv.fuses.owner = none → s.dev.ownSession = true →
      s.dev.sec.session = some nonce →
      ecVerify (argBytes a 0 97) ([0x43, 0x47, 0x4F, 0x50] ++ s.nv.idBytes ++ nonce) (argBytes a 97 96) = true →
      s.nv.fuses.freeSlot = some i → ∃ d, exec (.secOwnerProvision tag a) s = .next { s with
        dev := d, nv := { (s.nv.ownerBoth i (argBytes a 0 97)) with
          fuses := { s.nv.fuses with owners := tset noneAt s.nv.fuses.owners i (some (sha384 (argBytes a 0 97))) } } } ∧
        d.mem = s.dev.mem) ∧
    (s.dev.mbOpen 0x1007 false = true → a.length = 49 ∨ a.length = 25 → s.nv.fuses.owner = some i →
      s.nv.fuses.ownerHash = some (sha384 (argBytes a 0 97)) → ∃ d, exec (.secOwnerProvision tag a) s =
        .next { s with dev := d, nv := s.nv.ownerBoth i (argBytes a 0 97) } ∧ d.mem = s.dev.mem) ∧
    (s.dev.mbOpen 0x1008 true = true → s.nv.fuses.owner = some i → ∃ d n, exec (.secOwnerRetire tag []) s =
        .next { s with dev := d, nv := n } ∧ d.ownSession = false ∧
        n.fuses = { s.nv.fuses with retired := s.nv.fuses.retired ||| BitVec.ofNat 4 (2 ^ i) } ∧
        n.flash = ((s.nv.erase (ownerAt 0) 4096).erase (ownerAt 1) 4096).flash) ∧
    (s.dev.mbOpen 0x1009 true = true → (a = [0] ∨ a = [1]) → s.nv.fuses.owner = some i → s.nv.ownerRec = some rcd →
      ∃ d, exec (.secLock tag a) s = .next { s with dev := d, nv := s.nv.ownerWrite i (a == [1]) rcd.key } ∧ d.mem = s.dev.mem) ∧
    (s.dev.mbOpen 0x100A true = true → s.nv.fuses.owner = some i → ∃ d, exec (.secDebugLock tag []) s = .next { s with
        dev := d, nv := { s.nv with fuses := { s.nv.fuses with debugLock := s.nv.fuses.debugLock ||| BitVec.ofNat 4 (2 ^ i) } } } ∧
        d.mem = s.dev.mem)

/-- The update commands of a host's session: UPD_OPEN where the policy allows it and no session is open takes the session, enters DOWNLOAD
and erases the first sector of the inactive slot (R441 to R445); UPD_WRITE takes the bytes of its buffer, one in DRAM while the device is
not frozen (R347, R379, R445); UPD_VERIFY starts the
verification and runs until it is done (R446); UPD_ACTIVATE past the checks of R447 ends the session and starts the pause (R448);
UPD_CLOSE ends the session (R443).
That no session opens during an activation and bytes are taken in DOWNLOAD only are inferences (assumptions 40 and 43). -/
def Obligations.UpdateCommandsAct : Prop :=
  ∀ (s : State) (tag a0 a1 a2 a3 : Word) (dma : HostDma) (b : List Byte) (d : Dev),
    (s.dev.mbOpen 0x100B true = true → s.dev.bit ⟨R.SEC_POLICY, 0, 1⟩ = true → s.dev.stage ≠ 4 → s.dev.stage ≠ 5 →
      s.dev.sec.holder = none → ∃ e, exec (.updOpen tag []) s =
        .next { s with dev := e, nv := s.nv.erase (slotBase s.nv.spareSlot) 65536 } ∧
        e.sec.holder = some { net := false } ∧ e.stage = 1 ∧ e.reg R.SEC_UPD_BYTES = 0 ∧ e.sec.received = [] ∧ e.mem = s.dev.mem) ∧
    (let e := (s.dev.mbTaken 0x100C tag [a0, a1, a2, a3]).holderSeen
     s.dev.mbOpen 0x100C false = true → s.dev.hostHolds = true → s.dev.stage = 1 → 0 < a3.toNat → a3.toNat ≤ 1048576 →
      a0.toNat + a3.toNat ≤ slotSize → e.hostBuf (word64 a1 a2) a3.toNat dma = (stOk, b, d) →
      (a2.toNat < 2 ^ 31 ∨ (s.dev.memFrozen = false ∧ (d.updWrite s.nv a0.toNat b).1.memFrozen = false)) →
      exec (.updWrite tag [a0, a1, a2, a3] dma) s =
        .next { s with dev := (d.updWrite s.nv a0.toNat b).1.mbReply stOk [], nv := (d.updWrite s.nv a0.toNat b).2 }) ∧
    (s.dev.mbOpen 0x100D false = true → s.dev.hostHolds = true → s.dev.stage = 1 → ∃ e, exec (.updVerify tag []) s =
        .next { s with dev := e } ∧ e.stage = 2 ∧ e.mbWaits 0x100D = true ∧ e.mbBusy = true ∧ e.mem = s.dev.mem) ∧
    (let e := (s.dev.mbTaken 0x100E tag [a0]).holderSeen
     s.dev.mbOpen 0x100E false = true → s.dev.hostHolds = true → a0.toNat < 2 → e.stage = 3 → e.paused = false →
      (a0.toNat = 0 → e.sameDefs s.nv = true) → e.refusal = none →
      exec (.updActivate tag [a0]) s =
        .next { s with dev := ((e.updEnd.setStage 4).pauseStart (a0.toNat == 1)).mbReply stOk [] }) ∧
    (s.dev.mbOpen 0x100F false = true → s.dev.hostHolds = true → ∃ e, exec (.updClose tag []) s = .next { s with dev := e } ∧
        e.sec.holder = none ∧ e.fld sessionSrc = 0 ∧ (s.dev.stage ≤ 3 → e.stage = 0) ∧ e.mem = s.dev.mem)

/-- The power and calibration commands: PWR_JNL_CLEAR sets both halves of the journal to be erased (R477), CAL_RUN requests the items of its
mask that exist (R478, R495), and BIST_RUN past the checks of R447 starts the pause of R487.
Corners of CAL_RUN and BIST_RUN are inferences (assumptions 28 and 30). -/
def Obligations.PowerAndCalibrationCommandsAct : Prop :=
  ∀ (s : State) (tag a0 : Word),
    (s.dev.mbOpen 0x1103 true = true → ∃ d, exec (.pwrJnlClear tag []) s = .next { s with dev := d } ∧
      d.cove.erasing = s.dev.cove.erasing ++ [0, 1] ∧ d.bit ⟨R.PWR_STATUS, 3, 1⟩ = false ∧ d.fld ⟨R.PWR_JNL, 0, 9⟩ = 0 ∧
      d.mem = s.dev.mem) ∧
    (s.dev.mbOpen 0x1202 false = true → a0.toNat < 2 ^ 19 →
      (a0 = 0 ∨ ∃ i, i < 19 ∧ a0.getLsbD i = true ∧ s.dev.calItem i = true) → ∃ d, exec (.calRun tag [a0]) s = .next { s with dev := d } ∧
      (∀ i, i < 19 → d.bit ⟨R.CAL_PENDING, i, 1⟩ =
        (s.dev.bit ⟨R.CAL_PENDING, i, 1⟩ || (a0.getLsbD i && s.dev.calItem i))) ∧ d.mem = s.dev.mem) ∧
    (let e := s.dev.mbTaken 0x1203 tag [a0]
     s.dev.mbOpen 0x1203 true = true → a0.toNat < 2 ^ 14 → e.stage ≠ 4 → e.stage ≠ 5 → e.paused = false → e.refusal = none →
      ∃ d, exec (.bistRun tag [a0]) s = .next { s with dev := d } ∧ d.cove.bist = some (a0.toNat, 0) ∧ d.discards = true)

/-! ### Writes that do something, and Runnel -/

/-- Writes to camera, strand and segmentation controls: TRAIN takes a port that is not DISABLED to DETECT (R51); LP_REQ and EYE_MIN change
CAM_CTRL alone (R65); PRBS_EN and the pattern go into CAM_PRBS_CTRL (R61); COMMIT, with TABLE_SWAP, and STR_GROUP_COMMIT make commits
pending for enabled contexts (R118); FREEZE_ALL and ACQUIRE go into BL_CTRL (R136, R138); LODE_COMMIT makes a commit pending (R198);
ASY_CTRL takes ASY_EN (R219). -/
def Obligations.CameraAndMosaicWritesAct : Prop :=
  ∀ (s : State) (p c m : Nat) (v : Word) (stream : List (Nat × List Bool)), s.on →
    (p < s.dev.variant.ports → getBits v 0 1 = 1 → s.dev.portState p ≠ 0 → ∃ d, exec (.train p v) s = .next { s with dev := d } ∧
      d.portState p = 1 ∧ (d.cport p).lanes = []) ∧
    (p < s.dev.variant.ports → getBits v 0 1 = 0 → getBits v 1 2 < 3 → s.dev.lpOk p = true → ∃ d,
      exec (.lpReq p v) s = .next { s with dev := d } ∧ d.fld ⟨R.CAM_CTRL p, 1, 2⟩ = getBits v 1 2 ∧
      d.fld ⟨R.CAM_CTRL p, 8, 8⟩ = getBits v 8 8 ∧ (∀ a, a ≠ R.CAM_CTRL p → d.reg a = s.dev.reg a) ∧ d.mem = s.dev.mem) ∧
    (p < s.dev.variant.ports → ∃ d, exec (.prbsEn p v stream) s = .next { s with dev := d } ∧
      (∀ k, k < 5 → d.fld ⟨R.CAM_PRBS_CTRL p, k, 1⟩ = getBits v k 1 ∧ d.fld ⟨R.CAM_PRBS_CTRL p, 8 + k, 1⟩ = getBits v (8 + k) 1) ∧
      (∀ a, a ≠ R.CAM_PRBS_CTRL p → (∀ k, a ≠ R.CAM_PRBS_CNTk p k) → d.reg a = s.dev.reg a) ∧ d.mem = s.dev.mem) ∧
    (c < s.dev.variant.contexts → getBits v 0 1 = 1 → s.dev.ctxEn c = true → ∃ d, exec (.commit c v) s = .next { s with dev := d } ∧
      d.bit (ctxCommit c) = true ∧ d.fld (tableSwap c) = getBits v 1 1 ∧
      (∀ a, a ≠ R.CTX_BANK_CTRL c → d.reg a = s.dev.reg a) ∧ d.active = s.dev.active ∧ d.mem = s.dev.mem) ∧
    (∃ d, exec (.strGroupCommit v) s = .next { s with dev := d } ∧
      (∀ c, c < s.dev.variant.contexts → getBits v c 1 = 1 → s.dev.ctxEn c = true → d.bit (ctxCommit c) = true) ∧
      d.active = s.dev.active ∧ d.mem = s.dev.mem) ∧
    (c < s.dev.variant.contexts → ∃ d, exec (.freezeAll c v) s = .next { s with dev := d } ∧
      d.fld ⟨R.BL_CTRL c, 0, 1⟩ = getBits v 0 1 ∧ (getBits v 1 1 = 1 → d.bit (acqPending c) = true) ∧
      (∀ a, a ≠ R.BL_CTRL c → a ≠ R.BL_STATUS c → d.reg a = s.dev.reg a) ∧ d.mem = s.dev.mem) ∧
    (c < s.dev.variant.contexts → getBits v 1 1 = 1 → ∃ d, exec (.acquire c v) s = .next { s with dev := d } ∧
      d.fld ⟨R.BL_CTRL c, 0, 1⟩ = getBits v 0 1 ∧ d.bit (acqPending c) = true ∧
      (∀ a, a ≠ R.BL_CTRL c → a ≠ R.BL_STATUS c → d.reg a = s.dev.reg a) ∧ d.mem = s.dev.mem) ∧
    (m < 4 → getBits v 0 1 = 1 → ∃ d, exec (.lodeCtrlCommit m v) s = .next { s with dev := d } ∧ d.bit (lodePending m) = true ∧
      (∀ a, a ≠ R.LODE_CTRL m → d.reg a = s.dev.reg a) ∧ d.active = s.dev.active ∧ d.mem = s.dev.mem) ∧
    (s.dev.variant.assay = true → ∃ d, exec (.asyCtrlCommit v) s = .next { s with dev := d } ∧
      d.fld ⟨R.ASY_CTRL, 0, 1⟩ = getBits v 0 1 ∧ d.mem = s.dev.mem)

/-- Writes to Tideline, the time base, Runnel and the GPIO: LOAD loads PRESET (R257); TGT_LO takes the held TGT_HI and applies the target
(R7, R264); START_LO arms timed mode (R268); TDL_CMPn_CFG arms (R281); TIM_SNAP captures the bases of its mask (R297); TGT_NS arms a
slot inside the window (R302, R303); a slot's CFG is written and disarms (R306); RNL_CHc_CFG applies the held words of a host channel
past its checks (R284, R290); RNL_GRP_EN changes groups that are not secure (R285); RNL_SWEV raises its events (R288); GLB_GPIO_OUT
changes host pins (R424). -/
def Obligations.TimingWritesAct : Prop :=
  ∀ (s : State) (n : Nat) (v : Word), s.on →
    (n < 8 → exec (.load n) s = .next { s with dev := s.dev.posLoad n none }) ∧
    (n < 32 → exec (.tgtLo n v) s = .next { s with
      dev := ((s.dev.takeHeldHi (R.TDL_CMPn_TGT_HI n) 0xFFFFFFFF).setReg (R.TDL_CMPn_TGT_LO n) v).targetApplied n }) ∧
    (n < 32 → s.dev.cmpMode n = 3 →
      let d := (s.dev.takeHeldHi (R.TDL_CMPn_START_HI n) 0xFF).setReg (R.TDL_CMPn_START_LO n) v
      exec (.startLo n v) s = .next { s with dev := d.armTimed n (d.startDiff n) }) ∧
    (n < 32 → s.dev.cmpDenied n (getBits v 0 2) = false →
      let d := (s.dev.put ⟨R.TDL_CMPn_CFG n, 0, 9⟩ (getBits v 0 9)).put ⟨R.TDL_CMPn_CFG n, 10, 1⟩ (getBits v 10 1)
      exec (.arm n v) s = .next { s with dev := d.cfgWritten n (s.dev.cmpMode n) (getBits v 9 1 == 1) }) ∧
    (∃ d, exec (.timSnap v) s = .next { s with dev := d } ∧ d.tim = s.dev.tim ∧ d.mem = s.dev.mem ∧
      ∀ b, b < 4 → (v.getLsbD b = true →
          let st := (s.dev.base b).stamp
          d.reg (0x900020 + 0x10 * b) = BitVec.ofNat 32 st.sec ∧ d.reg (0x900024 + 0x10 * b) = BitVec.ofNat 32 (st.sec / 2 ^ 32) ∧
          d.reg (0x900028 + 0x10 * b) = BitVec.ofNat 32 st.ns ∧ d.reg (0x90002C + 0x10 * b) = BitVec.ofNat 32 st.frac) ∧
        (v.getLsbD b = false → ∀ i, i < 4 → d.reg (0x900020 + 0x10 * b + 4 * i) = s.dev.reg (0x900020 + 0x10 * b + 4 * i))) ∧
    (let d := s.dev.setReg (R.TIM_TCn_TGT_NS n) v
     let tgt := ((s.dev.reg (R.TIM_TCn_TGT_SEC_LO n)).toNat + s.dev.fld ⟨R.TIM_TCn_TGT_SEC_HI n, 0, 16⟩ * 2 ^ 32) * 1000000000 + v.toNat
     n < 16 → exec (.tgtNs n v) s = .next { s with
        dev := (if inWindow (s.dev.tcDiff n tgt) then d.tcArm n tgt else (d.put (tcArmed n) 0).tcRefuse n) }) ∧
    (n < 16 → ∃ d, exec (.disarm n v) s = .next { s with dev := d } ∧ d.fld ⟨R.TIM_TCn_CFG n, 1, 4⟩ = getBits v 1 4 ∧
      (v.getLsbD 0 = true → d.bit (tcArmed n) = false) ∧
      (∀ a, a ≠ R.TIM_TCn_CFG n → a ≠ R.TIM_TCn_STATUS n → d.reg a = s.dev.reg a) ∧ d.mem = s.dev.mem) ∧
    (n < 128 → s.dev.chOwner n = 0 →
      s.dev.chRefusal (s.dev.halves ((chWordAddrs n).take 2)) (s.dev.halves ((chWordAddrs n).drop 2)) = none →
      exec (.rnlChcCfg n v) s = .next { s with dev := s.dev.chApply n (v.toNat % 64) }) ∧
    ((∀ g, g < 16 → s.dev.grpSecure g = false) → ∃ d, exec (.rnlGrpEn v) s = .next { s with dev := d } ∧
      (∀ g, g < 16 → d.grpEn g = v.getLsbD g) ∧ (∀ a, a ≠ R.RNL_GRP_EN → d.reg a = s.dev.reg a) ∧ d.mem = s.dev.mem) ∧
    (exec (.swev v) s = .next { s with dev := s.dev.swev (v.toNat % 65536) }) ∧
    ((∀ g, g < 16 → s.dev.gpioHost g = true) → ∃ d, exec (.glbGpioOut v) s = .next { s with dev := d } ∧
      (∀ g, g < 16 → d.bit ⟨R.GLB_GPIO_OUT, g, 1⟩ = v.getLsbD g) ∧ (∀ a, a ≠ R.GLB_GPIO_OUT → d.reg a = s.dev.reg a) ∧ d.mem = s.dev.mem)

/-- Writes to the engines and units of the host interface: DMA_RUN starts an engine and DMA_STOP halts it (R348 to R351), the write index
of a copy engine and the read index of a ring engine take the host's word, SLU_EN going to 1 empties the ring's indexes (R388), the
job index is taken (R389), CV_CFG, CV_VALUE and CV_SAVE act on a unit that the image does not claim (R402, R404, R424), and
CAL_REQ requests items (R478). -/
def Obligations.EngineWritesAct : Prop :=
  ∀ (s : State) (e : Nat) (v : Word), s.on →
    (e < 16 → v.getLsbD 0 = true → ∃ d, exec (.dmaRun e v) s = .next { s with dev := d } ∧ d.hif.d3hot = false ∧
      d.fld ⟨R.HIF_DMAe_CFG e, 0, 7⟩ = v.toNat % 128 ∧ d.engineRunning e = true ∧ d.mem = s.dev.mem) ∧
    (e < 16 → v.getLsbD 0 = false → ∃ d, exec (.dmaStop e v) s = .next { s with dev := d } ∧ d.engineRunning e = false ∧
      d.mem = s.dev.mem) ∧
    (e < 16 → s.dev.dmaCopyMode e = true → exec (.dmaWr e v) s = .next { s with
      dev := (if s.dev.dmaCopyWork e then s.dev.setReg (R.HIF_DMAe_WR e) v
        else (s.dev.setReg (R.HIF_DMAe_WR e) v).dmaWaits e).dmaShow e }) ∧
    (e < 16 → s.dev.dmaCopyMode e = false →
      exec (.dmaRd e v) s = .next { s with dev := (s.dev.setReg (R.HIF_DMAe_RD e) v).dmaShow e }) ∧
    (s.dev.sluEn = false → v.getLsbD 0 = true → ∃ d, exec (.sluEn v) s = .next { s with dev := d } ∧ d.sluEn = true ∧
      d.reg R.SLU_JOB_WR = 0 ∧ d.reg R.SLU_JOB_RD = 0 ∧ d.slu.taken = 0 ∧ d.mem = s.dev.mem) ∧
    (exec (.sluJobWr v) s = .next { s with dev := (s.dev.setReg R.SLU_JOB_WR v).sluShow }) ∧
    (e < 8 → s.dev.cvImage e = false → cvRefused v = false → s.dev.cvAbsent v = false →
      exec (.cvEn e v) s = .next { s with dev := s.dev.cvConfig e v }) ∧
    (e < 8 → s.dev.cvImage e = false → exec (.cvValue e v) s = .next { s with dev := s.dev.cvRestore e v.toNat }) ∧
    (e < 8 → v.getLsbD 0 = true → ∃ d, exec (.save e v) s = .next { s with dev := d } ∧
      d.reg (R.CV_SAVED_VALUE e) = s.dev.reg (R.CV_VALUE e) ∧ d.reg64 (R.CV_SAVED_BYTES_LO e) = s.dev.reg64 (R.CV_BYTES_LO e) ∧
      (∀ a, a ≠ R.CV_SAVED_VALUE e → a ≠ R.CV_SAVED_BYTES_LO e → a ≠ R.CV_SAVED_BYTES_LO e + 4 → d.reg a = s.dev.reg a) ∧
      d.mem = s.dev.mem) ∧
    (exec (.calReq v) s = .next { s with dev := s.dev.calRequest (v.toNat % 2 ^ 19) })

/-- An event that a unit raises reaches every consumer of every enabled channel that names it as a producer and whose group is not disabled
(R278, R285); and raising it changes nothing but Runnel's own registers, the activations that task inputs hold, the log and the
requests to the host. -/
def Obligations.RaisedEventsReachTheirConsumers : Prop :=
  ∀ (d : Dev) (unit idx : Nat) (cause : Option Cause),
    (∀ c t, d.rnlEn = true → (∀ x, cause = some x → x.hop < 6) → c < 128 → d.chCfg c 0 1 = 1 → evtId unit idx ∈ d.chSrc c →
      t ∈ d.chDst c → idValid t = true → (d.chCfg c 5 1 = 0 ∨ d.grpEn (d.chCfg c 1 4) = true) →
      tget noneAt (d.raise unit idx cause).rnl.acts (t % 0x1000) ≠ none) ∧
    (∀ a, a < 0x800000 ∨ 0x808000 ≤ a → (d.raise unit idx cause).reg a = d.reg a) ∧
    (d.raise unit idx cause).mem = d.mem ∧ (d.raise unit idx cause).active = d.active ∧
    (d.raise unit idx cause).hif = { d.hif with pending := (d.raise unit idx cause).hif.pending } ∧
    (d.rnlEn = false → d.raise unit idx cause = d)

/-- A task input that holds an activation hands it to its unit and is empty afterwards (R287): the tasks of groups (R285), of host events
(R280), LOG_MARK and the GPIO drives (R500), of positions (R257), compare channels (R281), baselines (R136, R138), contexts (R118)
and Lode (R193, R198). With none held nothing changes. A GPIO input's new level shows, and its edge is raised on a Runnel pin (R500). -/
def Obligations.TasksTakeTheirActivations : Prop :=
  ∀ (s : State) (n : Nat) (a : HeldAct), s.on →
    (∀ (c : Instr) (key : Nat) (f : Dev → Dev),
      (c = .enableGrp n ∧ n < 16 ∧ key = 0x400 + n ∧ f = fun d => d.grpTask n true a) ∨
      (c = .disableGrp n ∧ n < 16 ∧ key = 0x410 + n ∧ f = fun d => d.grpTask n false a) ∨
      (c = .hostEvt n ∧ n < 32 ∧ key = 0x700 + n ∧ f = fun d => d.sticky ⟨R.RNL_HOST_EVT, n, 1⟩ 18 true) ∨
      (c = .logMark ∧ key = 0x800 ∧ f = fun d => d.logPut 0x08 .logMark [a.chan, a.hop]) ∨
      (c = .driveHigh n ∧ n < 16 ∧ key = 0x500 + n ∧ f = fun d => d.drive n true) ∨
      (c = .driveLow n ∧ n < 16 ∧ key = 0x510 + n ∧ f = fun d => d.drive n false) ∨
      (c = .posnLoad n ∧ n < 8 ∧ key = 0x200 + n ∧ f = fun d => d.posLoad n (some a.cause)) ∨
      (c = .setArm n ∧ n < 32 ∧ key = 0x208 + n ∧ f = fun d => d.writeArm n true) ∨
      (c = .clearArm n ∧ n < 32 ∧ key = 0x228 + n ∧ f = fun d => d.writeArm n false) ∨
      (c = .blFreeze n ∧ n < s.dev.variant.contexts ∧ key = 0x100 + 4 * n ∧ f = fun d => d.put ⟨R.BL_STATUS n, 0, 1⟩ 1) ∨
      (c = .blThaw n ∧ n < s.dev.variant.contexts ∧ key = 0x101 + 4 * n ∧ f = fun d => d.put ⟨R.BL_STATUS n, 0, 1⟩ 0) ∨
      (c = .blAcquire n ∧ n < s.dev.variant.contexts ∧ key = 0x102 + 4 * n ∧ f = fun d => d.acquire n (some a.cause)) ∨
      (c = .commitTask n ∧ n < s.dev.variant.contexts ∧ key = 0x103 + 4 * n ∧ f = fun d => d.ctxRequest n (some a.cause)) ∨
      (c = .closeAllTask n ∧ s.dev.mosEn n = true ∧ s.dev.memFrozen = false ∧
        ((s.dev.actTaken key).hostClose n).2.memFrozen = false ∧ key = 0x300 + n ∧ f = fun d => (d.hostClose n).2) ∨
      (c = .lodeCommitTask n ∧ s.dev.mosEn n = true ∧ key = 0x304 + n ∧ f = fun d => d.lodeCommit n (some a.cause)) →
      (tget noneAt s.dev.rnl.acts key = some a → exec c s =
        .next { s with dev := f (s.dev.actTaken key) }) ∧
      (tget noneAt s.dev.rnl.acts key = none → twf noneAt s.dev.rnl.acts = true → exec c s = .next s)) ∧
    (∀ level, n < 16 → s.dev.bit ⟨R.GLB_GPIO_IN, n, 1⟩ = !level → s.dev.gpioRunnel n = true → ∃ d,
      exec (.gpioEdge n level) s = .next { s with dev := d } ∧
      d = (s.dev.putBit ⟨R.GLB_GPIO_IN, n, 1⟩ level).raise 0x8 ((if level then 16 else 32) + n) ∧
      d.bit ⟨R.GLB_GPIO_IN, n, 1⟩ = level)

/-! ### Memory and the BAR windows -/

/-- The address decode (R364, Table 17-2), bit by bit: the local address is A[7:0] and, above it, A[36:14] on dual-stack variants and
A[35:13] on single-stack ones; it gives column, bank group, bank, SID and row; the stack is A[8] or S0; the pseudo-channel is an XOR of
two fields. Read both ways: below the end of memory the address of an address's location is that address, and the location of a
location's address, which lies below the end of memory, is that location. -/
def Obligations.AddressesAndLocationsAgree : Prop :=
  ∀ (dual : Bool),
    (∀ a, a < (if dual then 0x2000000000 else 0x1000000000) →
      let x := decodeAddr dual a
      let l (i : Nat) : Bool := if i < 8 then a.testBit i else if dual then a.testBit (i + 6) else a.testBit (i + 5)
      Loc.fits dual x ∧ encodeAddr dual x = a ∧
      x.stack = (if dual then (a.testBit 8).toNat else 0) ∧
      (∀ i, i < 5 → x.pc.testBit i =
        if dual then (a.testBit (9 + i)) ^^ (a.testBit (14 + i)) else (a.testBit (8 + i)) ^^ (a.testBit (13 + i))) ∧
      (∀ i, i < 10 → x.column.testBit i = l i) ∧ (∀ i, i < 2 → x.bankGroup.testBit i = l (10 + i)) ∧
      (∀ i, i < 2 → x.bank.testBit i = l (12 + i)) ∧ x.sid = (l 14).toNat ∧ (∀ i, i < 16 → x.row.testBit i = l (15 + i))) ∧
    (∀ x, Loc.fits dual x →
      encodeAddr dual x < (if dual then 0x2000000000 else 0x1000000000) ∧ decodeAddr dual (encodeAddr dual x) = x)

/-- A write that is served at once (R365, R366) stores its bytes (R368, R369): each byte reads as written unless the same write also mirrors
onto it, its mirror in the secondary half reads the same, and every other byte of DRAM is as it was. A requester that may not write
there has its write dropped and counted, and no byte changes (R369). While the device is frozen, the channel in recovery or others
wait in the pseudo-channel it is held behind them (R365, R379, R381), and at a controller that holds 1,024 transactions it stalls
(R366). A BAR2 write inside a host partition is a write by requester 0x08 (R345); one outside is dropped, counted and raised. -/
def Obligations.DramWritesStoreTheirBytes : Prop :=
  ∀ (s : State) (req addr : Nat) (bytes : List Byte) (f : DramFault), s.on →
    let r : MemReq := { write := true, req := req, addr := addr, n := bytes.length, bytes := bytes, meets := f, mirror := .clean
                        at_ := s.dev.now2 }
    let full := s.dev.stackFull (s.dev.stackOf addr)
    (let mirrored (x : Nat) : Prop := ∃ j, j < bytes.length ∧ s.dev.mirrorOf (addr + j) = some x
     let cell (d : Dev) (x : Nat) : Byte := tget d.mem.unlisted d.mem.cells x
     full = false → s.dev.mustWait addr = false → ∃ d, exec (.dramWrite req addr bytes f) s = .next { s with dev := d } ∧
        (s.dev.mayWrite req addr bytes = true →
          (∀ i, i < bytes.length → ¬ mirrored (addr + i) → cell d (addr + i) = bytes.getD i 0) ∧
          (∀ i x, i < bytes.length → s.dev.mirrorOf (addr + i) = some x → cell d x = bytes.getD i 0) ∧
          (∀ x, x < addr ∨ addr + bytes.length ≤ x → ¬ mirrored x → cell d x = cell s.dev x)) ∧
        (s.dev.mayWrite req addr bytes = false → d.mem.cells = s.dev.mem.cells ∧
          d.reg R.MEM_PROT_CNT = BitVec.ofNat 32 (min (2 ^ 32 - 1) ((s.dev.reg R.MEM_PROT_CNT).toNat + 1)))) ∧
    (full = false → s.dev.mustWait addr = true → ∃ d, exec (.dramWrite req addr bytes f) s = .next { s with dev := d } ∧
      d.mem = { s.dev.mem with wait := s.dev.mem.wait ++ [r] }) ∧
    (full = true → exec (.dramWrite req addr bytes f) s =
      .next { s with dev := { s.dev with mem := { s.dev.mem with stalled := s.dev.mem.stalled ++ [r] } } }) ∧
    (s.dev.inHostPart addr bytes.length = true → exec (.bar2Write addr bytes f) s = exec (.dramWrite 0x08 addr bytes f) s) ∧
    (s.dev.inHostPart addr bytes.length = false → ∃ d, exec (.bar2Write addr bytes f) s = .next { s with dev := d } ∧
      d.mem.cells = s.dev.mem.cells ∧ d.bit ⟨R.HIF_EVENT, 1, 1⟩ = true ∧
      d.reg R.HIF_BAR2_WERR = BitVec.ofNat 32 (min (2 ^ 32 - 1) ((s.dev.reg R.HIF_BAR2_WERR).toNat + 1)))

/-- Reads of DRAM answer with what the cells hold and change no cell: a requester's read of a good block that is served at once (R365,
R366, R375); one held behind others, or stalled at a full controller; a BAR2 read is a read by requester 0x08, whose bytes go to the
host (R345, R346), but for all ones during a freeze or beyond a single-stack variant's memory (R345, R346, R379). A BAR0 access of a
wrong size raises its event, and a read of one returns 0 (R344). -/
def Obligations.ReadsAnswerFromTheCells : Prop :=
  ∀ (s : State) (req addr n : Nat) (f mf : DramFault), s.on →
    let r : MemReq := { write := false, req := req, addr := addr, n := n, bytes := [], meets := f, mirror := mf, at_ := s.dev.now2 }
    let full := s.dev.stackFull (s.dev.stackOf addr)
    (full = false → s.dev.mustWait addr = false → s.dev.badAt (addr / 64) = none →
      exec (.dramRead req addr n .clean mf) s = .next { s with dev := ((s.dev.access addr n).emit
        (if req = 0x08 then .barRead (s.dev.rawRead addr n) false else .memResponse addr false)) }) ∧
    (full = false → s.dev.mustWait addr = true → ∃ d, exec (.dramRead req addr n f mf) s = .next { s with dev := d } ∧
      d.mem = { s.dev.mem with wait := s.dev.mem.wait ++ [r] } ∧ d.glb = s.dev.glb) ∧
    (full = true → exec (.dramRead req addr n f mf) s =
      .next { s with dev := { s.dev with mem := { s.dev.mem with stalled := s.dev.mem.stalled ++ [r] } } }) ∧
    (s.dev.memFrozen = false → (s.dev.variant.dual = true ∨ addr < 0x1000000000) →
      exec (.bar2Read addr n f mf) s = exec (.dramRead 0x08 addr n f mf) s) ∧
    ((s.dev.memFrozen = true ∨ (s.dev.variant.dual = false ∧ 0x1000000000 ≤ addr)) →
      exec (.bar2Read addr n f mf) s = .next { s with dev := s.dev.emit (.barRead (List.replicate n 0xFF) false) }) ∧
    (∀ read, ∃ d, exec (.bar0Size read) s = .next { s with dev := d } ∧ d.bit ⟨R.HIF_EVENT, 0, 1⟩ = true ∧ d.mem = s.dev.mem ∧
      (∀ a, a ≠ R.HIF_EVENT → d.reg a = s.dev.reg a) ∧
      (read = true → s.dev.pins.boundary = 0 → d.glb.out.head? = some (.barRead [0, 0, 0, 0] false)))

/-- The events of the memory controllers: a waiting request becomes urgent AGE_LIMIT after its arrival and is counted (R371); when tREFI
passes one more refresh is owed, the refreshes owed are issued while nothing waits for their bank, and with eight owed already the
ninth is urgent and counted (R373); the scrubber reads what it finds and ends its passes (R376); a parity error is counted, and puts
its channel into recovery (R381); the end of recovery takes it out again, counts the retrain, leaves both pseudo-channels refreshed with
no row open, and with nothing waiting serves nothing. -/
def Obligations.MemoryEventsAct : Prop :=
  ∀ (s : State) (i stack n req addr : Nat) (r : MemReq) (found : List (Nat × DramFault)) (passEnds : Bool), s.on →
    (s.dev.mem.wait[i]? = some r → r.urgent = false → ∃ d, exec (.urgent i) s = .next { s with dev := d } ∧
      d.mem = { s.dev.mem with wait := s.dev.mem.wait.set i { r with urgent := true } } ∧
      d.tim.tb2 = (s.dev.expire r.at_ s.dev.ageLimit).tim.tb2 ∧
      d.fld ⟨R.MEM_Ss_URGENT_CNT (s.dev.stackOf r.addr), 0, 16⟩ =
        min 65535 (s.dev.fld ⟨R.MEM_Ss_URGENT_CNT (s.dev.stackOf r.addr), 0, 16⟩ + 1)) ∧
    (let key := 32 * stack + n
     stack < 2 → n < 32 → s.dev.memFrozen = false → ∃ d, exec (.refresh stack n) s = .next { s with dev := d } ∧
      d.mem.cells = s.dev.mem.cells ∧ d.mem.wait = s.dev.mem.wait ∧
      (s.dev.owedOf key = 8 → d.fld ⟨R.MEM_Ss_URGENT_CNT stack, 16, 16⟩ =
        min 65535 (s.dev.fld ⟨R.MEM_Ss_URGENT_CNT stack, 16, 16⟩ + 1)) ∧
      (s.dev.mem.wait = [] → s.dev.owedOf key ≤ 8 → d.owedOf key = 0 ∧
        tget noneAt d.mem.openRow (32 * key + s.dev.refBankOf key) = none) ∧
      ((s.dev.mem.wait.any (fun x => s.dev.bankOf x.addr == 32 * key + s.dev.refBankOf key)) = true → s.dev.owedOf key < 8 →
        d.owedOf key = s.dev.owedOf key + 1 ∧ d.mem.openRow = s.dev.mem.openRow)) ∧
    (let d := (found.filter (fun e => decide (e.1 * 64 < s.dev.variant.dramBytes))).foldl (fun d e => d.request
        { write := false, req := 0x0C, addr := e.1 * 64, n := 64, bytes := [], meets := e.2, mirror := .clean }) s.dev
     (s.dev.bit ⟨R.MEM_CFG, 0, 1⟩ = true → s.dev.memFrozen = false → exec (.scrub found passEnds) s = .next { s with
        dev := (if passEnds && !d.memFrozen then d.scrubPass else d) }) ∧
     (s.dev.bit ⟨R.MEM_CFG, 0, 1⟩ = false ∨ s.dev.memFrozen = true → exec (.scrub found passEnds) s = .next s)) ∧
    (stack < 2 → n < 16 → ∃ d, exec (.parity stack n req addr) s = .next { s with dev := d } ∧
      d.bit ⟨R.MEM_TRAINs_c stack n, 2, 1⟩ = true ∧ d.bit ⟨R.MEM_EVENT, 7, 1⟩ = true ∧ d.mem.cells = s.dev.mem.cells ∧
      d.reg R.MEM_PARITY_CNT = BitVec.ofNat 32 (min (2 ^ 32 - 1) ((s.dev.reg R.MEM_PARITY_CNT).toNat + 1))) ∧
    (stack < 2 → n < 16 → s.dev.bit ⟨R.MEM_TRAINs_c stack n, 2, 1⟩ = true → s.dev.mem.wait = [] → s.dev.mem.stalled = [] → ∃ d,
      exec (.recoveryEnd stack n) s = .next { s with dev := d } ∧ d.bit ⟨R.MEM_TRAINs_c stack n, 2, 1⟩ = false ∧
      d.fld ⟨R.MEM_TRAINs_c stack n, 24, 8⟩ = min 255 (s.dev.fld ⟨R.MEM_TRAINs_c stack n, 24, 8⟩ + 1) ∧
      (∀ p, p < 2 → d.owedOf (32 * stack + 2 * n + p) = 0 ∧
        d.mem.openRow.all (fun e => e.1 / 32 != 32 * stack + 2 * n + p) = true) ∧
      (∀ a, a ≠ R.MEM_TRAINs_c stack n → d.reg a = s.dev.reg a) ∧ d.mem.cells = s.dev.mem.cells)

/-- Sluice and the check-value units at work: while SLU_EN is 1 a free lane takes the descriptor of SLU_RUN, or else the next posted job
of the ring, from a good block (R389); a job that is done leaves its lane empty and, when it came from the mailbox, answers that command
with its status (R394, R398), where it meets nothing that freezes the device (R379); a beat on a tap
folds into every unit that snoops it, and a unit that does not keeps its value (R399 to R405). -/
def Obligations.SluiceAndCheckUnitsWork : Prop :=
  ∀ (s : State) (lane : Nat) (b : List Byte) (j : SluJob) (mismatch : Bool) (t : TapBeat), s.on →
    (∀ id rest, lane < 4 → s.dev.sluLane lane = none → s.dev.memFrozen = false → s.dev.sluEn = true →
      s.dev.slu.runs = (id, b) :: rest → ∃ d, exec (.laneTake lane) s = .next { s with dev := d } ∧
      d.sluLane lane = some { desc := b, mailbox := true, id := id } ∧ d.slu.runs = rest ∧ d.mem = s.dev.mem) ∧
    (lane < 4 → s.dev.sluLane lane = none → s.dev.memFrozen = false → s.dev.slu.runs = [] → s.dev.sluEn = true →
      s.dev.sluWaiting ≠ 0 →
      let a := s.dev.slu.base + 64 * (s.dev.slu.taken % s.dev.slu.slots)
      s.dev.readable a 64 = true → ∃ d, exec (.laneTake lane) s = .next { s with dev := d } ∧
      d.sluLane lane = some { desc := s.dev.orderedRead a 64, mailbox := false, index := s.dev.slu.taken, addr := a } ∧
      d.slu.taken = (s.dev.slu.taken + 1) % 2 ^ 32 ∧ d.mem = (s.dev.access a 64).mem) ∧
    (let e := s.dev.sluJob j.desc j.memErr mismatch
     s.dev.sluLane lane = some j → s.dev.memFrozen = false → e.2.memFrozen = false → ∃ d,
      exec (.jobDone lane mismatch) s = .next { s with dev := d } ∧ d.sluLane lane = none ∧
      ∀ r, j.mailbox = true → s.dev.hif.running = some r → r.id = j.id → r.reply = none →
        ∃ resp, d.hif.running = some { r with reply := some (e.1.status, resp) }) ∧
    (∃ d, exec (.tapBeat t) s = .next { s with dev := d } ∧
      d = (List.range 8).foldl (fun d u => if d.cvSnoops u t then d.cvBeat u t else d) s.dev ∧ d.mem = s.dev.mem ∧
      ((∀ u, u < 8 → s.dev.cvSnoops u t = false) → d = s.dev))

/-! ### The host's end and the DMA engines -/

/-- A detachment, by loss of the USB4 link, function-level reset or hot reset, stops every engine and leaves nothing of a transfer in
flight, ends the owner session and the host's claims, returns every HIF register to its reset value and discards the responses of the
commands that are running, which go on running (R354; R424, R435). Inspection, Runnel, the network, the time bases, DRAM and every register
outside the HIF and the security block are as they were, but for TRIAL in GLB_STATUS, which follows the update stage; fuses and flash
are not touched. ATTACH shows the link's generation (R342), D3hot stops every engine (R343). -/
def Obligations.DetachmentEndsTheHostsWork : Prop :=
  ∀ (c : Instr) (s : State) (gen2 : Bool), s.on →
    (c = .usb4LinkLoss ∨ c = .functionLevelReset ∨ c = .hotReset → ∃ d, exec c s = .next { s with dev := d } ∧
      (∀ a, isHif a = true → d.reg a = resetWord a) ∧ d.ownSession = false ∧ d.hif.attached = false ∧
      (∀ e, e < 16 → d.engineRunning e = false) ∧ (∀ x ∈ d.cfg.claims, x.host = false) ∧
      (let o := s.dev.ownEnd
       d.hif = { old := o.hif.old ++ (o.hif.running.map (fun r => { r with discard := true })).toList, taken := s.dev.hif.taken } ∧
         o.hif.running.map Running.id = s.dev.hif.running.map Running.id) ∧
      (∀ a, isHif a = false → a / 0x100000 ≠ 0x10 → a ≠ R.GLB_STATUS → d.reg a = s.dev.reg a) ∧
      d.active = s.dev.active ∧ d.mem = s.dev.mem ∧ d.rnl = s.dev.rnl ∧ d.tim = s.dev.tim ∧ d.tdl = s.dev.tdl ∧ d.net = s.dev.net ∧
      d.cam = s.dev.cam ∧ d.str = s.dev.str ∧ d.seam = s.dev.seam ∧ d.lode = s.dev.lode ∧ d.asy = s.dev.asy ∧ d.shf = s.dev.shf) ∧
    (∃ d, exec (.attach gen2) s = .next { s with dev := d } ∧ d.hif.attached = true ∧ d.hif.d3hot = false ∧
      d.fld ⟨R.HIF_STATUS, 0, 2⟩ = (if gen2 then 1 else 0) ∧ (∀ a, a ≠ R.HIF_STATUS → d.reg a = s.dev.reg a) ∧ d.mem = s.dev.mem) ∧
    (∃ d, exec .d3hot s = .next { s with dev := d } ∧ d.hif.d3hot = true ∧ (∀ e, e < 16 → d.engineRunning e = false) ∧
      d.mem = s.dev.mem)

/-- The DMA engines at work: in its turn a ring engine takes up to n records, its write index advances by what it took, at least one, and
its vector waits for INT_CNT (R348, R349, R351, R353), where it meets nothing that freezes the device (R379); a copy engine serves a
descriptor of good DRAM whole, writing the bytes to the host before the end of the descriptor (R350), and a host fault halts it; INT_T
after the first entry requests what is unsignalled (R353); AGE_T after its descriptor began to wait promotes an engine (R351). -/
def Obligations.EnginesMoveData : Prop :=
  ∀ (s : State) (e n : Nat) (desc : List Byte), s.on → e < 16 →
    (0 < n → s.dev.memFrozen = false → s.dev.hif.promoted = [] → turnOf s.dev.dmaRingWork s.dev.hif.lastRing e = true →
      (s.dev.dmaBurst e n).memFrozen = false → ∃ d k, exec (.dmaBurst e n) s = .next { s with dev := d } ∧ 0 < k ∧ k ≤ n ∧
      d.hif.lastRing = e ∧ d.reg (R.HIF_DMAe_WR e) = s.dev.reg (R.HIF_DMAe_WR e) + BitVec.ofNat 32 k) ∧
    (let src := fieldAt desc 0 8
     let dst := fieldAt desc 8 8
     let len := fieldAt desc 16 4
     let cf := fieldAt desc 20 4
     let d0 : Dev := { s.dev with hif := { s.dev.hif with lastCopy := e } }
     s.dev.memFrozen = false → s.dev.dmaCopyWork e = true → s.dev.hif.promoted = [] → (∀ i, i < 16 → s.dev.dmaRingWork i = false) →
      turnOf s.dev.dmaCopyWork s.dev.hif.lastCopy e = true → 0 < len → len ≤ 16777216 → src + len ≤ s.dev.variant.dramBytes → cf < 8 →
      (s.dev.readable src len = true → tget (fun _ => 0) s.dev.hif.copied e = 0 →
        exec (.copyDescriptor e desc false) s =
          .next { s with dev := ((d0.access src len).emit (.hostWrite dst (s.dev.orderedRead src len))).copyEnd e cf false }) ∧
      (∃ d, exec (.copyDescriptor e desc true) s = .next { s with dev := d } ∧ d.engineRunning e = false ∧
        d.bit ⟨R.HIF_DMAe_STATUS e, 1, 1⟩ = true ∧ d.bit ⟨R.HIF_EVENT, 2, 1⟩ = true ∧ d.mem = s.dev.mem)) ∧
    (tget (fun _ => 0) s.dev.hif.unsignalled e ≠ 0 → ∃ d, exec (.intT e) s = .next { s with dev := d } ∧
      d.tim = (s.dev.expire (tget (fun _ => 0) s.dev.hif.signalAt e) (max 1 (s.dev.fld ⟨R.HIF_DMAe_MOD e, 0, 16⟩) * 1000)).tim ∧
      tget (fun _ => 0) d.hif.unsignalled e = 0 ∧ (s.dev.pins.boundary = 0 → d.glb.out = .msix (2 + e) :: s.dev.glb.out) ∧
      (∀ a, a ≠ R.TIM_TB3_SLEW → d.reg a = s.dev.reg a) ∧ d.mem = s.dev.mem) ∧
    (let x := s.dev.expire (tget (fun _ => 0) s.dev.hif.waitFrom e) (max 1 (s.dev.fld ⟨R.HIF_AGE_CFG, 0, 16⟩) * 100000)
     s.dev.dmaCopyWork e = true → s.dev.hif.promoted.contains e = false → exec (.ageT e) s =
      .next { s with dev := { x with hif := { x.hif with promoted := x.hif.promoted ++ [e] } } })

/-! ### Reset, boot, the test access port -/

/-- Reset and boot. RESET_N low holds the device, every register at its reset value and DRAM empty (R464, R501), but a running save
completes first (R474); its release boots from ROM (R412): the epoch record is being written (R411), the flash answers or not. The
epoch shows once its write ends (R411); trained DRAM applies the image and starts the ports (R382, R412), failed training is FATAL; and
INSP_READY follows when every enabled port is ACTIVE or in FAULT (R413).
What DRAM reads as when empty is the model's choice (assumption 3). -/
def Obligations.ResetAndBootFollowTheirSteps : Prop :=
  ∀ (s : State) (flash : BootFlash) (w : EpochWrite) (train : List TrainCh) (selfFail : Nat),
    (s.dev.cove.save = none → ∃ d n, exec .resetNLow s = .next { s with dev := d, nv := n } ∧ d.glb.held = true ∧ d.off = true ∧
      (∀ a, d.reg a = resetWord a) ∧ d.mem.cells = [] ∧ d.variant = s.dev.variant ∧ n.fuses = s.nv.fuses) ∧
    (s.dev.cove.save ≠ none → exec .resetNLow s =
      .next { s with dev := { s.dev with cove := { s.dev.cove with resetWaits := true } } }) ∧
    (s.dev.cove.save = none → (s.dev.glb.held = true ∨ s.dev.glb.started = false) → ∃ d n,
      exec (.resetNRelease flash) s = .next { s with dev := d, nv := n } ∧ d.glb.held = false ∧ d.glb.started = true ∧
      d.cfg.epochWrite = some s.nv.epochNext ∧ d.cove.flashUp = flash.answers) ∧
    (s.on → s.dev.cfg.epochWrite = some w → s.dev.cove.flashUp = true → ∃ d,
      exec (.epochWrite true) s = .next { s with dev := d, nv := s.nv.prog (epochAt w.copy) w.bytes } ∧
      d.reg R.CFG_EPOCH = BitVec.ofNat 32 w.epoch ∧ d.fld ⟨R.REC_SEQ_HI, 20, 12⟩ = w.epoch % 4096 ∧ d.cfg.epochWrite = none ∧
      d.mem = s.dev.mem) ∧
    (s.on → s.dev.cfg.loaded = true → s.dev.cfg.epochWrite = none → s.dev.fld bootPhase = 4 → s.dev.bit ⟨R.MEM_STATUS, 3, 1⟩ = false →
      ((∀ t ∈ train, t.failed = false) → ∃ d, exec (.dramReady train) s = .next { s with dev := d } ∧ d.fld bootPhase = 6 ∧
        d.cfg.tabs = [] ∧ d.cfg.nets = []) ∧
      (∀ t ∈ train, t.failed = true → t.stack = 0 → t.ch < 16 → ∃ d, exec (.dramReady train) s = .next { s with dev := d } ∧
        d.bit ⟨R.MEM_STATUS, 3, 1⟩ = true ∧ d.bit ⟨R.GLB_STATUS, 2, 1⟩ = true ∧ d.fld bootPhase = 4)) ∧
    (s.on → s.dev.fld bootPhase = 6 → s.dev.bit ⟨R.MEM_STATUS, 0, 1⟩ = true → s.dev.bit ⟨R.GLB_STATUS, 2, 1⟩ = false →
      (∀ p, p < s.dev.variant.ports → s.dev.portEn p = true → s.dev.portState p = 7 ∨ s.dev.portState p = 10) → ∃ d,
      exec (.inspReady selfFail) s = .next { s with dev := d } ∧ d.inspReady = true ∧ d.fld bootPhase = 7 ∧
      d.reg R.CFG_BOOT_TIME = BitVec.ofNat 32 (s.dev.now2 / 1000000))

/-- The resets of a running device: the watchdog's (R426) and that at the end of a trial that was not confirmed, whose outcome SEC_LAST_UPD
then shows as a fall-back (R454, R455). DRAM, the sessions and the running command are lost, and the boot starts anew.
What DRAM reads as when empty is the model's choice (assumption 3). -/
def Obligations.RunningDeviceResets : Prop :=
  ∀ (s : State) (t : Trial), s.on →
    (∃ d n, exec .watchdogReset s = .next { s with dev := d, nv := n } ∧ (d, n) = s.dev.restart s.nv ∧ d.mem.cells = [] ∧
      d.sec.holder = none ∧ d.sec.session = none ∧ d.hif.running = none ∧ d.cfg.epochWrite.isSome = true) ∧
    (s.dev.sec.trial = some t → ∃ d n, exec .trialWindow s = .next { s with dev := d, nv := n } ∧ d.mem.cells = [] ∧
      d.sec.trial = none ∧ (s.dev.cove.flashUp = true → d.fld ⟨R.SEC_LAST_UPD, 4, 4⟩ = 3))

/-- The test access port (R490 to R493, Table 23-6). An instruction shows in the instruction register; EXTEST, EXTEST_PULSE and
EXTEST_TRAIN take the pins with the boundary register loaded, CLAMP and HIGHZ hold them; IDCODE, REG_READ and LOCK_STATUS answer;
under DEBUG_LOCK without DEBUG_OPEN the debug instructions act as BYPASS; UNLOCK_CHAL hands out a nonce, a free value; UNLOCK_RESP opens
debug for the owner's signature over it, counts a failure otherwise, and is ignored after eight (R439). Leaving EXTEST, CLAMP
or HIGHZ for an instruction that does not take the pins, or for Test-Logic-Reset, resets a running device as by GLB_RESET (R491); while
a sag has gated the device off the TAP does nothing (R470).
Which instruction leaves the pins is an inference (assumption 47), the signature is presumed (assumption 24). -/
def Obligations.TestAccessPortActs : Prop :=
  (∀ (s : State) (v addr : Nat) (sig nonce : List Byte), s.dev.cove.save = none → s.dev.cove.hold = false →
     let pins (ir boundary bsr : Nat) : Dev := { s.dev with pins := { s.dev.pins with ir := ir, boundary := boundary, bsr := bsr } }
     let shut := s.nv.fuses.locked && !s.dev.bit debugOpen
     let old := s.dev.pins.bsr
     exec (.extest v) s = .next { s with dev := pins 0x00 1 v } ∧
     exec (.extestPulse v) s = .next { s with dev := pins 0x05 1 v } ∧
     exec (.extestTrain v) s = .next { s with dev := pins 0x06 1 v } ∧
     exec .clamp s = .next { s with dev := pins 0x03 2 old } ∧
     exec .highz s = .next { s with dev := pins 0x04 3 old } ∧
     (s.dev.pins.boundary = 0 →
       exec (.samplePreload v) s = .next { s with dev := pins 0x01 0 v } ∧
       exec .bypass s = .next { s with dev := pins 0xFF 0 old } ∧
       exec .tapExitReset s = .next { s with dev := pins 0x02 0 old } ∧
       exec .idcode s = .next { s with dev := (pins 0x02 0 old).emit (.jtag [0xB0000000 + s.dev.variant.device * 4096 + 0x78B]) } ∧
       exec .wrapAccess s = .next { s with dev := pins (if shut then 0xFF else 0x10) 0 old } ∧
       exec .pitmanDebug s = .next { s with dev := pins (if shut then 0xFF else 0x13) 0 old } ∧
       (shut = true → exec (.regRead addr) s = .next { s with dev := pins 0xFF 0 old }) ∧
       (shut = false → addr < 2 ^ 26 → exec (.regRead addr) s =
         .next { s with dev := (pins 0x11 0 old).emit (.jtag [addr + (readReg s.dev addr).toNat * 2 ^ 32]) }) ∧
       (∃ x, exec .lockStatus s = .next { s with dev := (pins 0x22 0 old).emit (.jtag [x]) } ∧
         x.testBit 0 = s.nv.fuses.locked ∧ x.testBit 1 = s.dev.bit debugOpen ∧ x.testBit 2 = s.dev.sec.unlockFailed ∧
         x.testBit 3 = decide (8 ≤ s.dev.sec.unlockFails) ∧ x < 16) ∧
       (s.dev.glb.held = false → s.dev.glb.started = true →
         (∃ d b, exec .unlockChal s = .next { s with dev := d } ∧ b.length = 32 ∧ d.sec.unlockNonce = some b ∧
           d.glb.out = .jtag [leNat b] :: s.dev.glb.out ∧ d.regs = s.dev.regs ∧ d.mem = s.dev.mem) ∧
         (s.dev.sec.unlockFails < 8 → s.dev.sec.unlockNonce = some nonce → sig.length = 96 → s.nv.unlocks nonce sig = true → ∃ d,
           exec (.unlockResp sig) s = .next { s with dev := d } ∧ d.bit debugOpen = true ∧ d.sec.unlockFailed = false ∧
           d.mem = s.dev.mem) ∧
         (s.dev.sec.unlockFails < 8 → (∀ b, s.dev.sec.unlockNonce = some b → sig.length ≠ 96 ∨ s.nv.unlocks b sig = false) → ∃ d, exec (.unlockResp sig) s = .next { s with dev := d } ∧
           d.bit debugOpen = s.dev.bit debugOpen ∧ d.sec.unlockFails = s.dev.sec.unlockFails + 1 ∧ d.sec.unlockFailed = true ∧
           d.mem = s.dev.mem) ∧
         (8 ≤ s.dev.sec.unlockFails → exec (.unlockResp sig) s = .next { s with dev := pins 0x21 0 old })))) ∧
  ∀ (s : State),
    (s.dev.cove.save = none → s.dev.cove.hold = false → s.dev.pins.boundary ≠ 0 → s.dev.glb.held = false → s.dev.glb.started = true →
      ∃ d n, exec .bypass s = .next { s with dev := d, nv := n } ∧ exec .tapExitReset s =
          .next { s with dev := { d with pins := { d.pins with ir := 0x02 } }, nv := n } ∧
        d.pins.boundary = 0 ∧ d.pins.ir = 0xFF ∧ d.mem.cells = [] ∧ d.cfg.epochWrite = some s.nv.epochNext) ∧
    ((s.dev.cove.save ≠ none ∨ s.dev.cove.hold = true) → ∀ c : Instr,
      c = .bypass ∨ c = .tapExitReset ∨ c = .idcode ∨ c = .clamp ∨ c = .highz ∨ c = .wrapAccess ∨ c = .pitmanDebug ∨ c = .unlockChal ∨
        c = .lockStatus → exec c s = .next s)

/-! ### Power, calibration, self-test -/

/-- The supplies. HOLD_OK rises with a bus above 11.4 V and arms the sag detector, and falls with one below 11.2 V (R467, R468), within
the comparator's 0.05 V; VCORE_LOW shows the voltage and raises its event below 720 mV (R476); a sag latches its record and gates the
device off (R468 to R470), SAG_HOLD programs the record into its slot (R471, R472), and the end of SAG_HOLD boots (R474); losing VCOVE
holds the device in reset (R464); a half of the journal is erased, or the failure is raised (R472). -/
def Obligations.SuppliesActOnTheDevice : Prop :=
  ∀ (s : State) (bus mv op us h : Nat) (pfn vs pf : Bool) (sv : SagSave) (hs : List Nat),
    (s.on → s.dev.holdOk = false → above bus 1140 = true → ∃ d, exec (.holdBack bus pfn) s = .next { s with dev := d } ∧ d.holdOk = true ∧
      d.bit ⟨R.PWR_STATUS, 0, 1⟩ = true ∧ d.bit ⟨R.PWR_EVENT, 1, 1⟩ = true ∧ d.reg R.PWR_VSENSE = BitVec.ofNat 32 (min bus 65535) ∧
      d.mem = s.dev.mem) ∧
    (s.on → s.dev.holdOk = true → below bus 1120 = true → ∃ d, exec (.holdLost bus pfn) s = .next { s with dev := d } ∧ d.holdOk = false ∧
      d.bit ⟨R.PWR_EVENT, 0, 1⟩ = true ∧
      d.reg R.PWR_HOLD_CNT = BitVec.ofNat 32 (min (2 ^ 32 - 1) ((s.dev.reg R.PWR_HOLD_CNT).toNat + 1)) ∧ d.mem = s.dev.mem) ∧
    (s.on → ∃ d, exec (.vcoreLow mv) s = .next { s with dev := d } ∧ d.reg R.PWR_VCORE = BitVec.ofNat 32 (min mv 65535) ∧
      (mv < 720 → d.bit ⟨R.PWR_EVENT, 4, 1⟩ = true) ∧ (720 ≤ mv → ∀ a, a ≠ R.PWR_VCORE → d.reg a = s.dev.reg a) ∧
      d.mem = s.dev.mem) ∧
    (s.on → exec .stagingRefresh s = .next { s with dev := { s.dev with
      cove := { s.dev.cove with staging := s.dev.stagingBytes, stagedAt := some s.dev.now2 } } }) ∧
    (s.on → s.dev.bit ⟨R.PWR_STATUS, 0, 1⟩ = true → ((vs = true ∧ below bus 1080 = true) ∨ pf = true) → ∃ d n x,
      exec (.sagDetection bus vs pf op) s = .next { s with dev := d, nv := n } ∧ d.off = true ∧ d.cove.save = some x ∧
      (x.slot = if s.dev.bit ⟨R.PWR_STATUS, 3, 1⟩ && s.dev.cfg.epochWrite.isNone then some (s.dev.fld ⟨R.PWR_JNL, 0, 9⟩) else none) ∧
      (∀ a, d.reg a = resetWord a) ∧ d.mem.cells = [] ∧ n.fuses = s.nv.fuses) ∧
    (s.dev.cove.save = some sv → s.dev.cove.resetWaits = false → ∃ d, exec (.sagHold mv us) s = .next { s with
        dev := d
        nv := (match sv.slot with
          | some i => s.nv.prog (journalSlot i) (sagBytes sv.record (min mv 65535) us)
          | none => s.nv) } ∧ d.cove.save = none ∧ d.cove.hold = true) ∧
    (s.dev.cove.hold = true → ∃ d n, exec .sagHoldEnd s = .next { s with dev := d, nv := n } ∧ d.cove.hold = false ∧
      d.glb.started = true ∧ d.cfg.epochWrite = some s.nv.epochNext) ∧
    (∃ d n, exec .vcoveLoss s = .next { s with dev := d, nv := n } ∧ d.glb.held = true ∧ (∀ a, d.reg a = resetWord a) ∧
      d.mem.cells = [] ∧ n.fuses = s.nv.fuses) ∧
    (s.on → s.dev.cove.erasing = h :: hs →
      (∃ d, exec (.journalErase true) s = .next { s with dev := d, nv := s.nv.erase (journalHalf h) halfSize } ∧
        d.cove.erasing = hs ∧ d.mem = s.dev.mem) ∧
      (∃ d n, exec (.journalErase false) s = .next { s with dev := d, nv := n } ∧ d.cove.erasing = hs ∧ n.fuses = s.nv.fuses ∧
        d.bit ⟨R.PWR_EVENT, 3, 1⟩ = true))

/-- Calibration and self-test: a sensor's average shows, as its stack's temperature too (R373), and asks for its items only under the
drift check (R478); a pending item starts when
nothing excludes it and is done once it has run (R479, R480); the store is written into its older copy (R485); BIST runs once the pipe
is empty and its results are kept through the reset that follows (R487, R488); a pace window ends PACE_WIN after it began, with the
ratio of each ring's count to its fused rate, and the next latches its settings (R23, R24, R38).
The rounding of the ratio is free, its saturation the model's choice (assumption 103).
When T_ref is taken and when CAL_DONE comes are inferences (assumptions 29 and 46). -/
def Obligations.CalibrationAndSelfTestRun : Prop :=
  ∀ (s : State) (t avg item mask ms : Nat) (dwells : List Dwell) (train : List TrainCh) (changed : Bool) (secs : List (List Byte))
    (sigs : List Nat) (rgn : List (Nat × Nat)), s.on →
    (t < 12 → (s.dev.bit ⟨R.CAL_CFG, 0, 1⟩ = false ∨ 7 ≤ t) → exec (.tsenAverage t avg) s =
      .next { s with dev := (if s.dev.sensorStack t then
          (s.dev.put (tAverage t) (avg % 65536)).stackTemp (t - 4) (toSigned 16 (avg % 65536))
        else s.dev.put (tAverage t) (avg % 65536)) }) ∧
    (16 ≤ item → item < 19 → s.dev.bit (calPending item) = true → s.dev.cal.running.contains item = false → s.dev.paused = false →
      s.dev.cal.running.any (calExcludes item) = false → exec (.calItemStart item) s =
        .next { s with dev := { s.dev with cal := { s.dev.cal with running := s.dev.cal.running ++ [item] } } }) ∧
    (16 ≤ item → item < 19 → s.dev.cal.running.contains item = true → ∃ d,
      exec (.calItemDone item dwells train changed) s = .next { s with dev := d } ∧ d.bit (calPending item) = false ∧
      d.cal.running.contains item = false ∧ d.mem.cells = s.dev.mem.cells) ∧
    (let copy := olderCopy (s.nv.storeSeq 0) (s.nv.storeSeq 1)
     let seq := nextSeq (s.nv.storeSeq 0) (s.nv.storeSeq 1)
     let bs := storeBytes s.nv.fuses.deviceId seq secs
     s.dev.cal.writing = true → s.dev.cove.flashUp = true → bs.length ≤ storeSize → ∃ d, exec (.storeWrite true secs) s = .next { s with
        dev := d, nv := (s.nv.erase (storeBase copy) 4096).prog (storeBase copy) bs } ∧ (s.dev.cal.changed = false → d.cal.writing = false) ∧
        d.reg R.CAL_STORE_SEQ = BitVec.ofNat 32 seq ∧ d.fld ⟨R.CAL_STATUS, 2, 1⟩ = copy % 2 ∧ d.bit ⟨R.CAL_STATUS, 1, 1⟩ = false ∧
        d.mem = s.dev.mem) ∧
    (s.dev.cove.bist = some (mask, 0) → s.dev.closeRest.pipeEmpty = true → ∃ d,
      exec .bistPartitionsRun s = .next { s with dev := d } ∧ d.cove.bist = some (mask, 1)) ∧
    (s.dev.cove.bist = some (mask, 1) → ∃ d n, exec (.bistDone sigs ms) s = .next { s with dev := d, nv := n } ∧
      d.cove.bist = none ∧ d.cove.bistDone = true ∧ d.mem.cells = [] ∧
      d.fld ⟨R.CAL_BIST_STATUS, 16, 16⟩ = min ms 65535 ∧ d.cfg.epochWrite.isSome = true) ∧
    (s.dev.bit ⟨R.GLB_PACE_CTRL, 0, 1⟩ = true → ∃ d, exec (.paceWindow rgn) s = .next { s with dev := d } ∧
      let win := paceWin s.dev.glb.paceCtrl
      d.glb.paceCtrl = s.dev.reg R.GLB_PACE_CTRL ∧ d.glb.paceStart = s.dev.glb.paceStart + win ∧
      d.tim = (s.dev.expire s.dev.glb.paceStart win).tim ∧ d.mem = s.dev.mem ∧
      (∀ r x, rgn[r]? = some x → r < 12 → (r ≠ 9 ∨ s.dev.variant.assay = true) →
        let k := win * tget paceRefInit s.nv.fuses.paceRef r
        let q := x.1 * 1000000 * 4096 / k
        (d.fld ⟨R.GLB_PACE_RGNn r, 0, 16⟩ = min q 65535 ∨
          (x.1 * 1000000 * 4096 % k ≠ 0 ∧ d.fld ⟨R.GLB_PACE_RGNn r, 0, 16⟩ = min (q + 1) 65535)) ∧
        d.fld ⟨R.GLB_PACE_RGNn r, 16, 8⟩ = min 100 (x.2 * 100 / win)))

/-! ### Camera ports -/

/-- The camera lanes from DETECT to ACTIVE and back (R43 to R65). The groups that a lane receives become symbols (R43), and link management
messages that check move the port through RATE, LOCK, TX_EQ, CONFIG and DESKEW as R51 has it; the sweep of a lane asks, dwells, takes the
next point and ends with the selected one (R52, R53); markers align and idle sets are checked (R44, R46, R47), CTLE freezes and resumes
(R57), eight violations within 1,024 symbols lose lock (R48); timeouts end in FAULT or try again; a margin below EYE_MIN retrains live on
SP, waits for it, or retrains the port (R58, R59); SP mirrors a lane and returns (R60), low power is entered and left (R62, R63, R65). -/
def Obligations.CameraLanesTrain : Prop :=
  ∀ (s : State) (p k : Nat) (groups : List Nat) (m : LinkMsg), s.on → p < s.dev.variant.ports → k < 5 →
    let syms := (s.dev.laneSyms p k groups).1
    let read := (s.dev.laneSyms p k groups).2
    let e := read.laneBusy p k syms.length
    let good (ty : Nat) : Prop := linkOf syms = some m ∧ m.ty = ty
    let quiet : Prop := (e.lane p k).viol.length < 8
    let st := s.dev.portState p
    let x := s.dev.cport p
    let ln := s.dev.lane p k
    let eq : Nat := R.CAM_LANEk_EQ p k
    (good 0xA → st = 1 → (k = 0 ∨ k = 4) → s.dev.fld ⟨R.CAM_CFG p, 1, 2⟩ ≤ m.a0.toNat → ∃ d,
      exec (.hello p k groups) s = .next { s with dev := d } ∧ d.portState p = 2 ∧ d.fld (spPresent p) = m.a1.toNat % 2) ∧
    (good 0xA → st = 1 → (k = 0 ∨ k = 4) → m.a0.toNat < s.dev.fld ⟨R.CAM_CFG p, 1, 2⟩ → exec (.hello p k groups) s =
      .next { s with dev := ((e.put (spPresent p) (m.a1.toNat % 2)).camFault p 2).lockCheck p k }) ∧
    (linkOf syms = none → syms ≠ [] → quiet → ∃ d, exec (.hello p k groups) s = .next { s with dev := d } ∧
      d = e.bump ⟨R.CAM_LANEk_ERR2 p k, 24, 8⟩) ∧
    (st = 1 → exec (.detectTimeout p) s = .next { s with dev := (s.dev.expire x.since 100000000).camFault p 1 }) ∧
    (good 2 → st = 2 → k = 0 → ∃ d, exec (.rateAck p k groups) s = .next { s with dev := d } ∧ d.portState p = 3) ∧
    (∀ locked, st = 3 → x.relock = false → ∃ d, exec (.lockEnd p locked) s = .next { s with dev := d } ∧ d.portState p = 4 ∧
      ∀ i ∈ s.dev.lanesThere p, (d.lane p i).locked = locked.contains i ∧ (locked.contains i = false → d.bit (laneFailBit p i) = true)) ∧
    (∀ locked, st = 3 → x.relock = true → (∀ i ∈ s.dev.lanesUsed p, locked.contains i = true) → ∃ d,
      exec (.lockEnd p locked) s = .next { s with dev := d } ∧ d.portState p = 7) ∧
    ((good 2 ∨ good 3) → (st = 4 ∨ st = 7) → m.code = k → quiet → ∀ pre post tries,
      (ln.sweep = .asked pre post m.seq.toNat tries → ∃ d, exec (.ack p k groups) s = .next { s with dev := d } ∧
        (d.lane p k).sweep = .dwell pre post (m.a0.toNat % 8) (m.a1.toNat % 16) ∧ (d.lane p k).since = s.dev.now2 ∧
        d.fld ⟨eq, 0, 3⟩ = m.a0.toNat % 8 ∧ d.fld ⟨eq, 4, 4⟩ = m.a1.toNat % 16 ∧ d.mem = s.dev.mem) ∧
      (ln.sweep = .last pre post m.seq.toNat tries → ∃ d, exec (.ack p k groups) s = .next { s with dev := d } ∧
        (d.lane p k).sweep = .done ∧ (d.lane p k).works = true ∧
        d.fld ⟨eq, 0, 3⟩ = m.a0.toNat % 8 ∧ d.fld ⟨eq, 4, 4⟩ = m.a1.toNat % 16 ∧ d.mem = s.dev.mem)) ∧
    (∀ pre post seq tries, ln.sweep = .asked pre post seq tries →
      (tries < 3 → ∃ d, exec (.reqTimeout p k) s = .next { s with dev := d } ∧
        (d.lane p k).sweep = .asked pre post seq (tries + 1) ∧ (∀ a, a ≠ R.TIM_TB3_SLEW → d.reg a = s.dev.reg a) ∧ d.mem = s.dev.mem) ∧
      (3 ≤ tries → exec (.reqTimeout p k) s = .next { s with dev := (s.dev.expire ln.since 4000).laneFail p k })) ∧
    (∀ pre post a b margin ctle viol pre' post', ln.sweep = .dwell pre post a b →
      nextPoint ln.naks 129 (pre * 16 + post + 1) = some (pre', post') → ∃ d,
        exec (.dwellEnd p k margin ctle viol) s = .next { s with dev := d } ∧ (∃ q, (d.lane p k).sweep = .asked pre' post' q 0) ∧
        (d.lane p k).best = some (betterPoint margin a b ln.best) ∧ d.fld ⟨eq, 8, 4⟩ = ctle % 16 ∧ d.fld ⟨eq, 16, 8⟩ = min margin 255 ∧
        d.tim = (s.dev.expire ln.since 250000).tim ∧ d.mem = s.dev.mem) ∧
    (st = 4 → (∀ i ∈ s.dev.lanesThere p, (s.dev.lane p i).works = true ∧ (s.dev.lane p i).sweep.over = true) →
      exec (.sweepEnd p) s = .next { s with dev := s.dev.camChoose p }) ∧
    (let use := s.dev.lanesUsed p
     let at_ (i : Nat) : Nat := if i < use.length then use.getD i 0 else 0
     good 5 → st = 5 → use.contains k = true → m.a0.toNat = use.length → m.a1.toNat = at_ 0 + 16 * at_ 1 →
      m.a2.toNat = at_ 2 + 16 * at_ 3 → quiet → ∃ d, exec (.doneAck p k groups) s = .next { s with dev := d } ∧
        k ∈ (d.cport p).acked ∧ d.portState p = (if use.all (fun i => i == k || x.acked.contains i) then 6 else 5)) ∧
    (st = 5 → x.dones < 8 → ∃ d, exec (.doneRetry p) s = .next { s with dev := d } ∧ (d.cport p).dones = x.dones + 1 ∧
      (∀ a, a ≠ R.TIM_TB3_SLEW → d.reg a = s.dev.reg a) ∧ d.mem = s.dev.mem) ∧
    (st = 5 → 8 ≤ x.dones → exec (.doneRetry p) s = .next { s with dev := (s.dev.expire x.doneAt 10000).camFault p 6 }) ∧
    (∀ (lb c ch : Byte) (t g0 g1 g2 g3 : Nat), st = 6 ∨ st = 7 → groups = [g0, g1, g2, g3] →
      syms = [.ctl kMarker, .data lb, .data c, .data ch] →
      (ch = ~~~(lb ^^^ c) → (∀ c0 t0, ln.marker = some (c0, t0) → t - t0 < 24576 ∧ c.toNat = (c0 + 1) % 256) →
        (k = 4 → read.copyByte p lb.toNat = true) → exec (.alignmentMarker ⟨p, k⟩ g0 g1 g2 g3 t) s =
        .next { s with dev := (
          let d := read.setLane p k { read.lane p k with marker := some (c.toNat, t) }
          ((if (s.dev.lanesUsed p).contains k then d.alignLanes p else d).mirrorSeen p).lockCheck p k) }) ∧
      (ch ≠ ~~~(lb ^^^ c) → exec (.alignmentMarker ⟨p, k⟩ g0 g1 g2 g3 t) s =
        .next { s with dev := ((read.bump ⟨R.CAM_LANEk_ERR2 p k, 16, 8⟩).laneFail p k).lockCheck p k })) ∧
    (st = 6 → exec (.deskewDone p) s =
      .next { s with dev := (if 4 ≤ x.agree then s.dev.camActive p true else s.dev.deskewFail p) }) ∧
    (∀ (b0 b1 b2 : Byte) (g0 g1 g2 g3 : Nat), groups = [g0, g1, g2, g3] →
      syms = [.ctl kIdle, .data b0, .data b1, .data b2] → quiet → ∃ d,
      exec (.idleOrderedSet ⟨p, k⟩ g0 g1 g2 g3) s = .next { s with dev := d } ∧
      (ln.prbs15 = none → (d.lane p k).prbs15 = some (prbs15Seed (leNat [b0, b1, b2])) ∧ d.regs = read.regs) ∧
      (d.lane p k).prbs15.isSome = true ∧ (d.lane p k).idles = (if st = 7 then ln.idles + 1 else 0) ∧
      (∀ a, a ≠ R.CAM_LANEk_ERR2 p k → a ≠ R.CAM_LANEk_ERR p k → d.reg a = s.dev.reg a) ∧ d.mem = s.dev.mem) ∧
    (st = 7 → 256 ≤ ln.idles → exec (.ctleFreeze p k) s =
      .next { s with dev := (s.dev.setLane p k { ln with busy := 0 }).put ⟨eq, 12, 1⟩ 1 }) ∧
    (64 ≤ ln.busy → exec (.ctleResume p k) s = .next { s with dev := (s.dev.setLane p k { ln with idles := 0 }).put ⟨eq, 12, 1⟩ 0 }) ∧
    (4 ≤ st → st ≤ 7 → (e.lane p k).viol.length = 8 → (e.lane p k).viol.headD 0 - (e.lane p k).viol.getD 7 0 < 1024 →
      exec (.lossOfLock p k groups false) s = .next { s with
        dev := (e.setLane p k { e.lane p k with viol := [] }).laneFail p k }) ∧
    (st = 6 ∨ st = 7 → quiet → exec (.lossOfLock p k groups true) s = .next { s with dev := e.laneFail p k }) ∧
    (∀ margin, st = 7 → (s.dev.lanesUsed p).contains k = true →
      let seen := s.dev.put ⟨eq, 16, 8⟩ (min margin 255)
      (s.dev.fld ⟨R.CAM_CTRL p, 8, 8⟩ ≤ margin → exec (.retrainReq p k margin) s = .next { s with dev := seen }) ∧
      (margin < s.dev.fld ⟨R.CAM_CTRL p, 8, 8⟩ →
        (k < 4 → s.dev.spFree p = true → x.spWait = [] → ∃ d, exec (.retrainReq p k margin) s = .next { s with dev := d } ∧
          (d.cport p).spHolder = some (.retrain k) ∧ (d.cport p).mirror = some (k, false) ∧ d.bit (spBusy p) = true ∧
          d.fld ⟨eq, 16, 8⟩ = min margin 255 ∧ d.mem = s.dev.mem) ∧
        (k < 4 → s.dev.spForRetrain p = true → (s.dev.spFree p = false ∨ x.spWait ≠ []) → ∃ d,
          exec (.retrainReq p k margin) s = .next { s with dev := d } ∧ (d.cport p).spWait = x.spWait ++ [.retrain k] ∧
          d.mem = s.dev.mem) ∧
        (s.dev.spForRetrain p = false → exec (.retrainReq p k margin) s =
          .next { s with dev := (seen.camEvent p 2).camRelock p }))) ∧
    (st = 10 → s.dev.bit ⟨R.CAM_CFG p, 3, 1⟩ = true → exec (.faultRetry p) s =
      .next { s with dev := (s.dev.expire x.since 1000000000).camDetect p }) ∧
    (∀ i hs, x.spWait = .retrain i :: hs → s.dev.spFree p = true → exec (.spGrant p) s =
      .next { s with dev := (s.dev.setCport p { x with spWait := hs }).spTake p (.retrain i) i }) ∧
    (∀ i, x.mirror = some (i, false) →
      ((s.dev.lane p 4).works = true → 4 ≤ x.mirrorAgree → ∃ d, exec (.spareMirror p) s = .next { s with dev := d } ∧
        (d.cport p).mirror = some (i, true) ∧ d.mem = s.dev.mem) ∧
      (x.mirrorAgree < 4 → exec (.spareMirror p) s = .next s)) ∧
    (∀ i h, x.mirror = some (i, true) → x.spHolder = some (.retrain h) → (s.dev.lane p i).sweep.over = true → ∃ d,
      exec (.spareReturn p false) s = .next { s with dev := d } ∧ (d.cport p).mirror = none ∧ (d.cport p).spHolder = none ∧
      d.bit (spBusy p) = false ∧ d.mem = s.dev.mem) ∧
    (st = 7 → s.dev.bit ⟨R.CAM_CFG p, 4, 1⟩ = true → s.dev.still s.dev.lss = true → exec (.lpIdleT p) s =
      .next { s with dev := (s.dev.expire (max x.lineAt x.since) (s.dev.lpIdleNs p)).lpRequest p (1 + s.dev.fld ⟨R.CAM_CFG p, 5, 1⟩) }) ∧
    (∀ r, (r = 1 ∨ r = 2) → good (5 + r) → st = 7 → x.lpAsked = some r → x.lpExit = false → ∃ d,
      exec (.ebbEnter p k groups) s = .next { s with dev := d } ∧ d.portState p = 7 + r ∧ (d.cport p).lpAsked = none) ∧
    (st = 8 → ∃ d, exec (.lpExit p) s = .next { s with dev := d } ∧ d.portState p = 7) ∧
    (st = 9 → ∃ d, exec (.lpExit p) s = .next { s with dev := d } ∧ d.portState p = 3 ∧ (d.cport p).relock = true)

/-! ### Packets, matching, stripes and the Seam unit -/

/-- A port that receives takes the symbols of its lanes through the ordered sets and the lane map, and frames the stream, whatever row the
packet was sent as (R43 to R48, R68); one that does not takes none. Symbols from SOP to EOP are one packet, and zeros before it are
gap (R68, R71). A packet received (`Dev.receive`): a line start of a mapped channel opens its line with count, exposure and context (R76,
R108, Table 4-2); pixels at or behind the last end go on the line (R77, R79), those before it only count (OFFSET_ERR); a line end closes the
line (R77, R78); a status packet shows its words (R84); a vendor packet is kept (R85); a reply with the tag ends its command (R87).
A line times out 1 ms after its last packet and closes (R80); 10 µs after a command without a reply it is sent again, three times,
then it ends (R89); LINE_WAIT moves E on (R109); RESYNC_N ORPHANs in a row bring a resync (R110). -/
def Obligations.PacketsAndTheirTimersAct : Prop :=
  ∀ (s : State) (h : Dev) (p c v : Nat) (k : VlpSyms) (q : VlpPacket), s.on → p < s.dev.variant.ports →
    let ss := (s.dev.streamOf p k).1
    let g := (s.dev.streamOf p k).2
    let rows : List Instr := [.lineStart p k, .pixelPacket p k, .lineEnd p k, .statusPacket p k, .vendorPkt p k, .backChannelReply p k]
    let w := (h.vcSeen p q.vc).vcSeq p q.vc q.seq
    let port (dt : Nat) : Prop := q.framed = true ∧ q.dt = dt ∧ q.hdrOk = true ∧ lenRule dt q.len q.payload = true ∧ q.payOk = true
    let vc (dt : Nat) : Prop := port dt ∧ h.discards = false ∧ h.vcListens p q.vc = true
    (s.dev.hears p → ∀ i ∈ rows, exec i s = .next { s with
      dev := (List.range 5).foldl (fun d i => d.lockCheck p i) (ss.foldl (fun d x => d.rxSym p x) g) }) ∧
    (¬ s.dev.hears p → ∀ i ∈ rows, exec i s = .next s) ∧
    (∀ n, g.portState p = 7 → (g.cport p).part = none → q.bytes.length ≤ 8206 → ss = List.replicate n (.data 0) ++ q.symbols →
      ss.foldl (fun d x => d.rxSym p x) g = (g.setPartial p none).receive p q) ∧
    (vc 0x01 → h.receive p q = w.lineStart p q.vc q.payload) ∧
    (∀ l, vc (0x10 + h.ctxFormat (h.vcCtx p q.vc)) → (w.vcRx p q.vc).line = some l →
      (l.end_ ≤ q.offset → ∃ l', ((h.receive p q).vcRx p q.vc).line = some l' ∧ l'.ctx = l.ctx ∧ l'.num = l.num ∧ l'.slot = l.slot ∧
        l'.mis = l.mis ∧ l'.end_ = q.offset + q.payload.length * 8 / bitsPerPixel (w.ctxFormat l.ctx) ∧
        l'.digest = BitVec.ofNat 32 (crc32cFold l.digest.toNat q.payload)) ∧
      (q.offset < l.end_ → h.receive p q = w.bump (offsetErr p))) ∧
    (∀ l, vc 0x02 → (w.vcRx p q.vc).line = some l → h.receive p q =
      w.closeLine p q.vc true (fieldAt q.payload 0 4 == l.digest.toNat ^^^ 0xFFFFFFFF)) ∧
    (port 0x20 → h.receive p q = h.statusPacket p q.payload ∧
      (fieldAt q.payload 2 2 / 8 % 2 = 1 → (h.receive p q).mem = h.mem ∧ (h.receive p q).bit ⟨R.CAM_VLP_STATUS p, 1, 1⟩ = true ∧
        ∀ i, i < 4 → (h.receive p q).reg (R.CAM_CAMSTATi p i) = BitVec.ofNat 32 (fieldAt q.payload (4 * i) 4))) ∧
    (port 0x3F → ((h.receive p q).cport p).vendor = q.payload.take 256 ∧
      (h.receive p q).bit ⟨R.CAM_VLP_EVENT p, 4, 1⟩ = true ∧ (h.receive p q).mem = h.mem) ∧
    (∀ a as, port 0x30 → (h.cport p).bc = a :: as → a.sent = true → q.seq = a.tag → (fieldAt q.payload 0 2 = 3 → a.use.disc = false) →
      h.receive p q = h.bcEnd p (some (fieldAt q.payload 0 2,
        (List.range (fieldAt q.payload 2 2)).map (fun i => fieldAt q.payload (4 + 4 * i) 4)))) ∧
    (∀ l, v < 4 → (s.dev.vcRx p v).line = some l → exec (.lineTimeout p v) s = .next { s with
      dev := (s.dev.expire (s.dev.vcRx p v).lastAt 1000000).closeLine p v false false }) ∧
    (∀ l, v < 4 → (h.vcRx p v).line = some l → l.slot = none →
      let d := h.closeLine p v false false
      (d.vcRx p v).line = none ∧ d.bit ⟨R.CAM_VLP_STATUS p, 8 + v, 1⟩ = false ∧ d.mem = h.mem) ∧
    (∀ a as, (s.dev.cport p).bc = a :: as → a.sent = true →
      let d0 := s.dev.expire a.at_ 10000
      (a.resends < 3 → exec (.bcReplyTimeout p) s = .next { s with dev := d0.bcAgain p }) ∧
      (3 ≤ a.resends → exec (.bcReplyTimeout p) s = .next { s with
        dev := ((d0.bump ⟨R.CAM_BC_ERR p, 16, 16⟩).vlpEvent p 3).bcEnd p none })) ∧
    (∀ a as, (h.cport p).bc = a :: as →
      ((h.bcAgain p).cport p).bc =
        { a with sent := true, resends := a.resends + 1, at_ := h.now2 + 8 * ((bcPacket a.code a.tag a.payload).length + 2) } :: as ∧
      (h.pins.boundary = 0 → (h.bcAgain p).glb.out.head? = some (.backChannel p (bcPacket a.code a.tag a.payload))) ∧
      (∀ x, x ≠ R.CAM_BC_ERR p → (h.bcAgain p).reg x = h.reg x) ∧ (h.bcAgain p).mem = h.mem) ∧
    (∀ e, c < s.dev.variant.contexts → s.dev.ctxEn c = true → s.dev.ctxDark c = false → (s.dev.ctxRx c).e = some e →
      ((s.dev.reg (R.TDL_TRIGn_COUNT (s.dev.ctxTrig c))).toNat + 2 ^ 32 - e) % 2 ^ 32 < 2 ^ 31 →
      ∃ d, exec (.lineWait c) s = .next { s with dev := d } ∧ (d.ctxRx c).e = some ((e + 1) % 2 ^ 32) ∧ e ∈ (d.ctxRx c).late) ∧
    (let n := s.dev.fld ⟨R.CTX_MATCH_CFG c, 16, 8⟩
     c < s.dev.variant.contexts → 0 < n → n ≤ (s.dev.ctxRx c).orphans → ∃ d, exec (.resync c) s = .next { s with dev := d } ∧
      (d.ctxRx c).orphans = 0 ∧ (d.cport (s.dev.ctxPort c)).resync = true ∧ d.mem = s.dev.mem)

/-- A strand that is idle takes the waiting stripe with the earliest completion point (R113), processes it and is idle again (R116);
the expiry of FLUSH_T notes a partial stripe (R114); a column frozen for FREEZE_MAX lines takes its sample as the new baseline
(R135). The Seam unit takes an output line (R165); a stripe whose wait timer expires is given up for the members that have not
delivered (R166); a member becomes blind (R168, R169); a released history slot lets waiting lines go on (R178). All of them act while
the device is not frozen and no block they read freezes it; one that does freezes the device instead (R4, R13).
That history is written at the emission is an inference (assumption 101). -/
def Obligations.StripesPassTheStrandAndTheSeam : Prop :=
  ∀ (s : State) (t c m n x : Nat) (k : Int) (bl df tr : List Nat) (rs : Bool), s.on → s.dev.memFrozen = false →
    (∀ o, t < 4 → tget noneAt s.dev.str.now t = none → s.dev.stripeNext t = some o → (s.dev.stripeStart t).memFrozen = false → ∃ d o',
      exec (.stripeStart t) s = .next { s with dev := d } ∧ tget noneAt d.str.now t = some o' ∧
      o'.ctx = o.ctx ∧ o'.n = o.n ∧ o'.skip = o.skip ∧ o'.doneAt = o.doneAt ∧ o'.isPart = o.isPart ∧
      (∃ i, i / 8 = t ∧ o ∈ s.dev.ctxWaiting i) ∧
      (∀ i, i / 8 = t → ∀ y ∈ s.dev.ctxWaiting i, o.doneAt < y.doneAt ∨ (o.doneAt = y.doneAt ∧ o.ctx ≤ y.ctx))) ∧
    (∀ o, t < 4 → tget noneAt s.dev.str.now t = some o → (s.dev.stripeEnd t bl df tr rs).memFrozen = false → ∃ d,
      exec (.stripeEnd t bl df tr rs) s = .next { s with dev := d } ∧
      tget noneAt d.str.now t = none ∧ d.bit ⟨R.STR_STATUS t, 11, 1⟩ = false) ∧
    (∀ req b syn, t < 4 → (s.dev.stripeEnd t bl df tr rs).memFrozen = true →
      (s.dev.stripeEnd t bl df tr rs).mem.froze = some (req, b, syn) →
      exec (.stripeEnd t bl df tr rs) s = .next { s with dev := s.dev.freeze req b syn }) ∧
    (∀ e, s.dev.ctxEn c = true → s.dev.fld ⟨R.CTX_MATCH_CFG c, 24, 8⟩ ≠ 0 → (s.dev.flushFront c).getLast? = some e →
      (s.dev.flush c).memFrozen = false →
      let d0 := s.dev.expire ((s.dev.flushFront c).foldl (fun m e => max m (e.closeT.getD 0)) 0)
        (s.dev.fld ⟨R.CTX_MATCH_CFG c, 24, 8⟩ * 1000000)
      ∃ d, exec (.flush c) s = .next { s with dev := d } ∧
        (d.ctxRx c).flushes = (d0.ctxRx c).flushes ++ [(d0.now2, e.slot)] ∧ d.mem = d0.mem) ∧
    (let y := tget colInit (s.dev.ctxStr c).cols n
     let p := { s.dev.trkSet c 0 false with
       frozen := s.dev.bit ⟨R.BL_CTRL c, 0, 1⟩ || s.dev.bit ⟨R.BL_STATUS c, 0, 1⟩ || s.dev.bit ⟨R.BL_STATUS c, 2, 1⟩ }
     s.dev.ctxEn c = true → s.dev.ctxRuns c = true → s.dev.actFld ⟨R.CORR_CFG c, 6, 1⟩ = 1 → n < s.dev.outW c →
      (s.dev.remapOf c (s.dev.readTables c).1.remap n).isSome = true → p.acquire = false → y.uninit = false → p.frozen = false →
      p.max_ ≠ 0 → 0 < y.hold → p.max_ ≤ min (y.run + 1) 0xFFFFF → ∃ d,
      exec (.freezeTimeout c n x) s = .next { s with dev := d } ∧
      tget colInit (d.ctxStr c).cols n = { b := x % 65536 * 65536, hold := 0, run := 0, uninit := false } ∧
      (∀ a, a ≠ R.BL_FRZ_TO_CNT c → a ≠ R.CORR_EVENT c → d.reg a = s.dev.reg a) ∧ d.mem = s.dev.mem) ∧
    (∀ l ls, s.dev.ctxEn c = true → s.dev.mosEn (s.dev.ctxMosaic c) = true → tget (fun _ => []) s.dev.str.outs c = l :: ls →
      s.dev.seamStalled (s.dev.ctxMosaic c) (l.k / 64) = false → s.dev.slotHolder (s.dev.ctxMosaic c) (l.k / 64) = none →
      l.row ≠ 63 → l.flush = false → ∃ d,
        exec (.delivery c 1) s = .next { s with dev := d } ∧ tget (fun _ => []) d.str.outs c = ls ∧
        (d.seamMos (s.dev.ctxMosaic c)).lines c = (s.dev.seamMos (s.dev.ctxMosaic c)).lines c ++ [l] ∧
        d.regs = s.dev.regs ∧ d.mem = s.dev.mem) ∧
    (∀ at_, s.dev.mosEn m = true → ((s.dev.seamMos m).pendOf k).timer = some at_ → ((s.dev.seamMos m).pendOf k).expired = false →
      (s.dev.memberLate m k).memFrozen = false →
      let d0 := s.dev.expire at_ (s.dev.seamWait m)
      let y := d0.seamMos m
      let out := (d0.liveMembers m).filter (fun i => !(y.pendOf k).dlv.contains i)
      exec (.memberTimeout m k) s = .next { s with
        dev := (out.foldl (fun d _ => ((d.bump ⟨R.SEAM_TIMEOUT_CNT m, 0, 32⟩).seamEvent m 0).raise 0x3 (8 * m))
          (d0.setSeamMos m (y.setPend { y.pendOf k with expired := true, out := out }))).seamGo m }) ∧
    (let e := s.dev.ctxMosaic c
     s.dev.mosEn e = true → s.dev.ctxEn c = true →
      (s.dev.ctxDark c = true ∨ (s.dev.blindN e ≠ 0 ∧ s.dev.blindN e ≤ tget (fun _ => 0) (s.dev.seamMos e).runs c)) →
      ((s.dev.goBlind e c).seamGo e).memFrozen = false →
      exec (.memberBlind c) s = .next { s with dev := (s.dev.goBlind e c).seamGo e }) ∧
    (s.dev.mosEn m = true → (s.dev.seamGo m).memFrozen = false → exec (.histStallEnd m) s = .next { s with dev := s.dev.seamGo m })

/-- An engine labels its oldest unit: its fragments are kept with the unit and counted, with the bands that read in error or dropped pixels
(R186, R187, R194); the first engine settles the oldest unit that every band has labelled (R188); a track that has reached MAX_MD_LINES is
cut (R191); STILL_CLOSE_T after the last hand-over every open track closes with STILL_CLOSED (R192). A job that is not ready proceeds padded
(R203); Assay takes a job, of which the deadline has passed or not, and holds the settings of the take (R213, R214, R218); a result on time
completes its record and a late one is counted (R214); a deadline ends a running job's record with ASSAY_DEADLINE (R214); errors of weight
SRAM count, and the slot reloads from its copy (R217). All of them act while the device is not frozen and nothing they read
freezes it (R4). Which element is handed out is the model's choice (assumption 16). -/
def Obligations.LodeAndAssayWork : Prop :=
  ∀ (s : State) (e m b i n : Nat), s.on → s.dev.memFrozen = false →
    (∀ it, s.dev.engineBand e = some (m, b) →
      (s.dev.lodeMos m).items.find? (fun it => (tget noneAt it.done b).isNone) = some it → (s.dev.unitLabelled e).memFrozen = false →
      let r := s.dev.labelUnit m b it
      ∃ d, exec (.unitLabelled e) s = .next { s with dev := d } ∧
        (d.lodeMos m).items = mapFirst (fun i => (tget noneAt i.done b).isNone)
          (fun _ => { it with done := tset noneAt it.done b (some r.1), memErr := it.memErr ++ (if r.2.2.1 then [b] else []),
                              ovf := it.ovf ++ (if r.2.1 = 0 then [] else [b]) }) (r.2.2.2.lodeMos m).items) ∧
    (∀ it rest stalled, s.dev.mosEn m = true → (s.dev.lodeMos m).items = it :: rest → s.dev.labelled m it = true →
      (s.dev.settle m stalled).memFrozen = false →
      exec (.settlement m stalled) s = .next { s with dev := s.dev.settle m stalled }) ∧
    (∀ t, s.dev.mosEn m = true → maxMdLines (s.dev.judgedBy m) ≠ 0 →
      (s.dev.openTracks m).filter (fun t => decide (maxMdLines (s.dev.judgedBy m) ≤ t.acc.lines)) = [t] →
      s.dev.trackOf t.q = some t → (s.dev.cut t).memFrozen = false → exec (.cut m) s = .next { s with dev := s.dev.cut t }) ∧
    (∀ at_, s.dev.mosEn m = true → s.dev.actFld ⟨R.LODE_STILL_CLOSE m, 0, 16⟩ ≠ 0 → (s.dev.lodeMos m).lastHand = some at_ →
      (s.dev.lodeMos m).items = [] → (s.dev.stillEnd m).memFrozen = false →
      let d0 := s.dev.expire at_ (s.dev.actFld ⟨R.LODE_STILL_CLOSE m, 0, 16⟩ * 1000000)
      d0.openTracks m ≠ [] → exec (.stillClose m) s = .next { s with
        dev := ((((d0.setLodeMos m { d0.lodeMos m with lastHand := none }).closeAll (d0.openTracks m) 128).lodeEvent m 2).raise
          0x3 (8 * m + 3)) }) ∧
    (s.dev.variant.assay = true →
      (∀ j, (s.dev.asyJobs m)[i]? = some j → s.dev.jobReady m j = false → (s.dev.padEnd m i).memFrozen = false →
        let d0 := s.dev.expire j.queueT s.dev.padWait
        exec (.padWait m i) s = .next { s with
          dev := (d0.setJobs m ((d0.asyJobs m).set i { j with padded := true })).bump ⟨R.ASY_PAD_CNT, 0, 32⟩ }) ∧
      (∀ j err d1, s.dev.asy.run = none → s.dev.nextJob = some (m, i, j) →
        (s.dev.keepMax ⟨R.ASY_WAIT_MAX, 0, 24⟩ ((s.dev.now2 - j.queueT) / 1000)).jobLeave m i j = (true, err, d1) →
        (d1.deadline ≤ d1.now2 - j.queueT → (d1.unassayed j.summ m 1 j.padded err).memFrozen = false →
          exec .assayTake s = .next { s with dev := d1.unassayed j.summ m 1 j.padded err }) ∧
        (∀ net patch d, d1.now2 - j.queueT < d1.deadline → d1.bit (asyCommit m) = false → d1.asyNet (d1.asyFld m 1 2) = some net →
          d1.patchRead (netN net.blob) j.padded (d1.jobFields m j net) = (patch, .ok, d) → d.memFrozen = false → ∃ d',
          exec .assayTake s = .next { s with dev := d' } ∧ d'.mem = d.mem ∧
          ∃ r, d'.asy.run = some r ∧ r.mos = m ∧ r.job = j ∧ r.patch = patch ∧ r.late = false ∧ r.memErr = err ∧
            r.nsize = blobByte net.blob 7 ∧
            r.answer.cls = (netAnswer net.blob patch).1.1 ∧ r.answer.conf = (netAnswer net.blob patch).1.2.1)) ∧
      (∀ r, s.dev.asy.run = some r → r.late = true → ∃ d, exec .result s = .next { s with dev := d } ∧ d.asy.run = none ∧
        d.fld ⟨R.ASY_LATE_CNT, 0, 32⟩ = min (2 ^ 32 - 1) (s.dev.fld ⟨R.ASY_LATE_CNT, 0, 32⟩ + 1) ∧ d.mem = s.dev.mem) ∧
      (∀ r, s.dev.asy.run = some r → r.late = false → r.keeps = false → s.dev.asyResult.memFrozen = false →
        exec .result s = .next { s with
          dev := (({ s.dev with asy := { s.dev.asy with run := none } }).bump ⟨R.ASY_JOB_CNT, 0, 32⟩).recComplete r.job.summ r.mos
            r.answer.cls r.answer.conf 0 r.job.padded r.memErr 0xFFFFFFFF }) ∧
      (∀ r, s.dev.asy.run = some r → r.late = false → s.dev.oldestJob = none → s.dev.asyDeadline.memFrozen = false →
        let d0 := s.dev.expire r.job.queueT s.dev.deadline
        exec .assayDeadline s = .next { s with
          dev := { d0 with asy := { d0.asy with run := some { r with late := true } } }.unassayed r.job.summ r.mos 1 r.job.padded
            r.memErr }) ∧
      (s.dev.asyNet n ≠ none → exec (.sramErr n true) s = .next { s with dev := s.dev.bump ⟨R.ASY_SRAM_ERR_CNT, 0, 16⟩ }) ∧
      (n < 4 → s.dev.asyNet n ≠ none → (s.dev.sramErr n).memFrozen = false →
        ∃ d, exec (.sramErr n false) s = .next { s with dev := d } ∧ d.bit (slotReloading n) = true ∧
        (s.dev.asy.run = none →
          d.fld ⟨R.ASY_SRAM_ERR_CNT, 16, 16⟩ = min 65535 (s.dev.fld ⟨R.ASY_SRAM_ERR_CNT, 16, 16⟩ + 1))) ∧
      (∀ net bs d, n < 4 → s.dev.asyNet n = some net → s.dev.bit (slotReloading n) = true →
        s.dev.memRead 0x04 (s.dev.netPlace n) net.blob.length = (bs, false, d) → d.memFrozen = false →
        exec (.slotReload n) s = .next { s with dev := (d.setNet n (some { net with blob := bs })).put (slotReloading n) 0 }))

/-! ### Tideline -/

/-- Encoder edges are counted by MODE and drive their counters (R246, R255), two edges closer than ILL_T count as illegal (R247), wire
faults hold their pair and clear (R248), Z latches (R249), Hall changes step or count in error (R250), an SSI port clocks a frame,
takes the word that passes its checks, and drops a late one (R251 to R254), STANDSTILL_T stills a counter and cancels its schedules (R260,
R262), scheduled and timed firings fire (R266, R268), and SYNC_IN pulses step, mark or err by their width (R275). -/
def Obligations.TidelineInputsAct : Prop :=
  ∀ (s : State) (n line t acc : Nat), s.on →
    (∀ lineB level, n < 4 → s.dev.encTakes n (if lineB then 1 else 0) = true →
      s.dev.bit (if lineB then encB n else encA n) = !level →
      let f := s.dev.putBit (if lineB then encB n else encA n) level
      let c0 := edgeCount (s.dev.encMode n) lineB level (s.dev.bit (if lineB then encA n else encB n))
      let c := if s.dev.bit ⟨R.TDL_ENCn_CFG n, 5, 1⟩ then -c0 else c0
      (c = 0 → exec (.encoderEdge n lineB level t acc none) s = .next { s with dev := f }) ∧
      (c ≠ 0 → ∃ d, exec (.encoderEdge n lineB level t acc none) s = .next { s with dev := d } ∧ d = f.encCounted n c t acc ∧
        ∀ j, s.dev.drivenBy n = [j] → s.dev.cmpsOn j = [] → s.dev.bit ⟨R.TDL_POSn_CFG j, 4, 1⟩ = false →
          s.dev.bit ⟨R.TDL_POSn_CFG j, 5, 1⟩ = false → d.posOf j = toSigned 64 (ofSigned 64 (s.dev.posOf j + c * 256)))) ∧
    (∀ lineB level t2, n < 4 → s.dev.encTakes n (if lineB then 1 else 0) = true →
      (if t ≤ t2 then t2 - t else t - t2) + 8 ≤ s.dev.illT n → ∃ d,
      exec (.encoderEdge n lineB level t acc (some t2)) s = .next { s with dev := d } ∧
      d.bit (encA n) = !s.dev.bit (encA n) ∧ d.bit (encB n) = !s.dev.bit (encB n) ∧
      d.fld ⟨R.TDL_ENCn_ERR n, 0, 8⟩ = min 255 (s.dev.fld ⟨R.TDL_ENCn_ERR n, 0, 8⟩ + 1) ∧ d.mem = s.dev.mem) ∧
    (n < 4 → s.dev.tdlEn = true → s.dev.bit ⟨R.TDL_ENCn_CFG n, 0, 1⟩ = true → s.dev.bit ⟨R.TDL_ENCn_CFG n, 1, 1⟩ = false →
      line ∉ (s.dev.encIn n).faults → ∃ d, exec (.wireFault n line) s = .next { s with dev := d } ∧
        (d.encIn n).faults = line :: (s.dev.encIn n).faults ∧ d.bit ⟨R.TDL_ENCn_STATUS n, 3, 1⟩ = true ∧
        d.fld ⟨R.TDL_ENCn_ERR n, 24, 8⟩ = min 255 (s.dev.fld ⟨R.TDL_ENCn_ERR n, 24, 8⟩ + 1) ∧ d.mem = s.dev.mem) ∧
    (n < 4 → line ∈ (s.dev.encIn n).faults → ∃ d, exec (.wireFaultClear n line) s = .next { s with dev := d } ∧
      (d.encIn n).faults = (s.dev.encIn n).faults.filter (· != line) ∧
      d.bit ⟨R.TDL_ENCn_STATUS n, 3, 1⟩ = !(d.encIn n).faults.isEmpty ∧
      (∀ a, a ≠ R.TDL_ENCn_STATUS n → d.reg a = s.dev.reg a) ∧ d.mem = s.dev.mem) ∧
    (∀ level, n < 4 → s.dev.encTakes n 2 = true → s.dev.bit (encZ n) = !level → exec (.zEdge n level t) s = .next { s with
      dev := (let d := s.dev.putBit (encZ n) level
              if level && s.dev.zQualified n then ((d.zCheck n).zAct n).raise 0x5 (56 + n) else d) }) ∧
    (∀ u v w, let was := s.dev.fld ⟨R.TDL_HALL_STATUS, 0, 3⟩
      let now := (if u then 4 else 0) + (if v then 2 else 0) + (if w then 1 else 0)
      let d := (s.dev.put ⟨R.TDL_HALL_STATUS, 0, 3⟩ now).putBit ⟨R.TDL_HALL_STATUS, 3, 1⟩ (hallIndex now).isSome
      s.dev.tdlEn = true → s.dev.bit ⟨R.TDL_HALL_CFG, 0, 1⟩ = true → was ≠ now →
      (hallIndex now = none → exec (.hallTransition u v w t acc) s =
        .next { s with dev := ((d.bump ⟨R.TDL_HALL_ERR, 0, 16⟩).tdlEvent 0).raise 0x5 68 }) ∧
      (hallIndex was = none → hallIndex now ≠ none → exec (.hallTransition u v w t acc) s = .next { s with dev := d }) ∧
      (∀ i j, hallIndex was = some i → hallIndex now = some j → exec (.hallTransition u v w t acc) s = .next { s with dev := (
        let way : Int := if s.dev.bit ⟨R.TDL_HALL_CFG, 2, 1⟩ then -1 else 1
        if j = (i + 1) % 6 then d.sourceStep 4 way t acc
        else if i = (j + 1) % 6 then d.sourceStep 4 (-way) t acc
        else ((d.bump ⟨R.TDL_HALL_ERR, 16, 16⟩).tdlEvent 0).raise 0x5 68) })) ∧
    (∀ idle, n < 2 → s.dev.ssiOn n = true →
      let d0 := match (s.dev.ssiPort n).began with
        | none => s.dev
        | some b => s.dev.expire b (1000 * max 1 (s.dev.fld ⟨R.TDL_SSIn_TIMING n, 0, 16⟩))
      ∃ d, exec (.ssiPeriod n idle t) s = .next { s with dev := d } ∧
        (d.ssiPort n).reading = some t ∧ (d.ssiPort n).idle = idle ∧ (d.ssiPort n).began = some d0.now2 ∧
        d.glb = (if idle then d0.ssiFrame n else d0).glb ∧ d.regs = d0.regs ∧ d.mem = d0.mem) ∧
    (∀ word errBit check at_,
      let len := s.dev.ssiLen n
      let x := word % 2 ^ len
      let errOn := s.dev.bit ⟨R.TDL_SSIn_CFG n, 9, 1⟩
      let v := if s.dev.bit ⟨R.TDL_SSIn_CFG n, 7, 1⟩ then grayDecode len x else x
      n < 2 → (s.dev.ssiPort n).reading = some at_ → (s.dev.ssiPort n).idle = true →
      (errOn = true → (errBit == 1) = !s.dev.bit ⟨R.TDL_SSIn_CFG n, 10, 1⟩) →
      (s.dev.bit ⟨R.TDL_SSIn_CFG n, 11, 1⟩ = true → crc6 (bitsMsb len x ++ if errOn then [errBit == 1] else []) = check % 64) →
      ∃ d, exec (.ssiWord n word errBit check acc) s = .next { s with dev := d } ∧
        ((s.dev.ssiPort n).last = none → (d.ssiPort n).last = some v ∧ (d.ssiPort n).reading = none ∧
          d.reg64 (R.TDL_SSIn_WORD_LO n) = (if s.dev.bit ⟨R.TDL_SSIn_CFG n, 8, 1⟩ then ofSigned 64 (toSigned len v) else v) % 2 ^ 64 ∧
          d.mem = s.dev.mem) ∧
        (∀ l, (s.dev.ssiPort n).last = some l → ∃ e : Dev, (e.ssiPort n).last = some v ∧ (e.ssiPort n).reading = none ∧ e.mem = s.dev.mem ∧
          d = e.sourceStep (5 + n) (toSigned len ((v + 2 ^ len - l) % 2 ^ len)) at_ acc)) ∧
    (n < 2 → (s.dev.ssiPort n).reading ≠ none →
      let d0 := s.dev.expire ((s.dev.ssiPort n).began.getD 0) (1000 * s.dev.fld ⟨R.TDL_SSIn_TIMING n, 16, 16⟩)
      ∃ d, exec (.ssiTo n) s = .next { s with dev := d } ∧ (d.ssiPort n).reading = none ∧
        (d.ssiPort n).last = (s.dev.ssiPort n).last ∧
        d.fld ⟨R.TDL_SSIn_ERR n, 16, 8⟩ = min 255 (d0.fld ⟨R.TDL_SSIn_ERR n, 16, 8⟩ + 1) ∧
        (∀ a, a ≠ R.TDL_SSIn_ERR n → d.reg a = d0.reg a) ∧ d.mem = d0.mem) ∧
    (n < 8 → s.dev.still n = false →
      let d0 := s.dev.expire (((s.dev.posCnt n).last.getD 0 + 7) / 8) (s.dev.standstillT n)
      ∃ d, exec (.standstill n) s = .next { s with dev := d } ∧ d.still n = true ∧
        d.reg (R.TDL_POSn_SPEED n) = 0 ∧ d.bit ⟨R.TDL_POSn_SPD_STATUS n, 1, 1⟩ = false ∧ d.posOf n = d0.posOf n ∧
        (∀ c ∈ d0.cmpsOn n, (d.cmpCh c).sched = none) ∧ d.mem = d0.mem) ∧
    (∀ x, n < 32 → (s.dev.cmpCh n).sched = some x →
      let d0 := (s.dev.expire ((x.at_ + 7) / 8) 0).unschedule n
      let win := (x.at_ - 32, x.at_ + 32)
      (d0.bit ⟨R.TDL_POSn_SPD_STATUS (d0.cmpPos n), 3, 1⟩ = true → exec (.interpolatedFire n) s = .next { s with dev := d0 }) ∧
      (d0.bit ⟨R.TDL_POSn_SPD_STATUS (d0.cmpPos n), 3, 1⟩ = false → d0.cmpMode n = 1 → exec (.interpolatedFire n) s = .next { s with
        dev := ((d0.put (cmpBehind n) 0).fire n x.target 0 (1 + 8) x.at_ win).singleDone n }) ∧
      (d0.bit ⟨R.TDL_POSn_SPD_STATUS (d0.cmpPos n), 3, 1⟩ = false → d0.cmpMode n ≠ 1 →
        let e := (d0.put (cmpWaitFwd n) 0).fire n x.target (ofSigned 64 x.k % 2 ^ 32) 1 x.at_ win
        let e := e.setCmp n { e.cmpCh n with kLast := some x.k }
        let k := if (e.cmpGrid n).at (x.k + 1) ≤ e.posOf (e.cmpPos n) then (e.cmpGrid n).next (e.posOf (e.cmpPos n)) else x.k + 1
        exec (.interpolatedFire n) s = .next { s with dev := ((e.setCmpK n k).cmpSkip n (k - (x.k + 1))).schedule n })) ∧
    (∀ at_, n < 32 → (s.dev.cmpCh n).next = some at_ → s.dev.bit (cmpArmed n) = true → s.dev.cmpMode n = 3 → ∃ d,
      exec (.timedFire n) s = .next { s with dev := d } ∧
      let d0 := s.dev.expire at_ 0
      let e := d0.fire n (d0.timedStamp (d0.cmpPos n) (8 * at_)) 0 4 (8 * at_) (8 * at_, 8 * at_)
      (d.cmpCh n).next = some (at_ + (e.reg (R.TDL_CMPn_PERIOD n)).toNat) ∧ d.regs = e.regs ∧ d.mem = e.mem) ∧
    (s.dev.tdlEn = true → s.dev.bit ⟨R.TDL_SYNC_CFG, 4, 1⟩ = true →
      let at_ := t - 8 * s.dev.fld ⟨R.TDL_SYNC_CFG, 8, 8⟩
      (line < 64 → exec (.syncInPulse line t acc) s = .next { s with dev := s.dev.sourceStep 7 1 at_ acc }) ∧
      (64 ≤ line → line < 128 → exec (.syncInPulse line t acc) s = .next { s with dev := s.dev.sourceStep 7 (-1) at_ acc }) ∧
      (128 ≤ line → line ≤ 224 → s.dev.bit ⟨R.TDL_SYNC_CFG, 5, 1⟩ = false →
        exec (.syncInPulse line t acc) s = .next { s with dev := s.dev.put ⟨R.TDL_STATUS, 2, 1⟩ 1 }) ∧
      (224 < line → ∃ d, exec (.syncInPulse line t acc) s = .next { s with dev := d } ∧ d.bit ⟨R.TDL_STATUS, 2, 1⟩ = false ∧
        d.fld ⟨R.TDL_SYNC_ERR, 0, 16⟩ = min 65535 (s.dev.fld ⟨R.TDL_SYNC_ERR, 0, 16⟩ + 1) ∧ d.mem = s.dev.mem))

/-! ### Time -/

/-- PTP messages that a port takes by the transport in use, in a domain of the device: a Sync and its Follow_Up give the origin and the
arrival (R307, R308), requests leave with their stamps (R311), a Delay_Resp gives offset and path delay by halves with the port's asymmetry
(R309, R313), a peer delay is half of the round trip less the turnaround (R309), an Announce that is better, or the first after the master
fell silent, names the master (R307), other messages count. A message by the other transport or in another domain is discarded and
counted (R307, R323). What IEEE 1588 gives is presumed (assumption 14). -/
def Obligations.PtpExchangesComplete : Prop :=
  ∀ (s : State) (num dm seq src : Nat) (orig corr v : Int) (w : NetWire), s.on →
    let p := w.port
    let c := s.dev.ptp p dm
    let tx := ofDomain dm (s.dev.txStamps p 0)
    let taken : Prop := p < s.dev.variant.netPorts ∧ s.dev.netLink p = true ∧ (w.lost = false ∨ s.dev.xingFull = false) ∧
      s.dev.netTakes p w = true
    let ours : Prop := taken ∧ s.dev.ptpClockOf num = some dm ∧ w.udp = s.dev.ptpUdp
    let seen (ty : Nat) : Dev := (s.dev.netRx p).setPtp p dm (c.count ty)
    let kept (d : Dev) : Prop := ∀ x, x ≠ R.NETP_RX_FRAMES p → d.reg x = s.dev.reg x
    (taken → (s.dev.ptpClockOf num = none ∨ w.udp ≠ s.dev.ptpUdp) →
      exec (.followUp w num seq src orig corr) s = .next { s with dev := (s.dev.netRx p).netDiscard p }) ∧
    (ours → c.fromMaster src = true → -7 ≤ v → v ≤ 1 →
      (∃ d, exec (.sync w num seq src true orig corr v false) s = .next { s with dev := d } ∧
        (d.ptp p dm).syncRx = some (ofDomain dm (s.dev.rxStamps p), seq, corr) ∧ (d.ptp p dm).rxAt = some (s.dev.rxStamps p) ∧
        (d.ptp p dm).logSync = v ∧ kept d) ∧
      exec (.sync w num seq src false orig corr v false) s = .next { s with
        dev := ((seen 0).setPtp p dm { c.count 0 with logSync := v, rxAt := some (s.dev.rxStamps p) }).syncComplete p dm (orig + corr)
          (ofDomain dm (s.dev.rxStamps p)) }) ∧
    (∀ rx c0, ours → c.fromMaster src = true → c.syncRx = some (rx, seq, c0) → exec (.followUp w num seq src orig corr) s =
      .next { s with dev := (seen 8).syncComplete p dm (orig + corr + c0) rx }) ∧
    (s.dev.ptpOn p dm = true → s.dev.ptpPeer = false → ∃ d, exec (.delayReq p dm false) s = .next { s with dev := d } ∧
      (d.ptp p dm).delayReq = some (tx, c.delaySeq) ∧ (d.ptp p dm).delaySeq = (c.delaySeq + 1) % 65536 ∧
      (d.ptp p dm).txAt = some (s.dev.txStamps p 0) ∧
      d.glb = (s.dev.ptpSend p dm 1 [tx / 65536, 0]).glb ∧ (∀ x, x ≠ R.NETP_TX_FRAMES p → d.reg x = s.dev.reg x)) ∧
    (∀ t1 t2 t3, ours → c.syncDone = some (t1, t2) → c.delayReq = some (t3, seq) → c.fromMaster src = true → s.dev.ptpPeer = false →
      let fwd := t2 - t1 - s.dev.asym p
      let bwd := orig - corr - t3 + s.dev.asym p
      let path := (fwd + bwd) / 2
      ∃ d, exec (.delayResp w num seq src orig corr) s = .next { s with dev := d } ∧
        d = ((seen 9).setPtp p dm { c.count 9 with delayReq := none }).ptpMeasure p dm (fwd - path) path ∧
        ((s.dev.ptpSteers dm = false ∨ s.dev.servoUses p = false) →
          (d.ptp p dm).offset = fwd - path ∧ (d.ptp p dm).path = some path ∧ kept d)) ∧
    (ours → s.dev.ptpPeer = true →
      let rx := s.dev.rxStamps p
      let ty := s.dev.txStamps p (v * 125)
      exec (.pdelayReq w num corr v false) s = .next { s with
        dev := ((seen 2).setPtp p dm { c.count 2 with rxAt := some rx, txAt := some ty }).ptpSend p dm 3
          [0, corr + (ofDomain dm ty - ofDomain dm rx)] }) ∧
    (s.dev.ptpOn p dm = true → s.dev.ptpPeer = true →
      let d0 := match c.pdelayAt with
        | some t => s.dev.expire t (logNs s.dev.logPdelay 1)
        | none => s.dev
      ∃ d, exec (.pdelayReqTimer p dm false) s = .next { s with dev := d } ∧
        (d.ptp p dm).pdelayReq = some (ofDomain dm (d0.txStamps p 0), (d0.ptp p dm).pdelaySeq) ∧
        (d.ptp p dm).pdelaySeq = ((d0.ptp p dm).pdelaySeq + 1) % 65536 ∧ (d.ptp p dm).pdelayAt = some d0.now2 ∧
        (∀ x, x ≠ R.NETP_TX_FRAMES p → d.reg x = d0.reg x)) ∧
    (∀ t1, ours → s.dev.ptpPeer = true → c.pdelayReq = some (t1, seq) →
      let rx := ofDomain dm (s.dev.rxStamps p)
      (∃ d, exec (.pdelayResp w num seq true orig corr false) s = .next { s with dev := d } ∧
        (d.ptp p dm).pdelayResp = some (rx, orig, corr, seq) ∧ kept d) ∧
      (∃ d, exec (.pdelayResp w num seq false orig corr false) s = .next { s with dev := d } ∧
        (d.ptp p dm).path = some ((rx - t1 - corr) / 2) ∧ (d.ptp p dm).pdelayReq = none)) ∧
    (∀ t1 sq t4 t2 c0, ours → c.pdelayReq = some (t1, sq) → c.pdelayResp = some (t4, t2, c0, seq) → ∃ d,
      exec (.pdelayRespFollowUp w num seq orig corr) s = .next { s with dev := d } ∧
      (d.ptp p dm).path = some ((t4 - t1 - (orig - t2 + corr + c0)) / 2) ∧ (d.ptp p dm).pdelayResp = none) ∧
    (∀ a, ours → ∃ d, exec (.announce w num a) s = .next { s with dev := d } ∧ kept d ∧
      (c.master = none → (d.ptp p dm).master = some a ∧ (d.ptp p dm).annAt = s.dev.now2) ∧
      (∀ m, c.master = some m → (d.ptp p dm).master = some (if m.source = a.source ∨ annBetter a m = true ∨
        c.annAt + logNs m.logInterval 3 ≤ s.dev.now2 then a else m))) ∧
    (∀ sig, ours → ∃ d, exec (.management w num sig) s = .next { s with dev := d } ∧
      (let ty := if sig then 12 else 13
       tget (fun _ => 0) (d.ptp p dm).counts ty = tget (fun _ => 0) c.counts ty + 1) ∧ kept d)

/-- A time-compare slot fires once its base has reached its target (R301, R303): FIRED, and a one-shot slot disarms (R303); a measurement
missed for four Sync intervals brings HOLDOVER and HOLDOVER_T ends LOCKED (R314); a PPS_IN edge stamps all four bases and counts (R315), its
absence for 1.1 s is an event (R315); PPS_OUT rises at the next second of PPS_SRC for PPS_W when enabled (R316); a slew that is absorbed
leaves TB3_SLEW 0, TB3 having run on and moved by it (R299). -/
def Obligations.TimersOfTheTimeBaseAct : Prop :=
  ∀ (s : State) (n b t : Nat), s.on →
    (let tgt := tget (fun _ => 0) s.dev.tim.tgt n
     let d0 := s.dev.passBase (s.dev.tcBase n) ((s.dev.base (s.dev.tcBase n)).linear + s.dev.tcDiff40 n tgt).toNat
     n < 16 → s.dev.bit (tcArmed n) = true →
      (d0.tcDiff40 n tgt ≤ 0 → s.dev.bit ⟨R.TIM_TCn_CFG n, 3, 1⟩ = false → ∃ d,
        exec (.tcFire n) s = .next { s with dev := d } ∧ d.bit (tcFired n) = true ∧ d.bit (tcArmed n) = false ∧
        d.tim = d0.tim ∧ d.mem = s.dev.mem) ∧
      (d0.tcDiff40 n tgt ≤ 0 → s.dev.bit ⟨R.TIM_TCn_CFG n, 3, 1⟩ = true → s.dev.tcPeriod n ≠ 0 → ∃ d,
        exec (.tcFire n) s = .next { s with dev := d } ∧ d.bit (tcFired n) = true ∧ d.bit (tcArmed n) = true ∧
        (let now := (d0.base (s.dev.tcBase n)).linear
         ∃ i, tget (fun _ => 0) d.tim.tgt n = tgt + (i + 1) * s.dev.tcPeriod n ∧ now < tgt + (i + 1) * s.dev.tcPeriod n ∧
          (0 < i → tgt + i * s.dev.tcPeriod n ≤ now)) ∧ d.mem = s.dev.mem)) ∧
    (b < 2 → s.dev.ptpSteers b = true → s.dev.bit (holdoverBit b) = false → tget noneAt s.dev.tim.meas b = some t →
      exec (.holdover b) s = .next { s with dev := (s.dev.expire t (s.dev.syncNs b)).put (holdoverBit b) 1 }) ∧
    (b < 2 → s.dev.bit (lockedBit b) = true → tget noneAt s.dev.tim.meas b = some t → ∃ d,
      exec (.holdoverT b) s = .next { s with dev := d } ∧
      d.bit (lockedBit b) = false ∧ d.tim = (s.dev.expire t s.dev.holdoverNs).tim ∧ d.mem = s.dev.mem) ∧
    (∃ d, exec .ppsIn s = .next { s with dev := d } ∧
      (s.dev.tb0Src ≠ 2 → d.tim = { s.dev.tim with ppsAt := some s.dev.now2 } ∧ d.mem = s.dev.mem ∧
        d.reg R.TIM_PPSIN_CNT = BitVec.ofNat 32 (min (2 ^ 32 - 1) ((s.dev.reg R.TIM_PPSIN_CNT).toNat + 1)) ∧
        ∀ i, i < 4 → (let st := (s.dev.base i).stamp
          d.reg (0x9000D0 + 0x10 * i) = BitVec.ofNat 32 st.sec ∧ d.reg (0x9000D4 + 0x10 * i) = BitVec.ofNat 32 (st.sec / 2 ^ 32) ∧
          d.reg (0x9000D8 + 0x10 * i) = BitVec.ofNat 32 st.ns ∧ d.reg (0x9000DC + 0x10 * i) = BitVec.ofNat 32 st.frac))) ∧
    (s.dev.tb0Src = 2 → s.dev.tim.ppsAt = some t → ∃ d, exec .ppsInMiss s = .next { s with dev := d } ∧ d.bit (holdoverBit 0) = true ∧
      d.bit ⟨R.TIM_EVENT, 5, 1⟩ = true ∧ d.tim = { (s.dev.expire t 1100000000).tim with ppsAt := none } ∧ d.mem = s.dev.mem) ∧
    (let src := s.dev.fld ⟨R.TIM_PPS_CFG, 1, 2⟩
     let k := s.dev.ppsSecond
     let d0 := (s.dev.passBase src (k * 1000000000 + s.dev.ppsOfs).toNat).setMarked src k
     s.dev.bit ⟨R.TIM_PPS_CFG, 0, 1⟩ = true →
      exec .ppsOut s = .next { s with dev := d0.emit (.ppsOut (max 1 (s.dev.fld ⟨R.TIM_PPS_CFG, 16, 10⟩))) } ∧
      tget (fun _ => 0) s.dev.tim.marked src < k ∧ (s.dev.base src).linear ≤ k * 1000000000 + s.dev.ppsOfs + 2 ∧
      (∀ j, tget (fun _ => 0) s.dev.tim.marked src < j → (s.dev.base src).linear ≤ j * 1000000000 + s.dev.ppsOfs + 2 → k ≤ j)) ∧
    (s.dev.tim.slew ≠ 0 →
      let ks := (s.dev.tim.slew.natAbs + 3435972) / 3435973
      let run (i : Nat) (x : TimeBase) : TimeBase := x.add (ticksIncr (s.dev.freq i) x.frac ks)
      ∃ d, exec .slewAbsorbed s = .next { s with dev := d } ∧ d.tim.slew = 0 ∧
        d.tim.tb3 = TimeBase.ofTotal ((run 3 s.dev.tim.tb3).total + s.dev.tim.slew) ∧ d.tim.tb0 = run 0 s.dev.tim.tb0 ∧
        d.tim.tb2 = run 2 s.dev.tim.tb2 ∧ d.mem = s.dev.mem)

/-! ### Network -/

/-- Frames of a port with a link: the frame in progress leaves and counts, its records go on, and it may be the first of a switchover (R329,
R330); BATCH_T closes the open datagram (R337); a frame that comes untagged or with the port's tag and is not too long is taken, any other
discarded and counted (R322, R323); a grant that passes every check is accepted and names its port (R326, R327), ARP for the port's own
address is answered (R323), a status request is answered, discarded, or dropped beyond STATUS_RATE (R338, R339). A frame that meets a full
receive crossing is lost and counted there alone (R30).
The format of ARP is presumed (assumption 22). -/
def Obligations.FramesAreTaken : Prop :=
  ∀ (s : State) (src ip port : Nat) (pl : List Byte) (w : NetWire), let p := w.port
    s.on → p < s.dev.variant.netPorts → s.dev.netLink p = true →
    let d := s.dev.netRx p
    let through : Prop := w.lost = false ∨ s.dev.xingFull = false
    let taken : Prop := through ∧ s.dev.netTakes p w = true
    (let d0 := s.dev.fabric (fun d => d.netFill p)
     ∀ f rest, (d0.netPort p).fifo = f :: rest →
      let x := (d0.frameOut p f).setNetPort p { (d0.frameOut p f).netPort p with fifo := rest }
      exec (.frameSent p) s = .next { s with dev := (if d0.netSender = some p then x.frameDone p f else x).netFirst p } ∧
      (x.netPort p).sent = (d0.netPort p).sent + 1 ∧ (x.netPort p).fifo = rest) ∧
    (∀ c, (s.dev.netPort p).cur = some c → c.due = false → exec (.batchT p) s = .next { s with
      dev := (s.dev.expire c.t s.dev.batchT).fabric (fun d => d.netDue p) }) ∧
    (w.lost = true → s.dev.xingFull = true → ∀ fcs, exec (.rxErr w fcs) s = .next { s with dev := s.dev.xingDrop (16 + p) 1 } ∧
      exec (.arpRequest w src ip port) s = .next { s with dev := s.dev.xingDrop (16 + p) 1 }) ∧
    (through → s.dev.netTakes p w = false → ∀ dst tip,
      exec (.grant w dst src pl) s = .next { s with dev := d.netDiscard p } ∧
      exec (.arpRequest w src ip tip) s = .next { s with dev := d.netDiscard p } ∧
      exec (.statusRequest w src ip port pl) s = .next { s with dev := d.netDiscard p }) ∧
    (∀ dst, taken → (dst = s.dev.netMac p ∨ dst = 0xFFFFFFFFFFFF) → s.dev.variant.netPorts = 2 → s.dev.bit ⟨R.NET_CFG, 4, 1⟩ = false →
      32 ≤ pl.length → byteAt pl 0 = 1 → byteAt pl 1 = 1 → crc32c (pl.take 28) = fieldAt pl 28 4 →
      fieldAt pl 2 2 = s.dev.fld ⟨R.NET_ARB_CFG, 0, 16⟩ → (fieldAt pl 8 6 = s.dev.netDeviceId ∨ fieldAt pl 8 6 = 0xFFFFFFFFFFFF) →
      byteAt pl 14 < 2 →
      (s.dev.net.granted = false ∨ 0 < toSigned 32 (fieldAt pl 4 4 + 2 ^ 32 - (s.dev.reg R.NET_GRANT_SEQ).toNat)) → ∃ g : Dev,
      exec (.grant w dst src pl) s = .next { s with dev := g.netName (byteAt pl 14) } ∧
      g.net.granted = true ∧ g.net.lost = false ∧ g.reg R.NET_GRANT_SEQ = BitVec.ofNat 32 (fieldAt pl 4 4) ∧
      g.reg R.NET_LAST_GRANT = BitVec.ofNat 32 (fieldAt pl 2 2 + byteAt pl 14 * 2 ^ 16 + p * 2 ^ 17) ∧
      g.bit ⟨R.NET_STATUS, 2, 1⟩ = true ∧ g.netActive = s.dev.netActive ∧ g.mem = s.dev.mem) ∧
    (∀ dst, taken → dst ≠ s.dev.netMac p → dst ≠ 0xFFFFFFFFFFFF →
      exec (.grant w dst src pl) s = .next { s with dev := d.netDiscard p }) ∧
    (∀ tip, taken → tip = (s.dev.reg (R.NETP_IP p)).toNat → exec (.arpRequest w src ip tip) s = .next { s with
      dev := d.netFrame p src 0x0806 ((leBytes 2 1).reverse ++ (leBytes 2 0x0800).reverse ++ (leBytes 1 6).reverse ++
        (leBytes 1 4).reverse ++ (leBytes 2 2).reverse ++ (leBytes 6 (s.dev.netMac p)).reverse ++ (leBytes 4 tip).reverse ++
        (leBytes 6 src).reverse ++ (leBytes 4 ip).reverse) }) ∧
    (∀ tip, taken → tip ≠ (s.dev.reg (R.NETP_IP p)).toNat →
      exec (.arpRequest w src ip tip) s = .next { s with dev := d.netDiscard p }) ∧
    (∀ fcs, through → ∃ e, exec (.rxErr w fcs) s = .next { s with dev := e } ∧
      e.fld ⟨R.NETP_RX_ERR p, 0, 16⟩ = min 65535 (s.dev.fld ⟨R.NETP_RX_ERR p, 0, 16⟩ + if fcs then 1 else 0) ∧
      e.fld ⟨R.NETP_RX_ERR p, 16, 16⟩ = min 65535 (s.dev.fld ⟨R.NETP_RX_ERR p, 16, 16⟩ + if fcs then 0 else 1) ∧
      e.mem = s.dev.mem) ∧
    (taken → (pl.length ≠ 8 ∨ fieldAt pl 0 4 ≠ 0x51534743) → exec (.statusRequest w src ip port pl) s =
      .next { s with dev := d.netDiscard p }) ∧
    (let recent := (s.dev.netPort p).answers.filter (fun t => decide (s.dev.now2 < t + 1000000000))
     let rate := s.dev.fld ⟨R.NET_STATUS_CFG, 16, 16⟩
     taken → pl.length = 8 → fieldAt pl 0 4 = 0x51534743 →
      (rate ≤ recent.length → exec (.statusRequest w src ip port pl) s =
        .next { s with dev := (d.bump ⟨R.NET_STATUS_DROP, 0, 32⟩).netEvent 9 }) ∧
      (recent.length < rate →
        let e := d.setNetPort p { d.netPort p with answers := s.dev.now2 :: recent }
        let r : RecDraft := { ty := 6, mos := 0xFF, stamp := s.dev.tim.tb0.stamp, body := e.statusBody (fieldAt pl 4 4) }
        exec (.statusRequest w src ip port pl) s = .next { s with
          dev := (e.fabric (fun d => d.recNew r)).netSend p src ip port 1 (2 + if s.dev.netDual then 1 else 0) 0xFFF
            (copyBytes (e.recFill r.whole) 0 false) }))

/-- Links, the arbiter and self-test: a counted ARB_SEL level shows and, in pin mode, names its port (R326); the new port's first frame
completes a switchover, which goes on while it has no link or nothing to carry (R329, R331; assumption 125), and the dual window closes 8 µs
after it opened (R330); GRANT_TO after the last grant loses it but not the role, in either mode of the arbiter (R328); a link goes and
comes, roles kept (R321, R328), and firmware writes the latencies of its rate and FEC mode (R308); a self-test cycle puts its five results in
the port's status a second after it began, and leaves a PORT_HEALTH record (R333 to R335). -/
def Obligations.PortsKeepTheirRoles : Prop :=
  ∀ (s : State) (h : Dev) (p t : Nat), s.on →
    (∀ level, ∃ d, exec (.arbSel level) s = .next { s with dev := d } ∧
      (let e := s.dev.putBit ⟨R.NET_STATUS, 5, 1⟩ level
       let f := { e with net := { e.net with selSeen := true } }
       d = if s.dev.variant.netPorts = 2 ∧ s.dev.bit ⟨R.NET_CFG, 4, 1⟩ = true then
           f.grantRefresh.netName (if s.dev.bit ⟨R.NET_CFG, 5, 1⟩ = level then 1 else 0)
         else f)) ∧
    (let d0 := s.dev.fabric (fun d => d.netFill p)
     let d1 := if (d0.netPort p).fifo = [] then d0.fabric (fun d => d.netDue p) else d0
     s.dev.net.switch = some (p, t) →
      (s.dev.netLink p = false → exec .switched s = .next s) ∧
      (s.dev.netLink p = true → (d1.netPort p).fifo = [] → exec .switched s = .next { s with dev := d1 }) ∧
      (s.dev.netLink p = true → (d1.netPort p).fifo ≠ [] → exec .switched s = .next { s with dev := d1.netSwitched p t })) ∧
    (h.net.held = none → p < 2 →
      let d := h.netSwitched p t
      d.net.switch = none ∧ d.netActive = some p ∧ d.bit ⟨R.NET_STATUS, 3, 1⟩ = false ∧
      d.fld ⟨R.NET_SWITCH_CNT, 0, 32⟩ = min (2 ^ 32 - 1) (h.fld ⟨R.NET_SWITCH_CNT, 0, 32⟩ + 1) ∧ d.mem = h.mem) ∧
    (s.dev.bit ⟨R.NET_STATUS, 4, 1⟩ = true →
      exec .dualWindowEnd s = .next { s with dev := (s.dev.expire s.dev.net.dual 8000).put ⟨R.NET_STATUS, 4, 1⟩ 0 }) ∧
    (s.dev.net.lost = false → ∃ d, exec .grantLost s = .next { s with dev := d } ∧
      d.net.lost = true ∧ d.bit ⟨R.NET_STATUS, 2, 1⟩ = false ∧ d.bit ⟨R.NET_EVENT, 1, 1⟩ = true ∧ d.netActive = s.dev.netActive ∧
      d.tim = (s.dev.expire s.dev.net.since s.dev.grantTo).tim ∧ d.mem = s.dev.mem) ∧
    (p < s.dev.variant.netPorts → s.dev.netLink p = true → ∃ d, exec (.linkDown p) s = .next { s with dev := d } ∧
      d.netLink p = false ∧ d.netActive = s.dev.netActive ∧ d.bit ⟨R.NET_EVENT, 5 + p, 1⟩ = true ∧
      d.fld ⟨R.NETP_STATUS p, 12, 2⟩ = s.dev.fld ⟨R.NETP_STATUS p, 12, 2⟩ ∧ d.shf = s.dev.shf ∧ d.mem = s.dev.mem) ∧
    (s.dev.netEn p = true → s.dev.netLink p = false → s.dev.netMac p ≠ 0 → s.dev.bit ⟨R.GLB_STATUS, 1, 1⟩ = false → ∃ e : Dev,
      exec (.linkUp p) s = .next { s with dev := e.fabric (fun d => d.netFill p) } ∧
      e.netLink p = true ∧ e.netActive = s.dev.netActive ∧ e.bit ⟨R.NET_EVENT, 7 + p, 1⟩ = true ∧
      e.fld ⟨R.NETP_STATUS p, 12, 2⟩ = s.dev.fld ⟨R.NETP_STATUS p, 12, 2⟩ ∧
      (let k := 8 * p + 4 * s.dev.fld ⟨R.NETP_CFG p, 0, 1⟩ + (if s.dev.netFec p then 2 else 0)
       e.reg (R.TIM_Pp_TX_LAT p) = BitVec.ofNat 32 (tget (fun _ => 0) s.nv.fuses.netLat k) ∧
       e.reg (R.TIM_Pp_RX_LAT p) = BitVec.ofNat 32 (tget (fun _ => 0) s.nv.fuses.netLat (k + 1))) ∧ e.mem = s.dev.mem) ∧
    (∀ c, p < s.dev.variant.netPorts →
      let d0 := s.dev.expire (s.dev.netPort p).cycAt 1000000000
      ∃ x : Dev,
      x.fld ⟨R.NETP_STATUS p, 6, 5⟩ = d0.netTests p c ∧ x.bit ⟨R.NETP_STATUS p, 5, 1⟩ = (d0.netTests p c == 31) ∧
      x.bit ⟨R.NETP_STATUS p, 3, 1⟩ = c.modPresent ∧ x.bit ⟨R.NETP_STATUS p, 4, 1⟩ = c.los ∧
      x.netLink p = s.dev.netLink p ∧ x.mem = s.dev.mem ∧
      exec (.selfTestCycle p c) s = .next { s with dev := (
        let body := x.healthBody p (d0.netTests p c) c
        let y := x.fabric (fun d => d.recNew { ty := 5, mos := 0xFF, stamp := d.tim.tb0.stamp, body := body })
        (y.setNetPort p { y.netPort p with health := body }).cycleStart p) })

/-! ### Field update -/

/-- Download and verification: VERIFY_DONE shows its reason and moves the stage (R446); sessions end after UPD_IDLE_T (R443); packets of a
requester get a challenge, open a session by a signature, deliver bytes, verify, activate and close (R456, R457); a challenge expires 5 s after it was issued.
How a signature is computed is presumed (assumption 24), the matching of a challenge is an inference (assumption 32). -/
def Obligations.UpdatesOverTheNetworkRun : Prop :=
  ∀ (s : State) (mac ip udp : Nat) (pl : List Byte) (w : NetWire), let p := w.port
    s.on → p < s.dev.variant.netPorts → s.dev.netLink p = true →
    (w.lost = false ∨ s.dev.xingFull = false) → s.dev.netTakes p w = true →
    let d := s.dev.netRx p
    let x : Peer := ⟨p, mac, ip, udp⟩
    let good (op : Nat) : Prop := s.dev.updPacketOk pl = true ∧ byteAt pl 5 = op
    let mine (h : Holder) : Prop := s.dev.sec.holder = some h ∧ h.net = true ∧ h.ip = ip ∧ h.udp = udp ∧ h.sid = fieldAt pl 16 4
    let ofs := fieldAt pl 24 4
    let bs := (pl.drop 32).take (fieldAt pl 28 2)
    (good 1 → s.dev.netUpdDenied s.nv = false → s.dev.sec.holder = none →
      exec (.openReq w mac ip udp pl) s = .next { s with dev := d.challenge x pl }) ∧
    (good 1 → s.dev.netUpdDenied s.nv = true →
      exec (.openReq w mac ip udp pl) s = .next { s with dev := d.updResult x pl stDenied }) ∧
    (∀ c, good 3 → s.dev.netUpdDenied s.nv = false → s.dev.updMayOpen = none → s.dev.sec.holder = none →
      s.dev.sec.challenges.find? (fun c => c.sid == fieldAt pl 16 4 && c.ip == ip && c.udp == udp &&
        !s.dev.timeUp c.at_ 5000000000) = some c →
      s.nv.updAuth c bs = true → ∃ e n,
      exec (.openAuth w mac ip udp pl) s = .next { s with dev := e, nv := n } ∧
      e.sec.holder = some { net := true, ip := ip, udp := udp, sid := c.sid } ∧ e.stage = 1 ∧ c ∉ e.sec.challenges ∧
      e.sec.received = [] ∧ n = s.nv.erase (slotBase s.nv.spareSlot) 65536) ∧
    (∀ h, good 5 → mine h → s.dev.stage = 1 → ofs % 1024 = 0 → ofs + bs.length ≤ slotSize →
      let r := d.holderSeen.updWrite s.nv ofs bs
      exec (.data w mac ip udp pl) s = .next { s with
        dev := r.1.updReply x pl 6 stOk (fieldAt pl 16 4) r.1.gapless [], nv := r.2 }) ∧
    (∀ h, good 7 → mine h → s.dev.sec.verified = 0 → s.dev.stage = 1 → ∃ e, exec (.verify w mac ip udp pl) s =
      .next { s with dev := e } ∧ e.stage = 2 ∧ e.sec.holder = some h ∧ e.mem = s.dev.mem) ∧
    (∀ h, good 8 → mine h → exec (.activate w mac ip udp pl) s = .next { s with
      dev := (d.holderSeen.activate s.nv (byteAt pl 32)).2.updResult x pl (d.holderSeen.activate s.nv (byteAt pl 32)).1 }) ∧
    (∀ h, good 8 → mine h → byteAt pl 32 = 1 → s.dev.stage = 3 → s.dev.paused = false → s.dev.refusal = none →
      d.holderSeen.activate s.nv (byteAt pl 32) = (stOk, (d.holderSeen.updEnd.setStage 4).pauseStart true)) ∧
    (∀ h, good 9 → mine h → ∃ e, exec (.close w mac ip udp pl) s = .next { s with dev := e } ∧ e.sec.holder = none ∧
      e.stage = (if s.dev.stage ≤ 3 then 0 else s.dev.stage) ∧ e.mem = s.dev.mem) ∧
    (∀ c rest, s.dev.sec.challenges = c :: rest →
      let d0 := s.dev.expire c.at_ 5000000000
      exec .challengeExpiry s = .next { s with dev := { d0 with sec := { d0.sec with challenges := rest } } }) ∧
    (∀ h, s.dev.sec.holder = some h → ∃ e, exec .updIdleT s = .next { s with dev := e } ∧ e.sec.holder = none ∧
      e.stage = (if s.dev.stage ≤ 3 then 0 else s.dev.stage) ∧
      e.tim = (s.dev.expire s.dev.sec.lastReq (s.dev.fld ⟨R.SEC_TRIAL_CFG, 16, 16⟩ * 1000000000)).tim ∧ e.mem = s.dev.mem)

/-- Verification, activation and confirmation act on the flash: VERIFY_DONE takes the image to STAGED, its manifest written, or back to
DOWNLOAD with the reason (R446); with tracks and jobs ended an activation writes its record, then loads warm or resets (R448, R450,
R451); CONFIRM writes the record CONFIRMED and burns the anti-rollback fuses up to the image's index (R453).
How a signature is computed is presumed (assumption 24). -/
def Obligations.ImagesAreVerifiedAndConfirmed : Prop :=
  ∀ (s : State) (flashOk : Bool) (selfFail : Nat), s.on →
    (let n := s.nv
     let man := s.dev.heldManifest
     let e : ImageEnd := if flashOk then n.imageCheck s.dev.variant n.spareSlot man else { reason := 0x0B }
     s.dev.stage = 2 → ∃ d, exec (.verifyDone flashOk) s = .next { s with
        dev := d, nv := if e.reason = 0 then n.prog (slotBase n.spareSlot) man else n } ∧
      d.stage = (if e.reason = 0 then 3 else 1) ∧ d.fld ⟨R.SEC_UPD_RESULT, 0, 8⟩ = e.reason % 256 ∧
      d.fld ⟨R.SEC_UPD_RESULT, 8, 8⟩ = e.part % 256 ∧ d.sec.verified ≠ 0 ∧ d.sec.holder = s.dev.sec.holder ∧ d.mem = s.dev.mem) ∧
    (∀ a, s.dev.sec.activation = some a → s.dev.stage = 4 → a.committed = false → s.dev.closeRest.pipeEmpty = true →
      let d := s.dev.closeRest
      let n := s.nv.actWrite s.nv.spareSlot s.nv.actSlot (if a.cold then 3 else 2) (d.fld ⟨R.CFG_EPOCH, 0, 12⟩)
      (a.cold = false → exec (.activationCommit selfFail) s = .next { s with
        dev := ((d.warmLoad n s.nv.spareSlot).linesOn).selfChecked selfFail, nv := n }) ∧
      (a.cold = true →
        let r := ({ d with sec := { d.sec with activation := some { a with committed := true } } }).restart n
        exec (.activationCommit selfFail) s = .next { s with dev := r.1, nv := r.2 })) ∧
    (s.dev.stage = 5 → s.dev.trialChecks.stage = 5 → s.dev.trialChecks.fld ⟨R.SEC_TRIAL, 0, 5⟩ = 31 → ∃ d n,
      exec .confirm s = .next { s with dev := d, nv := n } ∧
      n.fuses = { s.nv.fuses with arb := max s.nv.fuses.arb (min 64 (arbIndex s.dev.trialChecks.cfg.manifest)) } ∧
      d.stage = 0 ∧ d.sec.trial = none ∧ d.fld ⟨R.SEC_LAST_UPD, 4, 4⟩ = 1)
end

