-- ==== Sys2Proof/Laws/Store.lean ====
section
/-! SUPPORT. The laws of the sparse store: what a read gives after a write, and that writes keep the canonical form. -/

namespace Sys2Proof.Machine

theorem tget_tins_self {α : Type} (d : Nat → α) (k : Nat) (v : α) (t : Tbl α) (h : ∀ e ∈ t, e.1 ≠ k) :
    tget d (tins k v t) k = v := by
  induction t with
  | nil => simp [tins, tget]
  | cons e t ih =>
    obtain ⟨a, w⟩ := e
    have ha : a ≠ k := h (a, w) (by simp)
    unfold tins
    split
    · simp [tget]
    · simp only [tget, if_neg (Ne.symm ha)]
      exact ih (fun e he => h e (by simp [he]))

theorem tget_tins_ne {α : Type} (d : Nat → α) (k j : Nat) (v : α) (t : Tbl α) (h : j ≠ k) :
    tget d (tins k v t) j = tget d t j := by
  induction t with
  | nil => simp [tins, tget, h]
  | cons e t ih =>
    obtain ⟨a, w⟩ := e
    unfold tins
    split
    · simp [tget, h]
    · simp only [tget, ih]

theorem tget_filter_self {α : Type} (d : Nat → α) (k : Nat) (t : Tbl α) :
    tget d (t.filter (fun e => e.1 != k)) k = d k := by
  induction t with
  | nil => rfl
  | cons e t ih =>
    obtain ⟨a, w⟩ := e
    by_cases ha : a = k
    · rw [List.filter_cons_of_neg (by simp [ha])]; exact ih
    · rw [List.filter_cons_of_pos (by simp [ha])]; simp only [tget, if_neg (Ne.symm ha)]; exact ih

theorem tget_filter_ne {α : Type} (d : Nat → α) (k j : Nat) (t : Tbl α) (h : j ≠ k) :
    tget d (t.filter (fun e => e.1 != k)) j = tget d t j := by
  induction t with
  | nil => rfl
  | cons e t ih =>
    obtain ⟨a, w⟩ := e
    by_cases ha : a = k
    · rw [List.filter_cons_of_neg (by simp [ha])]; simp only [tget, ha, if_neg h]; exact ih
    · rw [List.filter_cons_of_pos (by simp [ha])]; simp only [tget, ih]

/-- A read of the key just written gives the value written. -/
@[simp] theorem tget_tset_self {α : Type} [DecidableEq α] (d : Nat → α) (t : Tbl α) (k : Nat) (v : α) :
    tget d (tset d t k v) k = v := by
  unfold tset
  split
  · next h => rw [tget_filter_self, h]
  · exact tget_tins_self _ _ _ _ (by simp)

/-- A write leaves every other key alone. -/
theorem tget_tset_ne {α : Type} [DecidableEq α] (d : Nat → α) (t : Tbl α) (k j : Nat) (v : α) (h : j ≠ k) :
    tget d (tset d t k v) j = tget d t j := by
  unfold tset
  split
  · exact tget_filter_ne _ _ _ _ h
  · rw [tget_tins_ne _ _ _ _ _ h, tget_filter_ne _ _ _ _ h]

theorem tget_tset {α : Type} [DecidableEq α] (d : Nat → α) (t : Tbl α) (k j : Nat) (v : α) :
    tget d (tset d t k v) j = if j = k then v else tget d t j := by
  split
  · next h => subst h; simp
  · next h => exact tget_tset_ne _ _ _ _ _ h

theorem twfFrom_mono {α : Type} [DecidableEq α] (d : Nat → α) {lo lo' : Nat} (h : lo' ≤ lo) {t : Tbl α}
    (ht : twfFrom d lo t = true) : twfFrom d lo' t = true := by
  cases t with
  | nil => rfl
  | cons e t =>
    obtain ⟨a, v⟩ := e
    simp only [twfFrom, Bool.and_eq_true, decide_eq_true_eq] at ht ⊢
    exact ⟨⟨by omega, ht.1.2⟩, ht.2⟩

theorem twfFrom_filter {α : Type} [DecidableEq α] (d : Nat → α) (k : Nat) (t : Tbl α) :
    ∀ lo, twfFrom d lo t = true → twfFrom d lo (t.filter (fun e => e.1 != k)) = true := by
  induction t with
  | nil => intro lo h; simpa using h
  | cons e t ih =>
    obtain ⟨a, w⟩ := e
    intro lo h
    simp only [twfFrom, Bool.and_eq_true, decide_eq_true_eq] at h
    by_cases ha : a = k
    · rw [List.filter_cons_of_neg (by simp [ha])]
      exact twfFrom_mono d (by omega) (ih _ h.2)
    · rw [List.filter_cons_of_pos (by simp [ha])]
      simp only [twfFrom, Bool.and_eq_true, decide_eq_true_eq]
      exact ⟨h.1, ih _ h.2⟩

theorem twfFrom_tins {α : Type} [DecidableEq α] (d : Nat → α) (k : Nat) (v : α) (hv : v ≠ d k) (t : Tbl α) :
    ∀ lo, lo ≤ k → (∀ e ∈ t, e.1 ≠ k) → twfFrom d lo t = true → twfFrom d lo (tins k v t) = true := by
  induction t with
  | nil => intro lo hlo _ _; simp [tins, twfFrom, hlo, hv]
  | cons e t ih =>
    obtain ⟨a, w⟩ := e
    intro lo hlo hne h
    simp only [twfFrom, Bool.and_eq_true, decide_eq_true_eq] at h
    have ha : a ≠ k := hne (a, w) (by simp)
    unfold tins
    split
    · next hk =>
      simp only [twfFrom, Bool.and_eq_true, decide_eq_true_eq]
      exact ⟨⟨hlo, by simp [hv]⟩, ⟨by omega, h.1.2⟩, h.2⟩
    · next hk =>
      simp only [twfFrom, Bool.and_eq_true, decide_eq_true_eq]
      exact ⟨h.1, ih _ (by omega) (fun e he => hne e (by simp [he])) h.2⟩

/-- Every write keeps the canonical form. -/
theorem twf_tset {α : Type} [DecidableEq α] (d : Nat → α) (t : Tbl α) (k : Nat) (v : α) (h : twf d t = true) :
    twf d (tset d t k v) = true := by
  unfold tset twf at *
  split
  · exact twfFrom_filter d k t 0 h
  · next hv => exact twfFrom_tins d k v hv _ 0 (by omega) (by simp) (twfFrom_filter d k t 0 h)

theorem twfFrom_le {α : Type} [DecidableEq α] (d : Nat → α) (t : Tbl α) :
    ∀ lo, twfFrom d lo t = true → ∀ e ∈ t, lo ≤ e.1 := by
  induction t with
  | nil => simp
  | cons e t ih =>
    obtain ⟨a, v⟩ := e
    intro lo h e he
    simp only [twfFrom, Bool.and_eq_true, decide_eq_true_eq] at h
    rcases List.mem_cons.mp he with rfl | he
    · exact h.1.1
    · exact Nat.le_trans (by omega) (ih _ h.2 e he)

/-- Two canonical stores, the first wholly below the second, joined. -/
theorem twfFrom_append {α : Type} [DecidableEq α] (d : Nat → α) (t u : Tbl α) (m : Nat) :
    ∀ lo, lo ≤ m → (∀ e ∈ t, e.1 < m) → twfFrom d lo t = true → twfFrom d m u = true → twfFrom d lo (t ++ u) = true := by
  induction t with
  | nil => intro lo h _ _ hu; exact twfFrom_mono d h hu
  | cons e t ih =>
    obtain ⟨a, v⟩ := e
    intro lo _ hm h hu
    simp only [twfFrom, Bool.and_eq_true, decide_eq_true_eq, List.cons_append] at h ⊢
    exact ⟨h.1, ih _ (hm (a, v) (by simp)) (fun e he => hm e (by simp [he])) h.2 hu⟩

theorem twfFrom_tentries {α : Type} [DecidableEq α] (d : Nat → α) (vs : List α) :
    ∀ k, twfFrom d k (tentries d k vs) = true := by
  induction vs with
  | nil => intro k; rfl
  | cons v vs ih =>
    intro k
    unfold tentries
    split
    · exact twfFrom_mono d (by omega) (ih (k + 1))
    · next h => simp [twfFrom, h, ih]

theorem tentries_lt {α : Type} [DecidableEq α] (d : Nat → α) (vs : List α) :
    ∀ k, ∀ e ∈ tentries d k vs, e.1 < k + vs.length := by
  induction vs with
  | nil => intro k e he; simp [tentries] at he
  | cons v vs ih =>
    intro k e he
    have hl : (v :: vs).length = vs.length + 1 := rfl
    unfold tentries at he
    split at he
    · have := ih _ e he; omega
    · rcases List.mem_cons.mp he with rfl | he
      · show k < _; omega
      · have := ih _ e he; omega

theorem twfFrom_low {α : Type} [DecidableEq α] (d : Nat → α) (p : Nat → Bool) (t : Tbl α) :
    ∀ lo, twfFrom d lo t = true → twfFrom d lo (t.filter (fun e => p e.1)) = true := by
  induction t with
  | nil => intro lo _; rfl
  | cons e t ih =>
    obtain ⟨a, v⟩ := e
    intro lo h
    simp only [twfFrom, Bool.and_eq_true, decide_eq_true_eq] at h
    by_cases hp : p a
    · rw [List.filter_cons_of_pos (by simpa using hp)]
      simp only [twfFrom, Bool.and_eq_true, decide_eq_true_eq]
      exact ⟨h.1, ih _ h.2⟩
    · rw [List.filter_cons_of_neg (by simpa using hp)]
      exact twfFrom_mono d (by omega) (ih _ h.2)

theorem twfFrom_high {α : Type} [DecidableEq α] (d : Nat → α) (m : Nat) (t : Tbl α) :
    ∀ lo, twfFrom d lo t = true → twfFrom d m (t.filter (fun e => decide (m ≤ e.1))) = true := by
  induction t with
  | nil => intro lo _; rfl
  | cons e t ih =>
    obtain ⟨a, v⟩ := e
    intro lo h
    simp only [twfFrom, Bool.and_eq_true, decide_eq_true_eq] at h
    by_cases hp : m ≤ a
    · rw [List.filter_cons_of_pos (by simpa using hp)]
      simp only [twfFrom, Bool.and_eq_true, decide_eq_true_eq]
      exact ⟨⟨hp, h.1.2⟩, twfFrom_low d (fun x => decide (m ≤ x)) t _ h.2⟩
    · rw [List.filter_cons_of_neg (by simpa using hp)]
      exact ih _ h.2

/-- A write of consecutive keys keeps the canonical form. -/
theorem twf_tsetMany {α : Type} [DecidableEq α] (d : Nat → α) (vs : List α) (t : Tbl α) (k : Nat) (h : twf d t = true) :
    twf d (tsetMany d t k vs) = true := by
  unfold tsetMany twf
  rw [List.append_assoc]
  refine twfFrom_append d _ _ k 0 (by omega) (by simp) (twfFrom_low d (fun x => decide (x < k)) t 0 h) ?_
  exact twfFrom_append d _ _ (k + vs.length) k (by omega) (tentries_lt d vs k) (twfFrom_tentries d vs k)
    (twfFrom_high d _ t 0 h)

theorem tget_append_left {α : Type} (d : Nat → α) (t u : Tbl α) (j : Nat) (h : ∀ e ∈ t, e.1 ≠ j) :
    tget d (t ++ u) j = tget d u j := by
  induction t with
  | nil => rfl
  | cons e t ih =>
    obtain ⟨a, v⟩ := e
    have ha : a ≠ j := h (a, v) (by simp)
    simp only [List.cons_append, tget, if_neg (Ne.symm ha)]
    exact ih (fun e he => h e (by simp [he]))

theorem tget_append_right {α : Type} (d : Nat → α) (t u : Tbl α) (j : Nat) (h : ∀ e ∈ u, e.1 ≠ j) :
    tget d (t ++ u) j = tget d t j := by
  induction t with
  | nil =>
    have := tget_append_left d u [] j h
    simpa using this
  | cons e t ih =>
    obtain ⟨a, v⟩ := e
    simp only [List.cons_append, tget, ih]

theorem tget_filter_of {α : Type} (d : Nat → α) (p : Nat → Bool) (j : Nat) (hp : p j = true) (t : Tbl α) :
    tget d (t.filter (fun e => p e.1)) j = tget d t j := by
  induction t with
  | nil => rfl
  | cons e t ih =>
    obtain ⟨a, v⟩ := e
    by_cases ha : p a
    · rw [List.filter_cons_of_pos (by simpa using ha)]; simp only [tget, ih]
    · rw [List.filter_cons_of_neg (by simpa using ha)]
      have : j ≠ a := fun hja => ha (hja ▸ hp)
      simp only [tget, if_neg this, ih]

theorem tentries_ge {α : Type} [DecidableEq α] (d : Nat → α) (vs : List α) :
    ∀ k, ∀ e ∈ tentries d k vs, k ≤ e.1 := fun k => twfFrom_le d _ k (twfFrom_tentries d vs k)

theorem tget_tentries {α : Type} [DecidableEq α] (d : Nat → α) (vs : List α) :
    ∀ k i, i < vs.length → tget d (tentries d k vs) (k + i) = vs.getD i (d (k + i)) := by
  induction vs with
  | nil => intro k i h; simp at h
  | cons v vs ih =>
    intro k i h
    cases i with
    | zero =>
      simp only [Nat.add_zero, List.getD_cons_zero]
      unfold tentries
      split
      · next hv =>
        have := tget_append_left d (tentries d (k + 1) vs) [] k
          (fun e he => by have := tentries_ge d vs (k + 1) e he; omega)
        simpa [tget, hv] using this
      · simp [tget]
    | succ i =>
      have hi : i < vs.length := by simpa using h
      have e := ih (k + 1) i hi
      rw [show k + 1 + i = k + (i + 1) by omega] at e
      unfold tentries
      split
      · simpa using e
      · simp only [tget, if_neg (show k + (i + 1) ≠ k by omega)]; simpa using e

/-- What a write of consecutive keys leaves at each key: the value written there, or what stood there. -/
theorem tget_tsetMany {α : Type} [DecidableEq α] (d : Nat → α) (t : Tbl α) (k : Nat) (vs : List α) (j : Nat) :
    tget d (tsetMany d t k vs) j = if k ≤ j ∧ j < k + vs.length then vs.getD (j - k) (d j) else tget d t j := by
  unfold tsetMany
  split
  · next h =>
    rw [List.append_assoc, tget_append_left d _ _ j (by simp; omega), tget_append_right d _ _ j (by simp; omega)]
    have := tget_tentries d vs k (j - k) (by omega)
    rwa [show k + (j - k) = j by omega] at this
  · next h =>
    by_cases hj : j < k
    · rw [List.append_assoc, tget_append_right d _ _ j, tget_filter_of d (fun x => decide (x < k)) j (by simpa using hj)]
      intro e he
      rcases List.mem_append.mp he with he | he
      · have := tentries_ge d vs k e he; omega
      · simp at he; omega
    · rw [tget_append_left d _ _ j, tget_filter_of d (fun x => decide (k + vs.length ≤ x)) j (by simp; omega)]
      intro e he
      rcases List.mem_append.mp he with he | he
      · simp at he; omega
      · have := tentries_lt d vs k e he; omega

/-- A key below every entry holds its default. -/
theorem tget_lt {α : Type} [DecidableEq α] (d : Nat → α) (t : Tbl α) :
    ∀ lo, twfFrom d lo t = true → ∀ j, j < lo → tget d t j = d j := by
  induction t with
  | nil => intro lo _ j _; rfl
  | cons e t ih =>
    obtain ⟨a, v⟩ := e
    intro lo h j hj
    simp only [twfFrom, Bool.and_eq_true, decide_eq_true_eq] at h
    simp only [tget, if_neg (show j ≠ a by omega)]
    exact ih _ h.2 j (by omega)

/-- A walk over a store in rising order reads each key in turn. -/
theorem twalk_eq {α : Type} [DecidableEq α] (d : Nat → α) (n : Nat) :
    ∀ (t : Tbl α) (k : Nat), twfFrom d k t = true → twalk d t k n = (List.range n).map (fun i => tget d t (k + i)) := by
  induction n with
  | zero => intro t k _; cases t <;> rfl
  | succ n ih =>
    intro t k h
    rw [List.range_succ_eq_map, List.map_cons, List.map_map]
    have key : ∀ u : Tbl α, twfFrom d (k + 1) u = true → (∀ i, tget d t (k + (i + 1)) = tget d u (k + 1 + i)) →
        twalk d u (k + 1) n = (List.range n).map ((fun i => tget d t (k + i)) ∘ Nat.succ) := by
      intro u hu he
      rw [ih u (k + 1) hu]
      apply List.map_congr_left
      intro i _
      exact (he i).symm
    cases t with
    | nil =>
      unfold twalk
      rw [key [] rfl (fun i => by rw [show k + (i + 1) = k + 1 + i by omega])]
      rfl
    | cons e t =>
      obtain ⟨a, v⟩ := e
      have h' := h
      simp only [twfFrom, Bool.and_eq_true, decide_eq_true_eq] at h
      unfold twalk
      split
      · next ha =>
        subst ha
        rw [key t h.2 (fun i => by
          simp only [tget, if_neg (show a + (i + 1) ≠ a by omega)]
          rw [show a + (i + 1) = a + 1 + i by omega])]
        simp [tget]
      · next ha =>
        rw [key ((a, v) :: t) (by
          simp only [twfFrom, Bool.and_eq_true, decide_eq_true_eq]
          exact ⟨⟨by omega, h.1.2⟩, h.2⟩) (fun i => by rw [show k + (i + 1) = k + 1 + i by omega])]
        rw [Nat.add_zero, tget_lt d _ (k + 1) (by
          simp only [twfFrom, Bool.and_eq_true, decide_eq_true_eq]
          exact ⟨⟨by omega, h.1.2⟩, h.2⟩) k (by omega)]

/-- Reading consecutive keys reads each of them. -/
theorem tgetMany_eq {α : Type} [DecidableEq α] (d : Nat → α) (t : Tbl α) (h : twf d t = true) (k n : Nat) :
    tgetMany d t k n = (List.range n).map (fun i => tget d t (k + i)) := by
  unfold tgetMany
  rw [twalk_eq d n _ k (twfFrom_high d k t 0 h)]
  apply List.map_congr_left
  intro i _
  exact tget_filter_of d (fun x => decide (k ≤ x)) (k + i) (by simp) t

end Sys2Proof.Machine
end

