-- ==== Sys2Proof/Laws/State.lean ====
section
/-! SUPPORT. What each named update leaves as it is, field by field (a conjunction is one rewriting rule per field), and what
it makes of the field it changes. -/

namespace Sys2Proof.Machine

/-- A register write changes the register file alone. -/
@[simp] theorem Dev.setReg_keeps (d : Dev) (a : Nat) (v : Word) :
    (d.setReg a v).variant = d.variant ∧ (d.setReg a v).active = d.active ∧ (d.setReg a v).heldHi = d.heldHi ∧
    (d.setReg a v).latch = d.latch ∧ (d.setReg a v).glb = d.glb ∧ (d.setReg a v).hif = d.hif ∧
    (d.setReg a v).rnl = d.rnl ∧ (d.setReg a v).tim = d.tim ∧ (d.setReg a v).tdl = d.tdl ∧
    (d.setReg a v).mem = d.mem ∧ (d.setReg a v).cfg = d.cfg ∧ (d.setReg a v).pins = d.pins ∧
    (d.setReg a v).cam = d.cam ∧ (d.setReg a v).str = d.str ∧ (d.setReg a v).shf = d.shf ∧
    (d.setReg a v).lode = d.lode ∧ (d.setReg a v).asy = d.asy ∧ (d.setReg a v).seam = d.seam ∧
    (d.setReg a v).net = d.net ∧ (d.setReg a v).slu = d.slu ∧ (d.setReg a v).cove = d.cove ∧
    (d.setReg a v).sec = d.sec ∧ (d.setReg a v).cal = d.cal := by
  refine ⟨?_, ?_, ?_, ?_, ?_, ?_, ?_, ?_, ?_, ?_, ?_, ?_, ?_, ?_, ?_, ?_, ?_, ?_, ?_, ?_, ?_, ?_, ?_⟩ <;> rfl

/-- A field write changes the register file alone. -/
@[simp] theorem Dev.put_keeps (d : Dev) (f : Fld) (v : Nat) :
    (d.put f v).variant = d.variant ∧ (d.put f v).active = d.active ∧ (d.put f v).heldHi = d.heldHi ∧
    (d.put f v).latch = d.latch ∧ (d.put f v).glb = d.glb ∧ (d.put f v).hif = d.hif ∧
    (d.put f v).rnl = d.rnl ∧ (d.put f v).tim = d.tim ∧ (d.put f v).tdl = d.tdl ∧
    (d.put f v).mem = d.mem ∧ (d.put f v).cfg = d.cfg ∧ (d.put f v).pins = d.pins ∧
    (d.put f v).cam = d.cam ∧ (d.put f v).str = d.str ∧ (d.put f v).shf = d.shf ∧
    (d.put f v).lode = d.lode ∧ (d.put f v).asy = d.asy ∧ (d.put f v).seam = d.seam ∧
    (d.put f v).net = d.net ∧ (d.put f v).slu = d.slu ∧ (d.put f v).cove = d.cove ∧
    (d.put f v).sec = d.sec ∧ (d.put f v).cal = d.cal := by
  refine ⟨?_, ?_, ?_, ?_, ?_, ?_, ?_, ?_, ?_, ?_, ?_, ?_, ?_, ?_, ?_, ?_, ?_, ?_, ?_, ?_, ?_, ?_, ?_⟩ <;> rfl

/-- A flag write changes the register file alone. -/
@[simp] theorem Dev.putBit_keeps (d : Dev) (f : Fld) (b : Bool) :
    (d.putBit f b).variant = d.variant ∧ (d.putBit f b).active = d.active ∧ (d.putBit f b).heldHi = d.heldHi ∧
    (d.putBit f b).latch = d.latch ∧ (d.putBit f b).glb = d.glb ∧ (d.putBit f b).hif = d.hif ∧
    (d.putBit f b).rnl = d.rnl ∧ (d.putBit f b).tim = d.tim ∧ (d.putBit f b).tdl = d.tdl ∧
    (d.putBit f b).mem = d.mem ∧ (d.putBit f b).cfg = d.cfg ∧ (d.putBit f b).pins = d.pins ∧
    (d.putBit f b).cam = d.cam ∧ (d.putBit f b).str = d.str ∧ (d.putBit f b).shf = d.shf ∧
    (d.putBit f b).lode = d.lode ∧ (d.putBit f b).asy = d.asy ∧ (d.putBit f b).seam = d.seam ∧
    (d.putBit f b).net = d.net ∧ (d.putBit f b).slu = d.slu ∧ (d.putBit f b).cove = d.cove ∧
    (d.putBit f b).sec = d.sec ∧ (d.putBit f b).cal = d.cal := by
  refine ⟨?_, ?_, ?_, ?_, ?_, ?_, ?_, ?_, ?_, ?_, ?_, ?_, ?_, ?_, ?_, ?_, ?_, ?_, ?_, ?_, ?_, ?_, ?_⟩ <;> rfl

/-- A count changes the register file alone. -/
@[simp] theorem Dev.bumpBy_keeps (d : Dev) (f : Fld) (n : Nat) :
    (d.bumpBy f n).variant = d.variant ∧ (d.bumpBy f n).active = d.active ∧ (d.bumpBy f n).heldHi = d.heldHi ∧
    (d.bumpBy f n).latch = d.latch ∧ (d.bumpBy f n).glb = d.glb ∧ (d.bumpBy f n).hif = d.hif ∧
    (d.bumpBy f n).rnl = d.rnl ∧ (d.bumpBy f n).tim = d.tim ∧ (d.bumpBy f n).tdl = d.tdl ∧
    (d.bumpBy f n).mem = d.mem ∧ (d.bumpBy f n).cfg = d.cfg ∧ (d.bumpBy f n).pins = d.pins ∧
    (d.bumpBy f n).cam = d.cam ∧ (d.bumpBy f n).str = d.str ∧ (d.bumpBy f n).shf = d.shf ∧
    (d.bumpBy f n).lode = d.lode ∧ (d.bumpBy f n).asy = d.asy ∧ (d.bumpBy f n).seam = d.seam ∧
    (d.bumpBy f n).net = d.net ∧ (d.bumpBy f n).slu = d.slu ∧ (d.bumpBy f n).cove = d.cove ∧
    (d.bumpBy f n).sec = d.sec ∧ (d.bumpBy f n).cal = d.cal := by
  refine ⟨?_, ?_, ?_, ?_, ?_, ?_, ?_, ?_, ?_, ?_, ?_, ?_, ?_, ?_, ?_, ?_, ?_, ?_, ?_, ?_, ?_, ?_, ?_⟩ <;> rfl

/-- Counting one changes the register file alone. -/
@[simp] theorem Dev.bump_keeps (d : Dev) (f : Fld) :
    (d.bump f).variant = d.variant ∧ (d.bump f).active = d.active ∧ (d.bump f).heldHi = d.heldHi ∧
    (d.bump f).latch = d.latch ∧ (d.bump f).glb = d.glb ∧ (d.bump f).hif = d.hif ∧
    (d.bump f).rnl = d.rnl ∧ (d.bump f).tim = d.tim ∧ (d.bump f).tdl = d.tdl ∧
    (d.bump f).mem = d.mem ∧ (d.bump f).cfg = d.cfg ∧ (d.bump f).pins = d.pins ∧
    (d.bump f).cam = d.cam ∧ (d.bump f).str = d.str ∧ (d.bump f).shf = d.shf ∧
    (d.bump f).lode = d.lode ∧ (d.bump f).asy = d.asy ∧ (d.bump f).seam = d.seam ∧
    (d.bump f).net = d.net ∧ (d.bump f).slu = d.slu ∧ (d.bump f).cove = d.cove ∧
    (d.bump f).sec = d.sec ∧ (d.bump f).cal = d.cal := by
  refine ⟨?_, ?_, ?_, ?_, ?_, ?_, ?_, ?_, ?_, ?_, ?_, ?_, ?_, ?_, ?_, ?_, ?_, ?_, ?_, ?_, ?_, ?_, ?_⟩ <;> rfl

/-- A maximum changes the register file alone. -/
@[simp] theorem Dev.keepMax_keeps (d : Dev) (f : Fld) (v : Nat) :
    (d.keepMax f v).variant = d.variant ∧ (d.keepMax f v).active = d.active ∧ (d.keepMax f v).heldHi = d.heldHi ∧
    (d.keepMax f v).latch = d.latch ∧ (d.keepMax f v).glb = d.glb ∧ (d.keepMax f v).hif = d.hif ∧
    (d.keepMax f v).rnl = d.rnl ∧ (d.keepMax f v).tim = d.tim ∧ (d.keepMax f v).tdl = d.tdl ∧
    (d.keepMax f v).mem = d.mem ∧ (d.keepMax f v).cfg = d.cfg ∧ (d.keepMax f v).pins = d.pins ∧
    (d.keepMax f v).cam = d.cam ∧ (d.keepMax f v).str = d.str ∧ (d.keepMax f v).shf = d.shf ∧
    (d.keepMax f v).lode = d.lode ∧ (d.keepMax f v).asy = d.asy ∧ (d.keepMax f v).seam = d.seam ∧
    (d.keepMax f v).net = d.net ∧ (d.keepMax f v).slu = d.slu ∧ (d.keepMax f v).cove = d.cove ∧
    (d.keepMax f v).sec = d.sec ∧ (d.keepMax f v).cal = d.cal := by
  refine ⟨?_, ?_, ?_, ?_, ?_, ?_, ?_, ?_, ?_, ?_, ?_, ?_, ?_, ?_, ?_, ?_, ?_, ?_, ?_, ?_, ?_, ?_, ?_⟩ <;> rfl

/-- A split value changes the register file alone. -/
@[simp] theorem Dev.setReg64_keeps (d : Dev) (a v : Nat) :
    (d.setReg64 a v).variant = d.variant ∧ (d.setReg64 a v).active = d.active ∧ (d.setReg64 a v).heldHi = d.heldHi ∧
    (d.setReg64 a v).latch = d.latch ∧ (d.setReg64 a v).glb = d.glb ∧ (d.setReg64 a v).hif = d.hif ∧
    (d.setReg64 a v).rnl = d.rnl ∧ (d.setReg64 a v).tim = d.tim ∧ (d.setReg64 a v).tdl = d.tdl ∧
    (d.setReg64 a v).mem = d.mem ∧ (d.setReg64 a v).cfg = d.cfg ∧ (d.setReg64 a v).pins = d.pins ∧
    (d.setReg64 a v).cam = d.cam ∧ (d.setReg64 a v).str = d.str ∧ (d.setReg64 a v).shf = d.shf ∧
    (d.setReg64 a v).lode = d.lode ∧ (d.setReg64 a v).asy = d.asy ∧ (d.setReg64 a v).seam = d.seam ∧
    (d.setReg64 a v).net = d.net ∧ (d.setReg64 a v).slu = d.slu ∧ (d.setReg64 a v).cove = d.cove ∧
    (d.setReg64 a v).sec = d.sec ∧ (d.setReg64 a v).cal = d.cal := by
  refine ⟨?_, ?_, ?_, ?_, ?_, ?_, ?_, ?_, ?_, ?_, ?_, ?_, ?_, ?_, ?_, ?_, ?_, ?_, ?_, ?_, ?_, ?_, ?_⟩ <;> rfl

/-- A write of a second copy changes the second copies alone. -/
@[simp] theorem Dev.setAct_keeps (d : Dev) (a : Nat) (v : Word) :
    (d.setAct a v).variant = d.variant ∧ (d.setAct a v).regs = d.regs ∧ (d.setAct a v).heldHi = d.heldHi ∧
    (d.setAct a v).latch = d.latch ∧ (d.setAct a v).glb = d.glb ∧ (d.setAct a v).hif = d.hif ∧
    (d.setAct a v).rnl = d.rnl ∧ (d.setAct a v).tim = d.tim ∧ (d.setAct a v).tdl = d.tdl ∧
    (d.setAct a v).mem = d.mem ∧ (d.setAct a v).cfg = d.cfg ∧ (d.setAct a v).pins = d.pins ∧
    (d.setAct a v).cam = d.cam ∧ (d.setAct a v).str = d.str ∧ (d.setAct a v).shf = d.shf ∧
    (d.setAct a v).lode = d.lode ∧ (d.setAct a v).asy = d.asy ∧ (d.setAct a v).seam = d.seam ∧
    (d.setAct a v).net = d.net ∧ (d.setAct a v).slu = d.slu ∧ (d.setAct a v).cove = d.cove ∧
    (d.setAct a v).sec = d.sec ∧ (d.setAct a v).cal = d.cal := by
  refine ⟨?_, ?_, ?_, ?_, ?_, ?_, ?_, ?_, ?_, ?_, ?_, ?_, ?_, ?_, ?_, ?_, ?_, ?_, ?_, ?_, ?_, ?_, ?_⟩ <;> rfl

/-- A log entry changes the GLB unit alone. -/
@[simp] theorem Dev.logPut_keeps (d : Dev) (u : Nat) (e : LogEvent) (x : List Nat) :
    (d.logPut u e x).variant = d.variant ∧ (d.logPut u e x).regs = d.regs ∧ (d.logPut u e x).active = d.active ∧
    (d.logPut u e x).heldHi = d.heldHi ∧ (d.logPut u e x).latch = d.latch ∧ (d.logPut u e x).hif = d.hif ∧
    (d.logPut u e x).rnl = d.rnl ∧ (d.logPut u e x).tim = d.tim ∧ (d.logPut u e x).tdl = d.tdl ∧
    (d.logPut u e x).mem = d.mem ∧ (d.logPut u e x).cfg = d.cfg ∧ (d.logPut u e x).pins = d.pins ∧
    (d.logPut u e x).cam = d.cam ∧ (d.logPut u e x).str = d.str ∧ (d.logPut u e x).shf = d.shf ∧
    (d.logPut u e x).lode = d.lode ∧ (d.logPut u e x).asy = d.asy ∧ (d.logPut u e x).seam = d.seam ∧
    (d.logPut u e x).net = d.net ∧ (d.logPut u e x).slu = d.slu ∧ (d.logPut u e x).cove = d.cove ∧
    (d.logPut u e x).sec = d.sec ∧ (d.logPut u e x).cal = d.cal := by
  refine ⟨?_, ?_, ?_, ?_, ?_, ?_, ?_, ?_, ?_, ?_, ?_, ?_, ?_, ?_, ?_, ?_, ?_, ?_, ?_, ?_, ?_, ?_, ?_⟩ <;> rfl

/-- Drawing a free value changes the GLB unit alone. -/
@[simp] theorem Dev.drawNat_keeps (d : Dev) :
    (d.drawNat.2).variant = d.variant ∧ (d.drawNat.2).regs = d.regs ∧ (d.drawNat.2).active = d.active ∧
    (d.drawNat.2).heldHi = d.heldHi ∧ (d.drawNat.2).latch = d.latch ∧ (d.drawNat.2).hif = d.hif ∧
    (d.drawNat.2).rnl = d.rnl ∧ (d.drawNat.2).tim = d.tim ∧ (d.drawNat.2).tdl = d.tdl ∧
    (d.drawNat.2).mem = d.mem ∧ (d.drawNat.2).cfg = d.cfg ∧ (d.drawNat.2).pins = d.pins ∧
    (d.drawNat.2).cam = d.cam ∧ (d.drawNat.2).str = d.str ∧ (d.drawNat.2).shf = d.shf ∧
    (d.drawNat.2).lode = d.lode ∧ (d.drawNat.2).asy = d.asy ∧ (d.drawNat.2).seam = d.seam ∧
    (d.drawNat.2).net = d.net ∧ (d.drawNat.2).slu = d.slu ∧ (d.drawNat.2).cove = d.cove ∧
    (d.drawNat.2).sec = d.sec ∧ (d.drawNat.2).cal = d.cal := by
  refine ⟨?_, ?_, ?_, ?_, ?_, ?_, ?_, ?_, ?_, ?_, ?_, ?_, ?_, ?_, ?_, ?_, ?_, ?_, ?_, ?_, ?_, ?_, ?_⟩ <;> rfl

/-- A reply changes the HIF unit alone. -/
@[simp] theorem Dev.mbReply_keeps (d : Dev) (st : Nat) (r : List Byte) :
    (d.mbReply st r).variant = d.variant ∧ (d.mbReply st r).regs = d.regs ∧ (d.mbReply st r).active = d.active ∧
    (d.mbReply st r).heldHi = d.heldHi ∧ (d.mbReply st r).latch = d.latch ∧ (d.mbReply st r).glb = d.glb ∧
    (d.mbReply st r).rnl = d.rnl ∧ (d.mbReply st r).tim = d.tim ∧ (d.mbReply st r).tdl = d.tdl ∧
    (d.mbReply st r).mem = d.mem ∧ (d.mbReply st r).cfg = d.cfg ∧ (d.mbReply st r).pins = d.pins ∧
    (d.mbReply st r).cam = d.cam ∧ (d.mbReply st r).str = d.str ∧ (d.mbReply st r).shf = d.shf ∧
    (d.mbReply st r).lode = d.lode ∧ (d.mbReply st r).asy = d.asy ∧ (d.mbReply st r).seam = d.seam ∧
    (d.mbReply st r).net = d.net ∧ (d.mbReply st r).slu = d.slu ∧ (d.mbReply st r).cove = d.cove ∧
    (d.mbReply st r).sec = d.sec ∧ (d.mbReply st r).cal = d.cal := by
  refine ⟨?_, ?_, ?_, ?_, ?_, ?_, ?_, ?_, ?_, ?_, ?_, ?_, ?_, ?_, ?_, ?_, ?_, ?_, ?_, ?_, ?_, ?_, ?_⟩ <;> rfl

/-- The doorbell changes the register file and the HIF unit alone. -/
@[simp] theorem Dev.mbStart_keeps (d : Dev) (c : Nat) (t : Word) :
    (d.mbStart c t).variant = d.variant ∧ (d.mbStart c t).active = d.active ∧ (d.mbStart c t).heldHi = d.heldHi ∧
    (d.mbStart c t).latch = d.latch ∧ (d.mbStart c t).glb = d.glb ∧ (d.mbStart c t).rnl = d.rnl ∧
    (d.mbStart c t).tim = d.tim ∧ (d.mbStart c t).tdl = d.tdl ∧ (d.mbStart c t).mem = d.mem ∧
    (d.mbStart c t).cfg = d.cfg ∧ (d.mbStart c t).pins = d.pins ∧ (d.mbStart c t).cam = d.cam ∧
    (d.mbStart c t).str = d.str ∧ (d.mbStart c t).shf = d.shf ∧ (d.mbStart c t).lode = d.lode ∧
    (d.mbStart c t).asy = d.asy ∧ (d.mbStart c t).seam = d.seam ∧ (d.mbStart c t).net = d.net ∧
    (d.mbStart c t).slu = d.slu ∧ (d.mbStart c t).cove = d.cove ∧ (d.mbStart c t).sec = d.sec ∧
    (d.mbStart c t).cal = d.cal := by
  refine ⟨?_, ?_, ?_, ?_, ?_, ?_, ?_, ?_, ?_, ?_, ?_, ?_, ?_, ?_, ?_, ?_, ?_, ?_, ?_, ?_, ?_, ?_⟩ <;> rfl

/-- An output changes the GLB unit alone. -/
@[simp] theorem Dev.emit_keeps (d : Dev) (o : Out) :
    (d.emit o).variant = d.variant ∧ (d.emit o).regs = d.regs ∧ (d.emit o).active = d.active ∧
    (d.emit o).heldHi = d.heldHi ∧ (d.emit o).latch = d.latch ∧ (d.emit o).hif = d.hif ∧
    (d.emit o).rnl = d.rnl ∧ (d.emit o).tim = d.tim ∧ (d.emit o).tdl = d.tdl ∧
    (d.emit o).mem = d.mem ∧ (d.emit o).cfg = d.cfg ∧ (d.emit o).pins = d.pins ∧
    (d.emit o).cam = d.cam ∧ (d.emit o).str = d.str ∧ (d.emit o).shf = d.shf ∧
    (d.emit o).lode = d.lode ∧ (d.emit o).asy = d.asy ∧ (d.emit o).seam = d.seam ∧
    (d.emit o).net = d.net ∧ (d.emit o).slu = d.slu ∧ (d.emit o).cove = d.cove ∧
    (d.emit o).sec = d.sec ∧ (d.emit o).cal = d.cal := by
  unfold Dev.emit
  split <;> simp

/-- An interrupt changes the GLB and HIF units alone. -/
@[simp] theorem Dev.irq_keeps (d : Dev) (v : Nat) :
    (d.irq v).variant = d.variant ∧ (d.irq v).regs = d.regs ∧ (d.irq v).active = d.active ∧
    (d.irq v).heldHi = d.heldHi ∧ (d.irq v).latch = d.latch ∧ (d.irq v).rnl = d.rnl ∧
    (d.irq v).tim = d.tim ∧ (d.irq v).tdl = d.tdl ∧ (d.irq v).mem = d.mem ∧
    (d.irq v).cfg = d.cfg ∧ (d.irq v).pins = d.pins ∧ (d.irq v).cam = d.cam ∧
    (d.irq v).str = d.str ∧ (d.irq v).shf = d.shf ∧ (d.irq v).lode = d.lode ∧
    (d.irq v).asy = d.asy ∧ (d.irq v).seam = d.seam ∧ (d.irq v).net = d.net ∧
    (d.irq v).slu = d.slu ∧ (d.irq v).cove = d.cove ∧ (d.irq v).sec = d.sec ∧
    (d.irq v).cal = d.cal := by
  unfold Dev.irq
  dsimp only
  split <;> simp

/-- A sticky bit changes the register file, the outputs and the pending interrupts alone. -/
@[simp] theorem Dev.sticky_keeps (d : Dev) (f : Fld) (v : Nat) (e : Bool) :
    (d.sticky f v e).variant = d.variant ∧ (d.sticky f v e).active = d.active ∧ (d.sticky f v e).heldHi = d.heldHi ∧
    (d.sticky f v e).latch = d.latch ∧ (d.sticky f v e).rnl = d.rnl ∧ (d.sticky f v e).tim = d.tim ∧
    (d.sticky f v e).tdl = d.tdl ∧ (d.sticky f v e).mem = d.mem ∧ (d.sticky f v e).cfg = d.cfg ∧
    (d.sticky f v e).pins = d.pins ∧ (d.sticky f v e).cam = d.cam ∧ (d.sticky f v e).str = d.str ∧
    (d.sticky f v e).shf = d.shf ∧ (d.sticky f v e).lode = d.lode ∧ (d.sticky f v e).asy = d.asy ∧
    (d.sticky f v e).seam = d.seam ∧ (d.sticky f v e).net = d.net ∧ (d.sticky f v e).slu = d.slu ∧
    (d.sticky f v e).cove = d.cove ∧ (d.sticky f v e).sec = d.sec ∧ (d.sticky f v e).cal = d.cal := by
  unfold Dev.sticky
  split
  · simp
  · dsimp only
    split <;> simp

/-- The arguments and the tag change the register file alone. -/
@[simp] theorem Dev.mbWrite_keeps (d : Dev) (t : Word) (as : List Word) :
    (d.mbWrite t as).variant = d.variant ∧ (d.mbWrite t as).active = d.active ∧ (d.mbWrite t as).heldHi = d.heldHi ∧
    (d.mbWrite t as).latch = d.latch ∧ (d.mbWrite t as).glb = d.glb ∧ (d.mbWrite t as).hif = d.hif ∧
    (d.mbWrite t as).rnl = d.rnl ∧ (d.mbWrite t as).tim = d.tim ∧ (d.mbWrite t as).tdl = d.tdl ∧
    (d.mbWrite t as).mem = d.mem ∧ (d.mbWrite t as).cfg = d.cfg ∧ (d.mbWrite t as).pins = d.pins ∧
    (d.mbWrite t as).cam = d.cam ∧ (d.mbWrite t as).str = d.str ∧ (d.mbWrite t as).shf = d.shf ∧
    (d.mbWrite t as).lode = d.lode ∧ (d.mbWrite t as).asy = d.asy ∧ (d.mbWrite t as).seam = d.seam ∧
    (d.mbWrite t as).net = d.net ∧ (d.mbWrite t as).slu = d.slu ∧ (d.mbWrite t as).cove = d.cove ∧
    (d.mbWrite t as).sec = d.sec ∧ (d.mbWrite t as).cal = d.cal := by
  unfold Dev.mbWrite
  generalize List.range as.length = l
  suffices h : ∀ (l : List Nat) (d : Dev), { (l.foldl (fun d i => d.setReg (R.MB_REQ i) (as.getD i 0)) d) with regs := d.regs } = d by
    have := h l d
    simp only [Dev.setReg_keeps]
    generalize List.foldl _ d l = e at *
    obtain ⟨⟩ := d
    obtain ⟨⟩ := e
    simp_all
  intro l
  induction l with
  | nil => intro d; rfl
  | cons a l ih =>
    intro d
    have := ih (d.setReg (R.MB_REQ a) (as.getD a 0))
    simp only [List.foldl_cons]
    generalize List.foldl _ _ l = e at *
    obtain ⟨⟩ := d
    obtain ⟨⟩ := e
    simp_all [Dev.setReg]

/-! ### Reads after writes -/

/-- A read of the register just written gives the word written. -/
@[simp] theorem Dev.reg_setReg_self (d : Dev) (a : Nat) (v : Word) : (d.setReg a v).reg a = v := by
  simp [Dev.reg, Dev.setReg]

/-- A write leaves every other register alone. -/
theorem Dev.reg_setReg_ne (d : Dev) (a b : Nat) (v : Word) (h : b ≠ a) : (d.setReg a v).reg b = d.reg b := by
  simp [Dev.reg, Dev.setReg, tget_tset_ne _ _ _ _ _ h]

/-- What any register reads as after a write. -/
theorem Dev.reg_setReg (d : Dev) (a b : Nat) (v : Word) : (d.setReg a v).reg b = if b = a then v else d.reg b := by
  split
  · next h => subst h; simp
  · next h => exact Dev.reg_setReg_ne _ _ _ _ h

/-- The register file is all that a register read looks at. -/
theorem Dev.reg_congr {d e : Dev} (h : d.regs = e.regs) (a : Nat) : d.reg a = e.reg a := by
  simp [Dev.reg, h]

/-- Bit i of a field is bit lo + i of the word. -/
theorem testBit_getBits (x : Word) (lo w i : Nat) : (getBits x lo w).testBit i = (decide (i < w) && x.getLsbD (lo + i)) := by
  simp [getBits, Nat.testBit_mod_two_pow, Nat.testBit_div_two_pow, BitVec.getLsbD, Nat.add_comm]

/-- A bit of a word with a field replaced: the value's within the field, the word's own elsewhere. -/
theorem getLsbD_putBits (x : Word) (lo w v i : Nat) (h : i < 32) :
    (putBits x lo w v).getLsbD i = if lo ≤ i ∧ i < lo + w then v.testBit (i - lo) else x.getLsbD i := by
  have hm : (BitVec.ofNat 32 ((2 ^ w - 1) * 2 ^ lo)).getLsbD i = decide (lo ≤ i ∧ i < lo + w) := by
    rw [BitVec.getLsbD_ofNat, Nat.testBit_mul_two_pow, Nat.testBit_two_pow_sub_one]
    by_cases hl : lo ≤ i
    · have : (i - lo < w) ↔ (i < lo + w) := by omega
      simp [h, hl, this]
    · simp [hl]
  unfold putBits
  simp only [BitVec.getLsbD_or, BitVec.getLsbD_and, BitVec.getLsbD_not, hm, h, BitVec.getLsbD_ofNat, Nat.testBit_mul_two_pow]
  by_cases hf : lo ≤ i ∧ i < lo + w
  · simp [hf]
  · simp [hf]

/-- A read of a field just written gives the value, held to the field's width. -/
theorem getBits_putBits (x : Word) (lo w v : Nat) (h : lo + w ≤ 32) : getBits (putBits x lo w v) lo w = v % 2 ^ w := by
  apply Nat.eq_of_testBit_eq
  intro i
  rw [testBit_getBits, Nat.testBit_mod_two_pow]
  by_cases hi : i < w
  · rw [getLsbD_putBits _ _ _ _ _ (by omega), if_pos (by omega), Nat.add_sub_cancel_left]
  · simp [hi]

/-- A field write leaves a field of other bits alone. -/
theorem getBits_putBits_ne (x : Word) (lo w v lo' w' : Nat) (h' : lo' + w' ≤ 32) (h : lo' + w' ≤ lo ∨ lo + w ≤ lo') :
    getBits (putBits x lo w v) lo' w' = getBits x lo' w' := by
  apply Nat.eq_of_testBit_eq
  intro i
  rw [testBit_getBits, testBit_getBits]
  by_cases hi : i < w'
  · rw [getLsbD_putBits _ _ _ _ _ (by omega), if_neg (by omega)]
  · simp [hi]

/-- A field just written, of the register file. -/
theorem Dev.fld_put_self (d : Dev) (f : Fld) (v : Nat) (h : f.lo + f.w ≤ 32) : (d.put f v).fld f = v % 2 ^ f.w := by
  simp only [Dev.fld, Dev.put, Dev.reg_setReg_self]
  exact getBits_putBits _ _ _ _ h

/-- A field of another register, or of other bits of the same one, is left alone. -/
theorem Dev.fld_put_ne (d : Dev) (f g : Fld) (v : Nat) (hg : g.lo + g.w ≤ 32)
    (h : g.addr ≠ f.addr ∨ g.lo + g.w ≤ f.lo ∨ f.lo + f.w ≤ g.lo) : (d.put f v).fld g = d.fld g := by
  simp only [Dev.fld, Dev.put, Dev.reg_setReg]
  split
  · next e =>
    rw [e]
    exact getBits_putBits_ne _ _ _ _ _ _ hg (h.resolve_left (fun n => n e))
  · rfl

/-- A register other than the field's is left alone. -/
theorem Dev.reg_put_ne (d : Dev) (f : Fld) (v a : Nat) (h : a ≠ f.addr) : (d.put f v).reg a = d.reg a :=
  Dev.reg_setReg_ne _ _ _ _ h

end Sys2Proof.Machine
end

