-- ==== Sys2Proof/Laws/Memory.lean ====
section
/-! SUPPORT. The memory laws: DRAM and flash keep their canonical form under every operation on them, a read gives what was
written, and a write leaves every other byte alone. -/

namespace Sys2Proof.Machine

/-- Reading DRAM reads each byte of the range. -/
theorem Dev.rawRead_eq (d : Dev) (a n : Nat) (h : twf d.mem.unlisted d.mem.cells = true) :
    d.rawRead a n = (List.range n).map (fun i => tget d.mem.unlisted d.mem.cells (a + i)) := tgetMany_eq d.mem.unlisted _ h a n

/-- Reading flash reads each byte of the range. -/
theorem NonVol.read_eq (n : NonVol) (a len : Nat) (h : twf flashInit n.flash = true) :
    n.read a len = (List.range len).map (fun i => tget flashInit n.flash (a + i)) := tgetMany_eq flashInit _ h a len

/-- A write to DRAM keeps the canonical form. -/
theorem Dev.rawWrite_wf (d : Dev) (a : Nat) (bs : List Byte) (h : twf d.mem.unlisted d.mem.cells = true) :
    twf d.mem.unlisted (d.rawWrite a bs).mem.cells = true := twf_tsetMany _ _ _ _ h

/-- What each byte of DRAM is after a write: the byte written there, or what it was. -/
theorem Dev.rawWrite_get (d : Dev) (a : Nat) (bs : List Byte) (x : Nat) :
    tget d.mem.unlisted (d.rawWrite a bs).mem.cells x =
      if a ≤ x ∧ x < a + bs.length then bs.getD (x - a) (d.mem.unlisted x) else tget d.mem.unlisted d.mem.cells x := by
  simpa [Dev.rawWrite] using tget_tsetMany d.mem.unlisted d.mem.cells a bs x

/-- Programming flash keeps the canonical form, and touches no fuse. -/
theorem NonVol.prog_wf (n : NonVol) (a : Nat) (bs : List Byte) (h : twf flashInit n.flash = true) :
    twf flashInit (n.prog a bs).flash = true ∧ (n.prog a bs).fuses = n.fuses := ⟨twf_tsetMany _ _ _ _ h, rfl⟩

/-- Erasing flash keeps the canonical form, and touches no fuse. -/
theorem NonVol.erase_wf (n : NonVol) (a len : Nat) (h : twf flashInit n.flash = true) :
    twf flashInit (n.erase a len).flash = true ∧ (n.erase a len).fuses = n.fuses := by
  refine ⟨?_, rfl⟩
  unfold NonVol.erase twf
  simp only
  have : ∀ (t : Tbl Byte) (lo : Nat), twfFrom flashInit lo t = true →
      twfFrom flashInit lo (t.filter (fun e => decide (e.1 < a) || decide (a + len ≤ e.1))) = true := by
    intro t
    induction t with
    | nil => intro lo _; rfl
    | cons e t ih =>
      intro lo he
      obtain ⟨k, v⟩ := e
      simp only [twfFrom, Bool.and_eq_true, decide_eq_true_eq] at he
      rw [List.filter_cons]
      split
      · simp only [twfFrom, Bool.and_eq_true, decide_eq_true_eq]
        exact ⟨he.1, ih _ he.2⟩
      · exact twfFrom_mono flashInit (by omega) (ih _ he.2)
  exact this _ _ h

/-- A sector written anew keeps the canonical form, and touches no fuse. -/
theorem NonVol.sector_wf (n : NonVol) (a : Nat) (bs : List Byte) (h : twf flashInit n.flash = true) :
    twf flashInit (n.sector a bs).flash = true ∧ (n.sector a bs).fuses = n.fuses := by
  obtain ⟨h1, h2⟩ := NonVol.erase_wf n a 4096 h
  obtain ⟨h3, h4⟩ := NonVol.prog_wf (n.erase a 4096) a bs h1
  exact ⟨h3, h4.trans h2⟩

/-! ### Accesses -/

/-- A read of good blocks answers the bytes as every write before it leaves them, and is an access of the range (R365, R374). -/
theorem Dev.memRead_readable {d : Dev} {a n : Nat} (h : d.readable a n = true) (req : Nat) :
    d.memRead req a n = ((d.access a n).orderedRead a n, false, d.access a n) := by
  have hf : (blocksOf a n).filter (fun b => (d.badAt b).isSome && !d.healed b) = [] := by
    simp only [List.filter_eq_nil_iff]
    intro b hb
    have := List.all_eq_true.mp h b hb
    simp_all
  simp [Dev.memRead, Dev.memReadBad, hf, Dev.readBlocks]

/-- An access to one granule changes rows, traffic and the peak of its stack alone. -/
theorem Dev.accessOne_keeps (d : Dev) (g : Nat × Nat) :
    (d.accessOne g).mem.cells = d.mem.cells ∧ (d.accessOne g).mem.bad = d.mem.bad ∧ (d.accessOne g).mem.wait = d.mem.wait ∧
    (d.accessOne g).mem.stalled = d.mem.stalled ∧ (d.accessOne g).mem.laid = d.mem.laid ∧
    (d.accessOne g).hif = d.hif ∧ (d.accessOne g).variant = d.variant ∧
    ∀ x, x ≠ R.MEM_Ss_PEAK 0 → x ≠ R.MEM_Ss_PEAK 1 → (d.accessOne g).reg x = d.reg x := by
  refine ⟨rfl, rfl, rfl, rfl, rfl, rfl, rfl, fun x h0 h1 => ?_⟩
  have hs : ∀ du a, (decodeAddr du a).stack = 0 ∨ (decodeAddr du a).stack = 1 := by
    intro du a
    simp only [decodeAddr]
    split <;> omega
  unfold Dev.accessOne
  simp only
  rcases hs d.variant.dual g.1 with h | h <;> rw [h]
  · exact Dev.reg_setReg_ne _ _ _ _ h0
  · exact Dev.reg_setReg_ne _ _ _ _ h1

/-- An access changes rows, traffic and peaks alone: no cell, code, held request or freeze (R374, R379). -/
theorem Dev.access_keeps (d : Dev) (a n : Nat) :
    (d.access a n).mem.cells = d.mem.cells ∧ (d.access a n).mem.bad = d.mem.bad ∧ (d.access a n).mem.wait = d.mem.wait ∧
    (d.access a n).mem.stalled = d.mem.stalled ∧ (d.access a n).mem.laid = d.mem.laid ∧
    (d.access a n).hif = d.hif ∧ (d.access a n).variant = d.variant ∧
    ∀ x, x ≠ R.MEM_Ss_PEAK 0 → x ≠ R.MEM_Ss_PEAK 1 → (d.access a n).reg x = d.reg x := by
  unfold Dev.access
  generalize granulesOf a n = gs
  induction gs generalizing d with
  | nil => simp
  | cons g gs ih =>
    obtain ⟨h1, h2, h3, h4, h5, h6, h7, h8⟩ := Dev.accessOne_keeps d g
    obtain ⟨i1, i2, i3, i4, i5, i6, i7, i8⟩ := ih (d.accessOne g)
    exact ⟨i1.trans h1, i2.trans h2, i3.trans h3, i4.trans h4, i5.trans h5, i6.trans h6, i7.trans h7,
      fun x p q => (i8 x p q).trans (h8 x p q)⟩

/-- An access freezes nothing. -/
theorem Dev.access_memFrozen (d : Dev) (a n : Nat) : (d.access a n).memFrozen = d.memFrozen := by
  unfold Dev.memFrozen Dev.bit Dev.fld
  rw [(Dev.access_keeps d a n).2.2.2.2.2.2.2 _ (by decide) (by decide)]

/-- A list's test depends on its members alone. -/
theorem any_congr_mem {α : Type} {l : List α} {p q : α → Bool} (h : ∀ x ∈ l, p x = q x) : l.any p = l.any q := by
  induction l with
  | nil => rfl
  | cons a l ih => simp only [List.any_cons, h a (by simp), ih (fun x hx => h x (by simp [hx]))]

/-- The partitions of Table 17-4 are among the fourteen of the part. -/
theorem reqParts_lt {req p : Nat} (h : p ∈ reqParts req) : p < 14 := by
  unfold reqParts at h
  split at h <;> simp at h <;> omega

/-- An access changes nothing of what an unlisted byte reads as. -/
theorem Dev.access_unlisted (d : Dev) (a n : Nat) : (d.access a n).mem.unlisted = d.mem.unlisted :=
  funext fun x => by simp only [MemUnit.unlisted, (Dev.access_keeps d a n).2.2.2.2.1]

/-- What a requester may write depends on the partitions, the channels' training, CE_WB and the bytes: no access changes it. -/
theorem Dev.access_mayWrite (d : Dev) (a n req x : Nat) (bs : List Byte) : (d.access a n).mayWrite req x bs = d.mayWrite req x bs := by
  obtain ⟨h1, h2, h3, h4, h5, h6, h7, h8⟩ := Dev.access_keeps d a n
  have hr : ∀ f : Fld, f.addr ≠ 0xC00104 → f.addr ≠ 0xC00144 → (d.access a n).fld f = d.fld f := fun f p q => by
    simp only [Dev.fld, h8 _ p q]
  have hp : ∀ p, p < 14 → (d.access a n).part p = d.part p := fun p hp => by
    simp only [Dev.part]
    rw [hr _ (by simp only [R.MEM_PARTp_BASE]; omega) (by simp only [R.MEM_PARTp_BASE]; omega),
      hr _ (by simp only [R.MEM_PARTp_SIZE]; omega) (by simp only [R.MEM_PARTp_SIZE]; omega)]
  have hs : ∀ du a, (decodeAddr du a).stack < 2 ∧ (decodeAddr du a).pc < 32 := by
    intro du a
    constructor
    · simp only [decodeAddr]
      split <;> omega
    · simp only [decodeAddr]
      split <;> exact Nat.xor_lt_two_pow (n := 5) (Nat.mod_lt _ (by decide)) (Nat.mod_lt _ (by decide))
  have hc : ∀ y b, b < 3 → (d.access a n).bit ((d.access a n).channelFld y b) = d.bit (d.channelFld y b) := fun y b _ => by
    simp only [Dev.bit, Dev.channelFld, h7]
    have := hs d.variant.dual y
    rw [hr _ (by simp only [R.MEM_TRAINs_c]; omega) (by simp only [R.MEM_TRAINs_c]; omega)]
  have hin : (d.access a n).inTraining = d.inTraining := funext fun y => by
    simp only [Dev.inTraining, Dev.inRecovery, hc y 0 (by omega), hc y 2 (by omega)]
  have hw : (d.access a n).ceWb = d.ceWb := by
    simp only [Dev.ceWb, Dev.bit]
    rw [hr _ (by simp [R.MEM_CFG]) (by simp [R.MEM_CFG])]
  have hb : (d.access a n).rawRead = d.rawRead := funext fun b => funext fun m => by
    simp only [Dev.rawRead, Dev.access_unlisted, h1]
  have hq : (reqParts req).any (fun p => (d.access a n).inPart p x bs.length) = (reqParts req).any (fun p => d.inPart p x bs.length) :=
    any_congr_mem fun p h => by simp only [Dev.inPart, hp p (reqParts_lt h)]
  unfold Dev.mayWrite
  rw [hin, hw, hb, hq]

/-- An access changes no byte that a later read returns (R365). -/
theorem Dev.access_orderedRead (d : Dev) (a n b m : Nat) : (d.access a n).orderedRead b m = d.orderedRead b m := by
  obtain ⟨h1, h2, h3, h4, h5, h6, h7, h8⟩ := Dev.access_keeps d a n
  unfold Dev.orderedRead Dev.heldWrites Dev.rawRead
  simp only [Dev.access_unlisted, h1, h3, h4, Dev.access_mayWrite]

end Sys2Proof.Machine
end

