-- ==== Sys2Proof/Laws/NonVol.lean ====
section
/-! SUPPORT. What the operations that write flash and fuses keep, one lemma per shared operation: the flash stays canonical and
no fuse is unburned. `NvKept.pair` carries a fact about memories over to a pair that holds them. -/

namespace Sys2Proof.Machine

/-- What every write of the non-volatile memories keeps: the canonical form, and every fuse burned. -/
def NvKept (n m : NonVol) : Prop := n.wf → m.wf ∧ FusesKept n.fuses m.fuses

theorem FusesKept.refl (f : Fuses) : FusesKept f f := ⟨fun _ _ h => h, rfl, rfl, rfl, Nat.le_refl _, fun _ h => h, fun _ h => h, rfl, rfl⟩

theorem FusesKept.trans {f g h : Fuses} (a : FusesKept f g) (b : FusesKept g h) : FusesKept f h :=
  ⟨fun i h x => b.1 i h (a.1 i h x), b.2.trans a.2, b.3.trans a.3, b.4.trans a.4, Nat.le_trans a.5 b.5,
    fun i x => b.6 i (a.6 i x), fun i x => b.7 i (a.7 i x), b.8.trans a.8, b.9.trans a.9⟩

theorem NvKept.refl (n : NonVol) : NvKept n n := fun h => ⟨h, FusesKept.refl _⟩

theorem NvKept.trans {a b c : NonVol} (h : NvKept a b) (g : NvKept b c) : NvKept a c := fun w =>
  ⟨(g (h w).1).1, (h w).2.trans (g (h w).1).2⟩

theorem NvKept.of {n m : NonVol} (h : twf flashInit n.flash = true → twf flashInit m.flash = true ∧ m.fuses = n.fuses) : NvKept n m :=
  fun w => by
    have := h w.1
    refine ⟨⟨this.1, ?_⟩, ?_⟩
    · rw [this.2]; exact w.2
    · rw [this.2]; exact FusesKept.refl _

theorem NvKept.pair {α : Type} {n m : NonVol} (h : NvKept n m) (a : α) : NvKept n (a, m).2 := h

theorem NonVol.prog_kept (n : NonVol) (a : Nat) (bs : List Byte) : NvKept n (n.prog a bs) := .of (n.prog_wf a bs)

theorem NonVol.erase_kept (n : NonVol) (a l : Nat) : NvKept n (n.erase a l) := .of (n.erase_wf a l)

theorem NonVol.sector_kept (n : NonVol) (a : Nat) (bs : List Byte) : NvKept n (n.sector a bs) := .of (n.sector_wf a bs)

theorem NonVol.actWrite_kept (n : NonVol) (a b c e : Nat) : NvKept n (n.actWrite a b c e) := NonVol.sector_kept _ _ _

theorem NonVol.ownerWrite_kept (n : NonVol) (a : Nat) (b : Bool) (k : List Byte) : NvKept n (n.ownerWrite a b k) := NonVol.sector_kept _ _ _

theorem NonVol.ownerBoth_kept (n : NonVol) (a : Nat) (k : List Byte) : NvKept n (n.ownerBoth a k) := (NonVol.ownerWrite_kept _ _ _ _).trans (NonVol.ownerWrite_kept _ _ _ _)

theorem Dev.storeAbort_kept (d : Dev) (n : NonVol) : NvKept n (d.storeAbort n) := by
  unfold Dev.storeAbort; split
  · exact NonVol.erase_kept _ _ _
  · exact .refl _

theorem NvKept.foldl_snd {α β : Type} (f : α × NonVol → β → α × NonVol) (h : ∀ x b, NvKept x.2 (f x b).2) (l : List β) :
    ∀ x, NvKept x.2 (l.foldl f x).2 := by
  induction l with
  | nil => intro x; exact .refl _
  | cons b l ih => intro x; exact (h x b).trans (ih _)

theorem NvKept.foldl {β : Type} (f : NonVol → β → NonVol) (h : ∀ x b, NvKept x (f x b)) (l : List β) :
    ∀ x, NvKept x (l.foldl f x) := by
  induction l with
  | nil => intro x; exact .refl _
  | cons b l ih => intro x; exact (h x b).trans (ih _)

theorem halfLost_kept (hs : List Nat) : ∀ (d : Dev) (n : NonVol), NvKept n (halfLost d n hs).2 := by
  induction hs with
  | nil => intro d n; exact .refl _
  | cons h hs ih =>
    intro d n
    unfold halfLost
    exact (NvKept.foldl_snd _ (fun x b => (NonVol.erase_kept _ _ _).trans (NonVol.prog_kept _ _ _)) _ (d, n)).trans (ih _ _)

theorem Dev.holdReset_kept (d : Dev) (n : NonVol) : NvKept n (d.holdReset n).2 := (Dev.storeAbort_kept d n).trans (halfLost_kept _ _ _)

theorem Dev.bootActRec_kept (d : Dev) (n : NonVol) : NvKept n (d.bootActRec n).2.2 := by
  unfold Dev.bootActRec
  split
  · exact .refl _
  · split
    · exact .refl _
    · split
      · exact NonVol.actWrite_kept _ _ _ _ _
      · exact NonVol.actWrite_kept _ _ _ _ _

theorem Dev.arbFinish_kept (d : Dev) (n : NonVol) (a : Option ActRec) : NvKept n (d.arbFinish n a).2 := by
  unfold Dev.arbFinish
  dsimp only
  split
  · split
    · next h =>
      simp only [Bool.and_eq_true, decide_eq_true_eq] at h
      intro w
      have := w.2
      exact ⟨⟨w.1, Nat.min_le_left _ _⟩, fun _ _ h => h, rfl, rfl, rfl, by show n.fuses.arb ≤ min 64 _; omega, fun _ x => x, fun _ x => x, rfl, rfl⟩
    · exact .refl _
  · exact .refl _

theorem Dev.bootStart_kept (d : Dev) (n : NonVol) (f : BootFlash) : NvKept n (d.bootStart n f).2 := by
  unfold Dev.bootStart
  dsimp only
  refine NvKept.trans ?_ (Dev.arbFinish_kept _ _ _)
  split
  · exact (Dev.bootActRec_kept _ _).trans (NonVol.erase_kept _ _ _)
  · exact .refl _

theorem Dev.restart_kept (d : Dev) (n : NonVol) : NvKept n (d.restart n).2 := (Dev.storeAbort_kept d n).trans (Dev.bootStart_kept _ _ _)

theorem Dev.tapLeave_kept (d : Dev) (n : NonVol) : NvKept n (d.tapLeave n).2 := by
  unfold Dev.tapLeave
  dsimp only
  repeat' split
  all_goals first | exact .refl _ | exact Dev.restart_kept _ _

theorem Dev.putPiece_kept (d : Dev) (n : NonVol) (a : Nat) (bs : List Byte) : NvKept n (d.putPiece n a bs).2 := by
  unfold Dev.putPiece
  exact (NvKept.foldl _ (fun x b => NonVol.erase_kept _ _ _) _ _).trans (NonVol.prog_kept _ _ _)

theorem Dev.updWrite_kept (d : Dev) (n : NonVol) (a : Nat) (bs : List Byte) : NvKept n (d.updWrite n a bs).2 := by
  unfold Dev.updWrite
  exact NvKept.foldl_snd _ (fun x b => Dev.putPiece_kept _ _ _ _) _ (d, n)

theorem Dev.updOpen_kept (d : Dev) (n : NonVol) (h : Holder) : NvKept n (d.updOpen n h).2 := by
  unfold Dev.updOpen
  first | exact .refl _ | exact NonVol.erase_kept _ _ _ 

theorem Dev.provision_kept (d : Dev) (n : NonVol) (k s : List Byte) : NvKept n (d.provision n k s).2 := by
  unfold Dev.provision
  split
  · exact .refl _
  · split
    · exact .refl _
    · split
      · exact .refl _
      · next i hi =>
        intro w
        have ho := NonVol.ownerBoth_kept n i k w
        have hf : (n.ownerBoth i k).fuses = n.fuses := rfl
        refine NvKept.pair (m := { n.ownerBoth i k with fuses := { (n.ownerBoth i k).fuses with
          owners := tset noneAt (n.ownerBoth i k).fuses.owners i (some (sha384 k)) } }) (fun _ => ⟨ho.1, ?_⟩) (Act.ok (d.secShow _) []) w
        refine ⟨fun j h hj => ?_, rfl, rfl, rfl, Nat.le_refl _, fun _ x => x, fun _ x => x, rfl, rfl⟩
        have hn : tget noneAt n.fuses.owners i = none := by
          have := List.find?_some hi
          simp only [Bool.and_eq_true, Option.isNone_iff_eq_none] at this
          exact this.1
        show tget noneAt (tset noneAt n.fuses.owners i (some (sha384 k))) j = some h
        rw [tget_tset]
        split
        · next e => subst e; rw [hn] at hj; cases hj
        · exact hj

theorem mailboxNv_kept (code : Nat) (own l : Bool) (t : Word) (as : List Word) (act : Dev → NonVol → Act × NonVol)
    (h : ∀ d n, NvKept n (act d n).2) (d : Dev) (n : NonVol) : NvKept n (mailboxNv code own l t as act d n).2 := by
  unfold mailboxNv
  dsimp only
  split
  · exact .refl _
  · split
    · exact .refl _
    · exact h _ _

theorem Dev.updPacket_kept (d : Dev) (n : NonVol) (x : Peer) (k : NetWire) (pl : List Byte) (op : Nat) (f : Dev → NonVol → Dev × NonVol)
    (h : ∀ d n, NvKept n (f d n).2) : NvKept n (d.updPacket n x k pl op f).2 := by
  unfold Dev.updPacket Dev.netInNv
  dsimp only
  repeat' split
  all_goals first | exact .refl _ | exact h _ _

theorem Dev.holderPacket_kept (d : Dev) (n : NonVol) (x : Peer) (k : NetWire) (pl : List Byte) (op : Nat) (f : Dev → NonVol → Dev × NonVol)
    (h : ∀ d n, NvKept n (f d n).2) : NvKept n (d.holderPacket n x k pl op f).2 := by
  unfold Dev.holderPacket
  refine Dev.updPacket_kept _ _ _ _ _ _ _ (fun d n => ?_)
  repeat' split
  all_goals first | exact .refl _ | exact h _ _

theorem onNv_kept {f : Dev → NonVol → Dev × NonVol} (h : ∀ d n, NvKept n (f d n).2) {s t : State} (e : onNv f s = .next t) : NvKept s.nv t.nv := by
  unfold onNv at e
  injection e with e
  subst e
  dsimp only
  split
  · exact .refl _
  · exact h _ _

theorem onPin_kept {f : Dev → NonVol → Dev × NonVol} (h : ∀ d n, NvKept n (f d n).2) {s t : State} (e : onPin f s = .next t) : NvKept s.nv t.nv := by
  unfold onPin at e
  injection e with e
  subst e
  exact h _ _

theorem onTap_kept {c b : Nat} {f : Dev → NonVol → Dev} {s t : State} (e : onTap c b f s = .next t) : NvKept s.nv t.nv := by
  unfold onTap at e
  refine onPin_kept (fun d n => ?_) e
  dsimp only
  split
  · exact .refl _
  · split
    · exact Dev.tapLeave_kept _ _
    · exact .refl _

theorem onNv_mailbox_kept {code : Nat} {own l : Bool} {t : Word} {as : List Word} {act : Dev → NonVol → Act × NonVol}
    (h : ∀ d n, NvKept n (act d n).2) {s u : State} (e : onNv (mailboxNv code own l t as act) s = .next u) : NvKept s.nv u.nv :=
  onNv_kept (fun d n => mailboxNv_kept _ _ _ _ _ _ h d n) e

end Sys2Proof.Machine
end

