-- ==== Sys2Proof/Laws/Ops.lean ====
section
/-! SUPPORT. One lemma per shared operation: what the three ways to act answer, what the mailbox does with a command, and what
the operations over registers, events and outputs leave behind. -/

namespace Sys2Proof.Machine

/-! ### The three ways to act -/

/-- A command of the device alone, while the device is on. -/
theorem onDev_on {s : State} (h : s.dev.off = false) (f : Dev → Dev) : onDev f s = .next { s with dev := f s.dev } := by
  simp [onDev, h]

/-- A command of the device alone, while the device is off, changes nothing. -/
theorem onDev_off {s : State} (h : s.dev.off = true) (f : Dev → Dev) : onDev f s = .next s := by
  simp [onDev, h]

/-- A command of the device alone always answers, and touches neither the non-volatile memories nor the queue. -/
theorem onDev_next (f : Dev → Dev) (s : State) : ∃ d, onDev f s = .next { s with dev := d } := ⟨_, rfl⟩

theorem onNv_on {s : State} (h : s.dev.off = false) (f : Dev → NonVol → Dev × NonVol) :
    onNv f s = .next { s with dev := (f s.dev s.nv).1, nv := (f s.dev s.nv).2 } := by
  simp [onNv, h]

theorem onNv_off {s : State} (h : s.dev.off = true) (f : Dev → NonVol → Dev × NonVol) : onNv f s = .next s := by
  simp [onNv, h]

theorem onNv_next (f : Dev → NonVol → Dev × NonVol) (s : State) : ∃ d n, onNv f s = .next { s with dev := d, nv := n } :=
  ⟨_, _, rfl⟩

theorem onPin_next (f : Dev → NonVol → Dev × NonVol) (s : State) :
    onPin f s = .next { s with dev := (f s.dev s.nv).1, nv := (f s.dev s.nv).2 } := rfl

/-- A camera port's command where the variant has the port. -/
theorem onPort_on {s : State} {p : Nat} (h : s.dev.off = false) (hp : p < s.dev.variant.ports) (f : Dev → Dev) :
    onPort p f s = .next { s with dev := f s.dev } := by
  simp [onPort, onDev, h, hp]

/-- A context's command where the variant has the context. -/
theorem onCtx_on {s : State} {c : Nat} (h : s.dev.off = false) (hc : c < s.dev.variant.contexts) (f : Dev → Dev) :
    onCtx c f s = .next { s with dev := f s.dev } := by
  simp [onCtx, onDev, h, hc]

/-- A fabric unit's command: nothing while the device is frozen, and what the unit does where it meets no error that freezes it
(R4, R13, R379). -/
theorem Dev.fabric_on {d : Dev} {f : Dev → Dev} (h : d.memFrozen = false) (hf : (f d).memFrozen = false) : d.fabric f = f d := by
  simp [Dev.fabric, h, hf]

/-- A frozen device's fabric stands still. -/
theorem Dev.fabric_frozen {d : Dev} (h : d.memFrozen = true) (f : Dev → Dev) : d.fabric f = d := by
  simp [Dev.fabric, h]

/-- A fabric unit's command, while the device is on and does not freeze. -/
theorem onFab_on {s : State} {f : Dev → Dev} (h : s.dev.off = false) (hm : s.dev.memFrozen = false)
    (hf : (f s.dev).memFrozen = false) : onFab f s = .next { s with dev := f s.dev } := by
  simp [onFab, onDev, h, Dev.fabric_on hm hf]

/-- An Assay command where the variant has Assay, while the device does not freeze. -/
theorem onAsy_on {s : State} {f : Dev → Dev} (h : s.dev.off = false) (ha : s.dev.variant.assay = true) (hm : s.dev.memFrozen = false)
    (hf : (f s.dev).memFrozen = false) : onAsy f s = .next { s with dev := f s.dev } := by
  rw [onAsy, onFab_on h hm (by simpa [ha] using hf)]
  simp [ha]

/-- A task command whose input holds an activation: the input is emptied and the task acts. -/
theorem Dev.task_held {d : Dev} {unit idx : Nat} {a : HeldAct} (h : tget noneAt d.rnl.acts (unit * 0x100 + idx) = some a)
    (act : HeldAct → Dev → Dev) :
    d.task unit idx act =
      act a { d with rnl := { d.rnl with acts := tset noneAt d.rnl.acts (unit * 0x100 + idx) none } } := by
  simp [Dev.task, Dev.takeAct, h]

/-- A command that reads DRAM answers as its act does, where nothing freezes the device (R379). -/
theorem Dev.readsDram_ok {d e : Dev} {act : Dev → Act} {b : List Byte} (h : d.memFrozen = false) (ha : act d = .ok e b)
    (he : e.memFrozen = false) : d.readsDram act = .ok e b := by
  simp [Dev.readsDram, h, ha, he]

/-! ### The mailbox -/

/-- The argument words and the tag reach MB_REQ and MB_TAG alone. -/
theorem Dev.reg_mbWrite (d : Dev) (t : Word) (as : List Word) (a : Nat)
    (h : a < R.MB_TAG ∨ (R.MB_TAG < a ∧ a < R.MB_REQ 0) ∨ R.MB_REQ as.length ≤ a) : (d.mbWrite t as).reg a = d.reg a := by
  unfold Dev.mbWrite
  rw [Dev.reg_setReg_ne _ _ _ _ (by simp only [R.MB_TAG, R.MB_REQ] at *; omega)]
  have : ∀ (l : List Nat) (e : Dev), (∀ i ∈ l, i < as.length) →
      (l.foldl (fun d i => d.setReg (R.MB_REQ i) (as.getD i 0)) e).reg a = e.reg a := by
    intro l
    induction l with
    | nil => intro e _; rfl
    | cons i l ih =>
      intro e hl
      simp only [List.foldl_cons]
      rw [ih _ (fun j hj => hl j (by simp [hj]))]
      have := hl i (by simp)
      exact Dev.reg_setReg_ne _ _ _ _ (by simp only [R.MB_TAG, R.MB_REQ] at *; omega)
  exact this _ _ (by simp)

/-- A command taken changes MB_REQ, MB_TAG and MB_STATUS alone. -/
theorem Dev.reg_mbTaken (d : Dev) (code : Nat) (t : Word) (as : List Word) (a : Nat)
    (h : a < R.MB_TAG ∨ (R.MB_STATUS < a ∧ a < R.MB_REQ 0) ∨ R.MB_REQ as.length ≤ a) :
    (d.mbTaken code t as).reg a = d.reg a := by
  have hs : a ≠ R.MB_STATUS := by simp only [R.MB_TAG, R.MB_STATUS, R.MB_REQ] at *; omega
  have hw : a < R.MB_TAG ∨ (R.MB_TAG < a ∧ a < R.MB_REQ 0) ∨ R.MB_REQ as.length ≤ a := by
    simp only [R.MB_TAG, R.MB_STATUS, R.MB_REQ] at *; omega
  rw [← Dev.reg_mbWrite d t as a hw]
  unfold Dev.mbTaken Dev.mbStart Dev.put Dev.setReg Dev.reg
  simp only [tget_tset_ne _ _ _ _ _ hs]

/-- A command taken freezes nothing. -/
theorem Dev.mbTaken_memFrozen (d : Dev) (code : Nat) (t : Word) (as : List Word) (hl : as.length ≤ 1024) :
    (d.mbTaken code t as).memFrozen = d.memFrozen := by
  simp only [Dev.memFrozen, Dev.bit, Dev.fld]
  rw [Dev.reg_mbTaken _ _ _ _ _ (.inr (.inr (by simp only [R.MB_REQ, R.MEM_STATUS]; omega)))]

/-- Arguments and tag leave BUSY, the owner session and INSP_READY as they are. -/
theorem Dev.flags_mbWrite (d : Dev) (t : Word) (as : List Word) :
    (d.mbWrite t as).mbBusy = d.mbBusy ∧ (d.mbWrite t as).ownSession = d.ownSession ∧
      (d.mbWrite t as).inspReady = d.inspReady := by
  refine ⟨?_, ?_, ?_⟩ <;>
    simp only [Dev.mbBusy, Dev.ownSession, Dev.inspReady, Dev.bit, Dev.fld] <;>
    rw [Dev.reg_mbWrite] <;> simp [R.MB_TAG, R.MB_STATUS, R.MB_REQ, R.HIF_STATUS, R.GLB_STATUS]

/-- The doorbell leaves the owner session and INSP_READY as they are. -/
theorem Dev.flags_mbTaken (d : Dev) (code : Nat) (t : Word) (as : List Word) :
    (d.mbTaken code t as).ownSession = d.ownSession ∧ (d.mbTaken code t as).inspReady = d.inspReady := by
  refine ⟨?_, ?_⟩ <;>
    simp only [Dev.ownSession, Dev.inspReady, Dev.bit, Dev.fld] <;>
    rw [Dev.reg_mbTaken] <;> simp [R.MB_TAG, R.MB_STATUS, R.MB_REQ, R.HIF_STATUS, R.GLB_STATUS]

/-- A doorbell write while BUSY is 1 raises DB_OVERRUN and nothing else (R357). -/
theorem Dev.mailbox_busy {d : Dev} (h : d.mbBusy = true) (code : Nat) (own lenOk : Bool) (t : Word) (as : List Word)
    (act : Dev → Act) : d.mailbox code own lenOk t as act = (d.mbWrite t as).dbOverrun := by
  simp [Dev.mailbox, (Dev.flags_mbWrite d t as).1, h]

/-- A command that a check refuses is answered with the check's status (R358). -/
theorem Dev.mailbox_refused {d : Dev} (h : d.mbBusy = false) {code : Nat} {own lenOk : Bool} {st : Nat}
    (hc : (d.mbTaken code t as).mbCheck code own lenOk = some st) (act : Dev → Act) :
    d.mailbox code own lenOk t as act = (d.mbTaken code t as).mbReply st [] := by
  unfold Dev.mbTaken at hc ⊢
  simp only [Dev.mailbox, (Dev.flags_mbWrite d t as).1, h, hc]
  rfl

/-- An open mailbox belongs to a device that is on. -/
theorem Dev.mbOpen_on {d : Dev} {code : Nat} {own : Bool} (h : d.mbOpen code own = true) : d.off = false := by
  simp only [Dev.mbOpen, Bool.and_eq_true, Bool.not_eq_true'] at h
  exact h.1.1.1

/-- An open mailbox runs no other command. -/
theorem Dev.mbOpen_idle {d : Dev} {code : Nat} {own : Bool} (h : d.mbOpen code own = true) : d.mbBusy = false := by
  simp only [Dev.mbOpen, Bool.and_eq_true, Bool.not_eq_true'] at h
  exact h.1.1.2

/-- Where the mailbox is open for a code, the checks refuse nothing but a wrong length. -/
theorem Dev.mbCheck_open {d : Dev} {code : Nat} {own : Bool} (h : d.mbOpen code own = true) {lenOk : Bool}
    (hl : lenOk = true) (t : Word) (as : List Word) : (d.mbTaken code t as).mbCheck code own lenOk = none := by
  simp only [Dev.mbOpen, Bool.and_eq_true, Bool.or_eq_true, Bool.not_eq_true', beq_iff_eq] at h
  have hf := Dev.flags_mbTaken d code t as
  subst hl
  unfold Dev.mbCheck
  rw [hf.1, hf.2]
  obtain ⟨⟨⟨_, _⟩, ho⟩, hi⟩ := h
  cases own <;> cases hr : d.inspReady <;> simp_all <;> omega

/-- A command that may act now acts on the device that has taken it. -/
theorem Dev.mailbox_open {d : Dev} {code : Nat} {own : Bool} (h : d.mbOpen code own = true) {lenOk : Bool}
    (hl : lenOk = true) (t : Word) (as : List Word) (act : Dev → Act) :
    d.mailbox code own lenOk t as act = (act (d.mbTaken code t as)).settle (d.mbTaken code t as) := by
  have hb := Dev.mbOpen_idle h
  have hc := Dev.mbCheck_open h hl t as
  unfold Dev.mbTaken at hc ⊢
  simp only [Dev.mailbox, (Dev.flags_mbWrite d t as).1, hb, hc]
  rfl

/-- The same for a command that may write fuses or flash. -/
theorem mailboxNv_open {d : Dev} {code : Nat} {own : Bool} (h : d.mbOpen code own = true) {lenOk : Bool}
    (hl : lenOk = true) (t : Word) (as : List Word) (act : Dev → NonVol → Act × NonVol) (n : NonVol) :
    mailboxNv code own lenOk t as act d n =
      ((act (d.mbTaken code t as) n).1.settle (d.mbTaken code t as), (act (d.mbTaken code t as) n).2) := by
  have hb := Dev.mbOpen_idle h
  have hc := Dev.mbCheck_open h hl t as
  unfold Dev.mbTaken at hc ⊢
  simp only [mailboxNv, (Dev.flags_mbWrite d t as).1, hb, hc]
  rfl

/-- Every unit of the device but its registers and the host interface is as it was when a command is taken. -/
@[simp] theorem Dev.mbTaken_keeps (d : Dev) (code : Nat) (t : Word) (as : List Word) :
    (d.mbTaken code t as).variant = d.variant ∧ (d.mbTaken code t as).active = d.active ∧
    (d.mbTaken code t as).glb = d.glb ∧ (d.mbTaken code t as).rnl = d.rnl ∧ (d.mbTaken code t as).tim = d.tim ∧
    (d.mbTaken code t as).tdl = d.tdl ∧ (d.mbTaken code t as).mem = d.mem ∧ (d.mbTaken code t as).cfg = d.cfg ∧
    (d.mbTaken code t as).pins = d.pins ∧ (d.mbTaken code t as).cam = d.cam ∧ (d.mbTaken code t as).str = d.str ∧
    (d.mbTaken code t as).shf = d.shf ∧ (d.mbTaken code t as).lode = d.lode ∧ (d.mbTaken code t as).asy = d.asy ∧
    (d.mbTaken code t as).seam = d.seam ∧ (d.mbTaken code t as).net = d.net ∧ (d.mbTaken code t as).slu = d.slu ∧
    (d.mbTaken code t as).cove = d.cove ∧ (d.mbTaken code t as).sec = d.sec ∧ (d.mbTaken code t as).cal = d.cal := by
  simp [Dev.mbTaken]

/-- The bytes of a word are four. -/
@[simp] theorem wordBytes_length (w : Word) : (wordBytes w).length = 4 := rfl

/-- A register read list answers four bytes a register. -/
@[simp] theorem Dev.regsBytes_length (d : Dev) (as : List Nat) : (d.regsBytes as).length = 4 * as.length := by
  unfold Dev.regsBytes
  induction as with
  | nil => rfl
  | cons a as ih =>
    rw [List.flatMap_cons, List.length_append, ih]
    simp
    omega

/-- A register shows the same value once a command is taken, outside MB_REQ, MB_TAG and MB_STATUS. -/
theorem readReg_mbTaken (d : Dev) (code : Nat) (t : Word) (as : List Word) (a : Nat)
    (h : a < R.MB_TAG ∨ (R.MB_STATUS < a ∧ a < R.MB_REQ 0) ∨ R.MB_REQ as.length ≤ a)
    (hl : as.length ≤ 1024) : readReg (d.mbTaken code t as) a = readReg d a := by
  have low : ∀ b, b < R.MB_TAG → (d.mbTaken code t as).reg b = d.reg b := fun b hb => Dev.reg_mbTaken d code t as b (.inl hb)
  have high : ∀ b, R.MB_REQ 1024 ≤ b → (d.mbTaken code t as).reg b = d.reg b := fun b hb =>
    Dev.reg_mbTaken d code t as b (.inr (.inr (by simp only [R.MB_REQ] at *; omega)))
  have hst : ∀ n, n < 8 → (d.mbTaken code t as).still n = d.still n := fun n hn => by
    simp only [Dev.still, Dev.bit, Dev.fld]
    rw [low _ (by simp only [R.TDL_POSn_SPD_STATUS, R.MB_TAG]; omega)]
  have hsv : ∀ n, n < 8 → (d.mbTaken code t as).spdValid n = d.spdValid n := fun n hn => by
    simp only [Dev.spdValid, Dev.bit, Dev.fld]
    rw [low _ (by simp only [R.TDL_POSn_SPD_STATUS, R.MB_TAG]; omega)]
  have hsp : ∀ n, n < 8 → (d.mbTaken code t as).speedNow n = d.speedNow n := fun n hn => by
    have h8 : (d.mbTaken code t as).now8 = d.now8 := by simp [Dev.now8, Dev.now2]
    simp only [Dev.speedNow, Dev.speedAt, Dev.bit, Dev.fld, h8, (Dev.mbTaken_keeps d code t as).2.2.2.2.2.1]
    rw [low _ (by simp only [R.TDL_POSn_SPD_STATUS, R.MB_TAG]; omega), low _ (by simp only [R.TDL_POSn_SPEED, R.MB_TAG]; omega)]
    rfl
  have hls : (d.mbTaken code t as).lss = d.lss := by
    simp only [Dev.lss, Dev.fld]
    rw [low _ (by simp [R.TDL_CTRL, R.MB_TAG])]
  have hl8 : d.lss < 8 := by
    simp only [Dev.lss, Dev.fld, getBits]
    omega
  have hmv : (d.mbTaken code t as).moving = d.moving := by
    simp only [Dev.moving, hls, hst _ hl8, hsv _ hl8, hsp _ hl8]
    rw [low _ (by simp [R.TDL_MOVE_TH, R.MB_TAG])]
  have htl : (d.mbTaken code t as).trialLeft = d.trialLeft := by
    simp only [Dev.trialLeft, Dev.now2, Dev.fld, Dev.mbTaken_keeps]
    rw [high _ (by simp [R.SEC_TRIAL_CFG, R.MB_REQ])]
  have hso : (d.mbTaken code t as).stagingOld = d.stagingOld := by
    simp only [Dev.stagingOld, Dev.now2, Dev.mbTaken_keeps]
    rfl
  have hns : ∀ f : Fld, f.addr = R.NET_STATUS → (d.mbTaken code t as).fld f = d.fld f := fun f hf => by
    simp only [Dev.fld]
    rw [hf, low _ (by simp [R.NET_STATUS, R.MB_TAG])]
  have hdr : ∀ n, (d.mbTaken code t as).dataRate n = d.dataRate n := fun n => by
    unfold Dev.dataRate Dev.now2
    rw [(Dev.mbTaken_keeps d code t as).2.2.2.2.1, (Dev.mbTaken_keeps d code t as).2.2.2.2.2.2.1]
  have hhb : ∀ n, (d.mbTaken code t as).heldBy n = d.heldBy n := fun n => by
    simp only [Dev.heldBy, Dev.mbTaken_keeps]
  have hfa : ∀ lo w, (d.mbTaken code t as).fld ⟨a, lo, w⟩ = d.fld ⟨a, lo, w⟩ := fun lo w => by
    simp only [Dev.fld, Dev.reg_mbTaken d code t as a h]
  have hf4 : ∀ lo w, a < 0x230024 → (d.mbTaken code t as).fld ⟨a - 4, lo, w⟩ = d.fld ⟨a - 4, lo, w⟩ := fun lo w ha => by
    simp only [Dev.fld]
    rw [low _ (by simp only [R.MB_TAG]; omega)]
  have hnb : (d.mbTaken code t as).bit ⟨R.NET_STATUS, 1, 1⟩ = d.bit ⟨R.NET_STATUS, 1, 1⟩ := by
    simp only [Dev.bit]
    rw [hns _ rfl]
  unfold readReg
  rw [(Dev.mbTaken_keeps d code t as).1, Dev.reg_mbTaken d code t as a h, hmv, hls, hst _ hl8, htl, hso, hnb, hns _ rfl, hdr, hhb]
  simp only [hfa, (Dev.mbTaken_keeps d code t as).2.2.2.2.2.2.2.2.2.2.2.1]
  by_cases h1 : 0x700428 ≤ a ∧ a < 0x700600 ∧ (a - 0x700428) % 0x40 = 0
  · rw [hsp _ (by omega)]
    by_cases h2 : a < 0x230024
    · omega
    · have : ¬ (0x210024 ≤ a ∧ a < 0x230024 ∧ (a - 0x210024) % 0x1000 = 0) := by omega
      simp only [this, if_false]
  · simp only [h1, if_false]
    by_cases h2 : a < 0x230024
    · rw [hf4 _ _ h2]
    · have : ¬ (0x210024 ≤ a ∧ a < 0x230024 ∧ (a - 0x210024) % 0x1000 = 0) := by omega
      simp only [this, if_false]

/-- The registers of a list read the same once a command is taken. -/
theorem Dev.regsBytes_mbTaken (d : Dev) (code : Nat) (t : Word) (as : List Word) (l : List Nat)
    (h : ∀ a ∈ l, a < R.MB_TAG ∨ (R.MB_STATUS < a ∧ a < R.MB_REQ 0) ∨ R.MB_REQ as.length ≤ a) (hl : as.length ≤ 1024) :
    (d.mbTaken code t as).regsBytes l = d.regsBytes l := by
  unfold Dev.regsBytes
  induction l with
  | nil => rfl
  | cons a l ih =>
    simp only [List.flatMap_cons]
    rw [readReg_mbTaken d code t as a (h a (by simp)) hl, ih (fun b hb => h b (by simp [hb]))]

/-- The registers from one address to another that a table lists lie between them. -/
theorem listedIn_range {lo hi a : Nat} (h : a ∈ listedIn lo hi) : lo ≤ a ∧ a ≤ lo + 4 * ((hi - lo) / 4) := by
  simp only [listedIn, addrs, List.mem_filter, List.mem_map, List.mem_range] at h
  obtain ⟨⟨i, hi', rfl⟩, _⟩ := h
  omega

/-- How many they are at most. -/
theorem listedIn_length (lo hi : Nat) : (listedIn lo hi).length ≤ (hi - lo) / 4 + 1 := by
  unfold listedIn
  exact Nat.le_trans (List.length_filter_le _ _) (by simp [addrs])

/-- A command that reads: it answers, and changes nothing but the mailbox. -/
theorem onDev_mailbox_answers {s : State} {code : Nat} {own lenOk : Bool} {t : Word} {as : List Word} {act : Dev → Act}
    {resp : List Byte} (h : s.dev.mbOpen code own = true) (hl : lenOk = true)
    (ha : act (s.dev.mbTaken code t as) = .ok (s.dev.mbTaken code t as) resp) (hr : resp.length ≤ 262144) :
    onDev (fun d => d.mailbox code own lenOk t as act) s = .next (s.answered code t as resp) := by
  rw [onDev_on (Dev.mbOpen_on h), Dev.mailbox_open h hl, ha, Act.settle, if_neg (by omega)]
  rfl

/-- The same for a command that may write fuses or flash. -/
theorem onNv_mailbox_answers {s : State} {code : Nat} {own lenOk : Bool} {t : Word} {as : List Word}
    {act : Dev → NonVol → Act × NonVol} {resp : List Byte} (h : s.dev.mbOpen code own = true) (hl : lenOk = true)
    (ha : act (s.dev.mbTaken code t as) s.nv = (.ok (s.dev.mbTaken code t as) resp, s.nv)) (hr : resp.length ≤ 262144) :
    onNv (mailboxNv code own lenOk t as act) s = .next (s.answered code t as resp) := by
  rw [onNv_on (Dev.mbOpen_on h), mailboxNv_open h hl, ha, Act.settle, if_neg (by omega)]
  rfl

/-- A command that acts: the device its act leaves, with OK and its response. -/
theorem onDev_mailbox_acts {s : State} {code : Nat} {own lenOk : Bool} {t : Word} {as : List Word} {act : Dev → Act}
    {d : Dev} {resp : List Byte} (h : s.dev.mbOpen code own = true) (hl : lenOk = true)
    (ha : act (s.dev.mbTaken code t as) = .ok d resp) (hr : resp.length ≤ 262144) :
    onDev (fun d => d.mailbox code own lenOk t as act) s = .next { s with dev := d.mbReply stOk resp } := by
  rw [onDev_on (Dev.mbOpen_on h), Dev.mailbox_open h hl, ha, Act.settle, if_neg (by omega)]

/-- The same for a command that writes fuses or flash. -/
theorem onNv_mailbox_acts {s : State} {code : Nat} {own lenOk : Bool} {t : Word} {as : List Word}
    {act : Dev → NonVol → Act × NonVol} {d : Dev} {n : NonVol} {resp : List Byte} (h : s.dev.mbOpen code own = true)
    (hl : lenOk = true) (ha : act (s.dev.mbTaken code t as) s.nv = (.ok d resp, n)) (hr : resp.length ≤ 262144) :
    onNv (mailboxNv code own lenOk t as act) s = .next { s with dev := d.mbReply stOk resp, nv := n } := by
  rw [onNv_on (Dev.mbOpen_on h), mailboxNv_open h hl, ha, Act.settle, if_neg (by omega)]

/-- The bytes of a number are as many as asked for. -/
@[simp] theorem leBytes_length (n v : Nat) : (leBytes n v).length = n := by
  induction n generalizing v with
  | zero => rfl
  | succ n ih => simp [leBytes, ih]

/-- Equal-sized pieces laid end to end. -/
theorem flatMap_length_of {α β : Type} (f : α → List β) (k : Nat) (h : ∀ a, (f a).length = k) (l : List α) :
    (l.flatMap f).length = k * l.length := by
  induction l with
  | nil => rfl
  | cons a l ih => rw [List.flatMap_cons, List.length_append, h, ih, List.length_cons, Nat.mul_succ]; omega

end Sys2Proof.Machine
end

