-- ==== Sys2Proof/Machine/Pins.lean ====
section
/-! DEFINITION. The pins: which ball carries what (R496, R498), and the state of each pin (R498, R500, R501, R502). Nothing here is
state: it is read off the registers, the claims and the boundary register. -/

namespace Sys2Proof.Machine

/-! ### The ball map (R496) -/

/-- What a ball carries: a supply, nothing to be connected, a numbered signal with its leg, or a pin with a name of its own. -/
inductive Ball where
  | gnd | vcore | vddaSer | vddhSer | vddHbm | vddqHbm | vppHbm | vio18 | vio33 | vcove | vioXspi | dnc
  | sig (block : String) (n : Nat) (leg : String)
  | pin (name : String)
deriving DecidableEq, Repr

/-- The letters of the ball rows, in the order of their index, which counts from 1. -/
def ballRows : List String :=
  ["A", "B", "C", "D", "E", "F", "G", "H", "J", "K", "L", "M", "N", "P", "T", "U", "V", "W", "Y"] ++
  ["AA", "AB", "AC", "AD", "AE", "AF", "AG", "AH", "AJ", "AK", "AL", "AM", "AN", "AP", "AT", "AU", "AV", "AW", "AY"] ++
  ["BA", "BB", "BC", "BD", "BE", "BF", "BG", "BH"]

/-- The index of a row by its letters. -/
def ballRow (letters : String) : Option Nat := (ballRows.findIdx? (fun x => x == letters)).map (fun i => i + 1)

/-- Table 24-3: the corner balls of a row, columns 1 to 6 and then 41 to 46. -/
def cornerRow : Nat → List Ball
  | 1 => [.vioXspi, .pin "XSPI_CLK", .pin "XSPI_CS_N", .pin "XSPI_DQS", .pin "XSPI_RESET_N", .gnd,
      .pin "TCK", .pin "TMS", .pin "TDI", .pin "TDO", .pin "TRST_N", .vcove]
  | 2 => [.sig "XSPI_DQ" 0 "", .sig "XSPI_DQ" 1 "", .sig "XSPI_DQ" 2 "", .sig "XSPI_DQ" 3 "", .vioXspi, .gnd,
      .pin "REFCLK_P", .pin "REFCLK_N", .gnd, .pin "THERM_D_P", .pin "THERM_D_N", .vcove]
  | 3 => [.sig "XSPI_DQ" 4 "", .sig "XSPI_DQ" 5 "", .sig "XSPI_DQ" 6 "", .sig "XSPI_DQ" 7 "", .vioXspi, .vioXspi,
      .pin "RESET_N", .pin "PFAIL_N", .pin "VSENSE", .pin "HOLD_OK", .vcove, .vcove]
  | 44 => [.sig "GPIO" 0 "", .sig "GPIO" 1 "", .sig "GPIO" 2 "", .sig "GPIO" 3 "", .sig "GPIO" 4 "", .gnd,
      .pin "NETA_SCL", .pin "NETA_SDA", .pin "NETA_MODABS", .pin "NETA_LOS", .pin "NETA_TXDIS", .pin "PPS_OUT"]
  | 45 => [.sig "GPIO" 5 "", .sig "GPIO" 6 "", .sig "GPIO" 7 "", .sig "GPIO" 11 "", .sig "GPIO" 12 "", .gnd,
      .pin "NETB_SCL", .pin "NETB_SDA", .pin "NETB_MODABS", .pin "NETB_LOS", .pin "NETB_TXDIS", .dnc]
  | 46 => [.sig "GPIO" 13 "", .sig "GPIO" 14 "", .sig "GPIO" 15 "", .pin "ARB_SEL", .pin "PPS_IN", .gnd,
      .pin "USB4_SBTX", .pin "USB4_SBRX", .dnc, .dnc, .dnc, .dnc]
  | _ => []

/-- Row B of the high-speed edge. -/
def edgePairs : List (Nat × String) :=
  [(8, "NETA_TX_P"), (9, "NETA_TX_N"), (11, "NETA_RX_P"), (12, "NETA_RX_N"), (14, "NETB_TX_P"), (15, "NETB_TX_N"), (17, "NETB_RX_P"),
   (18, "NETB_RX_N"), (29, "USB4_TX0_P"), (30, "USB4_TX0_N"), (32, "USB4_TX1_P"), (33, "USB4_TX1_N"), (35, "USB4_RX0_P"),
   (36, "USB4_RX0_N"), (38, "USB4_RX1_P"), (39, "USB4_RX1_N")]

/-- The leg of a differential pair by the parity of its place. -/
def pairLeg (name : String) (i : Nat) : String := name ++ (if i % 2 = 0 then "P" else "N")

/-- The position and trigger edge, rows BF to BH, columns 7 to 40. -/
def triggerEdge (row col : Nat) : Ball :=
  if row = 44 then (if col < 39 then .sig "TRIG" ((col - 7) / 2) (pairLeg "" (col - 7)) else .pin (pairLeg "SYNC_OUT_" (col - 39)))
  else if row = 45 then
    (if col = 10 ∨ col = 12 ∨ col = 14 ∨ col = 16 then .sig "STROBE" ((col - 10) / 2) ""
     else if col = 20 then .pin "SSI0_CLK" else if col = 22 then .pin "SSI0_DAT" else .gnd)
  else if col < 31 then .sig "ENC" ((col - 7) / 6) (pairLeg (["A_", "B_", "Z_"].getD ((col - 7) % 6 / 2) "") (col - 7))
  else if col < 33 then .pin (pairLeg "SYNC_IN_" (col - 31))
  else if col < 39 then
    (if col % 2 = 1 then .sig "GPIO" (8 + (col - 33) / 2) "" else .sig "HALL" 0 (["U_N", "V_N", "W_N"].getD ((col - 33) / 2) ""))
  else .gnd

/-- Table 24-2: a camera port's block. -/
def cameraBall (port row j : Nat) : Ball :=
  if row % 2 = 1 ∨ j = 3 ∨ j = 6 then .gnd
  else .sig "CAM" port (pairLeg (if j < 3 then ["D0_", "D2_", "SP_"].getD (row / 2) "" else ["D1_", "D3_", "BC_"].getD (row / 2) "")
    (if j < 3 then j - 1 else j - 4))

/-- The serializer supply, columns 7, 8, 39 and 40. -/
def serializerBall (row col : Nat) : Ball :=
  if col = 7 ∨ col = 40 then (if row % 2 = 1 then .vddaSer else .gnd)
  else if row % 2 = 1 then (if row < 28 then .vddaSer else .vddhSer)
  else if row = 30 ∨ row = 32 ∨ row = 34 ∨ row = 36 then .vddhSer else .gnd

/-- Table 24-4: the memory supply band, rows D to L. -/
def memoryBall (row col : Nat) : Ball :=
  if row = 4 then
    (if col < 15 then .vio18 else if 17 ≤ col ∧ col < 21 then .vppHbm else if 23 ≤ col ∧ col < 26 then .dnc
     else if 33 ≤ col then .vio33 else .gnd)
  else if col % 2 = 1 then .gnd
  else if row = 6 ∨ row = 8 then .vddHbm
  else if row = 10 ∨ (row = 11 ∧ 10 ≤ col ∧ col ≤ 26) then .vddqHbm
  else .gnd

/-- The ball at a row index and a column, none outside the grid (Table 24-1). -/
def ballAt (row col : Nat) : Option Ball :=
  if row = 0 ∨ 46 < row ∨ col = 0 ∨ 46 < col then none
  else if col < 7 ∨ 40 < col then
    (if row < 4 ∨ 43 < row then (cornerRow row)[if col < 7 then col - 1 else col - 35]?
     else some (if col < 7 then cameraBall ((row - 4) / 5) ((row - 4) % 5) col else cameraBall ((row - 4) / 5 + 8) ((row - 4) % 5) (47 - col)))
  else if row < 4 then
    some (match (if row = 2 then edgePairs.find? (fun x => x.1 == col) else none) with
      | some x => .pin x.2
      | none => .gnd)
  else if 43 < row then some (triggerEdge row col)
  else if col < 9 ∨ 38 < col then some (serializerBall row col)
  else if 12 ≤ row ∧ row ≤ 35 then some (if (row + col) % 2 = 0 then .vcore else .gnd)
  else some (memoryBall (if row < 12 then row else 47 - row) col)

/-- Shared balls take their function from the claim (R498, Table 24-7): SSI1 on the balls of ENC3. -/
def Dev.ball (d : Dev) (row col : Nat) : Option Ball :=
  match ballAt row col with
  | some (.sig block n leg) =>
    if block = "ENC" ∧ n = 3 ∧ d.claimedUse 1 3 = 2 then
      some (if leg = "A_P" then .pin "SSI1_CLK" else if leg = "B_P" then .pin "SSI1_DAT" else .sig block n leg)
    else if block = "GPIO" ∧ 8 ≤ n ∧ n < 11 ∧ d.claimedUse 2 n = 3 then some (.sig "HALL" 0 (["U_P", "V_P", "W_P"].getD (n - 8) ""))
    else if block = "TRIG" ∧ 14 ≤ n ∧ d.altTaken n then some (.sig "STROBE" (n - 12) leg)
    else some (.sig block n leg)
  | b => b

/-! ### Pin states (R501, R502) -/

/-- The state of a pin that its unit does not itself drive with data. -/
inductive PinState where
  | highZ
  | low
  | high
  | pulledDown
  | pulledUp
  | inactive
  | idle
  /-- as the pin's unit drives or samples it -/
  | service
  /-- as the boundary register has it -/
  | boundary
deriving DecidableEq, Repr

/-- The periods of Table 24-10. -/
inductive PinPeriod where
  | reset
  | booting
  | running
  | sag
deriving DecidableEq, Repr

/-- The period the device is in: RESET_N low, from its release or a reset until BOOT_PHASE 6, from BOOT_PHASE 6, sag save and SAG_HOLD. -/
def Dev.period (d : Dev) : PinPeriod :=
  if d.cove.save.isSome || d.cove.hold then .sag
  else if d.glb.held || !d.glb.started then .reset
  else if 6 ≤ d.fld bootPhase then .running
  else .booting

/-- An EXTEST-class instruction takes every pin from the core (R491). -/
def Dev.pinState (d : Dev) (x : PinState) : PinState :=
  if d.pins.boundary = 0 then x else if d.pins.boundary = 3 then .highZ else .boundary

/-- TRIGn and SYNC_OUT: inactive when not enabled. -/
def Dev.trigPin (d : Dev) (enabled : Bool) : PinState :=
  d.pinState (match d.period with
    | .reset => .highZ
    | .booting => .highZ
    | .running => if enabled then .service else .inactive
    | .sag => .inactive)

/-- TRIGn. -/
def Dev.trigOut (d : Dev) (n : Nat) : PinState := d.trigPin (d.altTaken n || d.bit ⟨R.TDL_TRIGn_CFG n, 0, 1⟩)

/-- STROBEk and PPS_OUT. -/
def Dev.lowPin (d : Dev) : PinState :=
  d.pinState (match d.period with
    | .reset => .pulledDown
    | .booting => .low
    | .running => .service
    | .sag => .low)

/-- STROBEk: while ALT is set the balls of STROBE2 and STROBE3 drive low (R498). -/
def Dev.strobeOut (d : Dev) (k : Nat) : PinState :=
  if d.period = .running ∧ 2 ≤ k ∧ d.bit ⟨R.TDL_STBk_CFG k, 7, 1⟩ = true then d.pinState .low else d.lowPin

/-- The level that a GPIO output is given: by the host, or by Runnel's drive tasks (R500). -/
def Dev.gpioLevel (d : Dev) (n : Nat) : Bool :=
  if d.gpioRunnel n then d.pins.runnelOut.toNat / 2 ^ n % 2 == 1 else d.bit ⟨R.GLB_GPIO_OUT, n, 1⟩

/-- GPIOn: by PIN_ASSIGN from BOOT_PHASE 6 on, and outputs hold their level in a sag; an open-drain GPIO driven high releases the ball. -/
def Dev.gpioPin (d : Dev) (n : Nat) : PinState :=
  d.pinState (
    if d.period = .reset ∨ d.period = .booting then .pulledDown
    else if d.claimedUse 2 n = 3 then .service
    else if d.gpioMode n = 0 then
      (match d.fld ⟨R.GLB_PIN_PULL, 2 * n, 2⟩ with
       | 1 => .pulledDown
       | 2 => .pulledUp
       | _ => .highZ)
    else if !d.gpioLevel n then .low
    else if d.gpioMode n = 2 then .highZ
    else .high)

/-- NETx_TXDIS: low only from BOOT_PHASE 6 while the port is enabled. -/
def Dev.txDis (d : Dev) (p : Nat) : PinState :=
  d.pinState (if d.period = .running ∧ d.netEn p = true then .low else .high)

/-- The back channel of a camera port: idle until trained, and for ports that are absent or not enabled (R502). -/
def Dev.bcPin (d : Dev) (p : Nat) : PinState :=
  d.pinState (if d.period = .running ∧ p < d.variant.ports ∧ d.bit ⟨R.CAM_CTRL p, 0, 1⟩ = true then .service else .idle)

/-- NETx_TX: idle until its link is in service. -/
def Dev.netTxPin (d : Dev) (p : Nat) : PinState :=
  d.pinState (if d.period = .running ∧ d.netEn p = true ∧ d.netLink p = true then .service else .idle)

/-- XSPI_CS_N. -/
def Dev.xspiCs (d : Dev) : PinState := d.pinState (if d.period = .reset then .pulledUp else .service)

/-- HOLD_OK: low in reset and in a sag, otherwise the level of R467. -/
def Dev.holdPin (d : Dev) : PinState :=
  d.pinState (if d.period = .reset ∨ d.period = .sag then .low else if d.holdOk then .high else .low)

/-- TDO is at high impedance outside Shift-DR and Shift-IR, where every row of the TAP ends. -/
def tdoPin : PinState := .highZ

/-! ### Marking (R512) -/

/-- The ordering code of a variant (Table 24-16). -/
def Variant.orderingCode : Variant → String
  | .cg7240 => "CG7240-B0-FT"
  | .cg7230 => "CG7230-B0-FT"
  | .cg7220 => "CG7220-B0-FT"
  | .cg7210 => "CG7210-B0-FT"

end Sys2Proof.Machine
end

