-- ==== Sys2Proof/Tests/Slice0.lean ====
section
/-! SUPPORT. Small tests: a named witness for the hypotheses of every obligation that has some, an ill-formed command for each check of
`WellFormed`, and a few single commands checked against numbers the spec writes out. The states below are small plain data; a witness theorem
says nothing about what a command does, only that the hypotheses of its obligation (one conjunct for each clause) hold together there. -/

namespace Sys2Proof.Test
open Sys2Proof.Machine

set_option maxRecDepth 100000
set_option Elab.async false

/-- Whether an outcome is the next state `t`. -/
def nextIs (o : Host.Outcome State Fault Refusal) (t : State) : Bool :=
  match o with
  | .next u => decide (u = t)
  | _ => false
theorem nextIs_eq (o : Host.Outcome State Fault Refusal) (t : State) (h : nextIs o t = true) : o = .next t := by
  cases o with
  | next u => simpa [nextIs] using h
  | fault f => simp [nextIs] at h
  | refused r => simp [nextIs] at h

/-- Reset, with INSP_READY and OWN_SESSION set and the device started. -/
def ready : State :=
  let d : Dev := { State.reset.dev with glb := { State.reset.dev.glb with started := true } }
  { State.reset with dev := (d.put ⟨R.GLB_STATUS, 0, 1⟩ 1).put ⟨R.HIF_STATUS, 2, 1⟩ 1 }

/-- `ready` with the device changed. -/
def on (f : Dev → Dev) : State := { ready with dev := f ready.dev }
def sReady : State := { ready with pending := [.commit 0 1, .mailboxCompletion] }
def sReady' : State := match step sReady with | .next t => t | _ => ready
def sHeld : State := on fun d => { d with glb := { d.glb with held := true } }
def sSmall : State := on fun d => { d with variant := .cg7210 }
def sBusy : State := ready.answered 0x0101 3 [] []
def rReset : Running := { tag := 7, reply := some (0, []), code := 0x0103, id := 1 }
def sReset : State := ready.answered 0x0103 7 [] []
def rInfo : Running := { tag := 7, id := 1, reply := some (0, [1, 2, 3, 4, 5]), code := 0x0101 }
def sInfo : State := ready.answered 0x0101 7 [] [1, 2, 3, 4, 5]
def rowAt (a : Nat) : RegRow := (regRow a).getD ⟨0, [], 0, .ro, .run, 0, 0, 0⟩
/-- Context 0 with 64 output columns in force. -/
def sCtx : State := on fun d => d.setAct (R.CORR_OUT_W 0) 64
def sMos : State := on fun d => d.put ⟨R.SEAM_CFG 3, 0, 1⟩ 1
def aNet : AsyNet := { blob := List.replicate 2048 0, sram := 0 }
def sNet : State := on fun d => d.setNet 3 (some aNet)
def sLog : State := on fun d => { d with glb := { d.glb with log := (List.range 3).reverse.map (fun i => ⟨i, 1, .memUe, i, {}, []⟩) } }
def locTop : Loc := ⟨1, 31, 1, 3, 3, 65535, 1023⟩
def sRec : State := on fun d => { d with cfg := { d.cfg with records := List.replicate 8 0 } }
def sagBytes : List Byte := withCrc (leBytes 4 0x47534743 ++ leBytes 4 1 ++ leBytes 4 5 ++ List.replicate 1008 0xFF)
def sSag : State := { ready with nv := ready.nv.prog (journalSlot 0) sagBytes }
def sBist : State := on fun d => d.put ⟨R.CAL_BIST_STATUS, 0, 2⟩ 2
/-- Port 15 ACTIVE. -/
def sAct : State := on fun d => d.put ⟨R.CAM_STATUS 15, 0, 4⟩ 7
def sTable : State := on fun d => d.setReg (R.CTX_WIDTH 31) 4
def sTable0 : State := { sTable with dev := sTable.dev.mbTaken 0x0301 1 [31, 1, 0, 0, 8] }
def table8 : List Byte := [1, 0, 2, 0, 3, 0, 4, 0]
def dirBytes : List Byte := leBytes 8 0 ++ leBytes 8 100 ++ leBytes 8 200 ++ List.replicate 232 0
def sHist : State := on fun d =>
  let d := (((d.put ⟨R.SEAM_CFG 3, 0, 1⟩ 1).put ⟨R.HIST_STRIPES 3, 0, 24⟩ 4).setReg (R.HIST_DIR_BASE_LO 3) 0x1000).rawWrite 0x1000 dirBytes
  d.setSeamMos 3 { d.seamMos 3 with hist := [⟨0, 0, 0, [], [], 0, 0, 0, 0, 0, 0, []⟩] }
def dHist3 : Dev := sHist.dev.mbTaken 0x0308 1 [3, 0, 0]
def dHist7 : Dev := sHist.dev.mbTaken 0x0307 1 [3, 150, 0]
def dHist7a : Dev := (dHist7.dirRead 0x0B 3 (dHist7.oldestK 3)).2
def dHist7b : Dev := (dHist7a.dirRead 0x0B 3 (dHist7.lastK 3)).2
def dHist7c : Dev := ((dHist7b.histFind 3 150 64 (dHist7.oldestK 3) (dHist7.lastK 3)).2.dirRead 0x0B 3 0).2
def sLodeC : State := on fun d => (((d.put ⟨R.SEAM_CFG 3, 0, 1⟩ 1).setReg (R.LODE_MCFG 3) 1)
  |>.setReg (((lodeBanked 3).getD 0 0)) 0x00020001 |>.setReg (((lodeBanked 3).getD 1 0)) 0x00050004 |>.setReg (((lodeBanked 3).getD 2 0)) 3)
def netHead : List Byte := leBytes 4 0x4E595341 ++ leBytes 2 1 ++ [1, 0, 1, 1, 0, 0] ++ leBytes 4 1088 ++ List.replicate 44 0
def netBody : List Byte := [6, 8] ++ leBytes 2 1 ++ leBytes 2 1 ++ leBytes 2 32 ++ leBytes 2 32 ++ [0, 0] ++ leBytes 4 0 ++ leBytes 4 1024 ++
  List.replicate 12 0 ++ List.replicate (2048 - 96 + 1088) 0
/-- One fully connected layer of 1,024 inputs and one class. -/
def blob : List Byte := netHead ++ leBytes 4 (crc32c (netHead ++ [0, 0, 0, 0] ++ netBody)) ++ netBody
def dLoad : Dev := ready.dev.mbTaken 0x0501 1 [3, 0, 0, 3136]
def sAsy : State := on fun d => (d.setNet 1 (some { blob := blob, sram := 0 })).put ⟨R.ASY_MOSm_CFG 3, 1, 2⟩ 1
def pbHead : List Byte := List.replicate 9 0 ++ [1] ++ List.replicate 54 0
def sPatch : State := on fun d =>
  let d := ((d.setReg (R.ASY_PB_BASE_LO) 0x2000).setReg R.ASY_PB_STRIDE 0x1000).put ⟨R.ASY_PB_SLOTS, 0, 24⟩ 1
  ({ d with asy := { d.asy with pbGen := tset noneAt d.asy.pbGen 0 (some 7) } }).rawWrite 0x2000 pbHead
def dPatch : Dev := sPatch.dev.mbTaken 0x0504 1 [0x07000000]
def dPatch1 : Dev := (dPatch.memRead 0x0B 0x2000 64).2.2
def dPatch2 : Dev := (dPatch1.memRead 0x0B 0x2000 2112).2.2
def sRing : State := on fun d => { d with cfg := { d.cfg with claims := [⟨5, ringQueue 4095, 1, 2, false⟩] } }
def sTrig : State := on fun d => { d.setReg (R.TDL_TRIGn_COUNT 15) 256 with tdl := { d.tdl with trigAt := [(15, List.replicate 256 0)] } }
def sTrigW : State := { sTrig with dev := sTrig.dev.setReg (R.TDL_TRIGn_COUNT 15) 3 }
/-- The key pair whose secret key is 1, and a signature with it. -/
def gKey : List Byte := 4 :: (beBytes 48 ecGx ++ beBytes 48 ecGy)
def sign (msg : List Byte) : List Byte := beBytes 48 (ecGx % ecN) ++ beBytes 48 ((beNat (sha384 msg) + ecGx) % ecN)
def nonce1 : List Byte := List.replicate 32 9
def nvOwn : NonVol := { (ready.nv.ownerBoth 0 gKey) with fuses := { ready.nv.fuses with owners := [(0, some (sha384 gKey))] } }
/-- An owned device. -/
def sOwn : State := { ready with nv := nvOwn }
def sChal : State := on fun d => { d with sec := { d.sec with nonce := some nonce1, session := some nonce1 } }
def sOwnChal : State := { sChal with nv := nvOwn }
def sigWords : List Word := bytesWords (sign ([0x43, 0x47, 0x4F, 0x53] ++ nvOwn.idBytes ++ nonce1))
def provWords : List Word := bytesWords (gKey ++ sign ([0x43, 0x47, 0x4F, 0x50] ++ ready.nv.idBytes ++ nonce1))
def sTc : State := on fun d => { d with tim := { d.tim with tb1 := { sec := 1000, ns := 0, frac := 0 } } }
def sSrc2 : State := on fun d => d.put ⟨R.TIM_CFG, 0, 2⟩ 2
def sMemLog : State := on fun d => { d with mem := { d.mem with log := [⟨0, 1, 2, 3, 4, 5, 6⟩] } }
def sSlu : State := on fun d => d.put ⟨R.SLU_CTRL, 0, 1⟩ 1
def hostClaim : Claim := ⟨1, 2, 3, 1, true⟩
def sClaim : State := on fun d => { d with cfg := { d.cfg with claims := [hostClaim] } }
def sPol : State := on fun d => d.put ⟨R.SEC_POLICY, 0, 1⟩ 1
def calm (d : Dev) : Dev := (d.put ⟨R.PWR_STATUS, 1, 1⟩ 1).put ⟨R.TDL_POSn_SPD_STATUS d.lss, 2, 1⟩ 1
def sCalm : State := on calm
def sHold (stage : Nat) : State := on fun d => calm <| ({ d with sec := { d.sec with holder := some { net := false } } }.put sessionSrc 1).setStage stage
def rcdOwn : OwnerRec := nvOwn.ownerRec.getD ⟨0, false, 0, []⟩
/-- The spare slot holds no part. -/
def sHoldM : State := { sHold 3 with nv := (sHold 3).nv.prog (slotBase (sHold 3).nv.spareSlot) (List.replicate 32 0) }
def sEn : State := on fun d => d.put ⟨R.CTX_CFG 31, 0, 1⟩ 1
def sTimed : State := on fun d => d.put ⟨R.TDL_CMPn_CFG 31, 0, 2⟩ 3
def sCopy : State := on fun d => d.put ⟨R.HIF_DMAe_CFG 15, 1, 1⟩ 1
/-- Runnel on, channel 127 from one producer to one task, its group 15 enabled. -/
def sRnl : State := on fun d =>
  let d := (d.put ⟨R.RNL_CTRL, 0, 1⟩ 1).put ⟨R.RNL_GRP_EN, 15, 1⟩ 1
  ((d.setAct (R.RNL_CHc_SRC01 127) 0x81008100).setAct (R.RNL_CHc_DST67 127) 0x84100000).setAct (R.RNL_CHc_CFG 127) 0x3F
def act1 : HeldAct := { hop := 1, chan := 127, secure := [], opens := [127] }
def sActs (key : Nat) : State := on fun d => { d with rnl := { d.rnl with acts := [(key, some act1)] } }
def sActsM (key : Nat) : State := { sActs key with dev := (sActs key).dev.put ⟨R.SEAM_CFG 3, 0, 1⟩ 1 }
def sPin : State := on fun d => { d with cfg := { d.cfg with claims := [⟨2, 15, 1, 2, false⟩] } }
/-- 1 MB each: the primary history half at 16 MB, the secondary at 32 MB, host partition 0 at 64 MB. -/
def partsAt (d : Dev) : Dev :=
  (((((d.put ⟨R.MEM_PARTp_BASE 4, 0, 17⟩ 16).put ⟨R.MEM_PARTp_SIZE 4, 0, 18⟩ 1).put ⟨R.MEM_PARTp_BASE 5, 0, 17⟩ 32).put
    ⟨R.MEM_PARTp_SIZE 5, 0, 18⟩ 1).put ⟨R.MEM_PARTp_BASE 6, 0, 17⟩ 64).put ⟨R.MEM_PARTp_SIZE 6, 0, 18⟩ 1
def sParts : State := on partsAt
def sFrozen : State := on fun d => (partsAt d).put ⟨R.MEM_STATUS, 1, 1⟩ 1
def memReq1 : MemReq := { write := false, req := 3, addr := 0, n := 64, bytes := [], meets := .clean, mirror := .clean }
def sWait : State := on fun d => { d with mem := { d.mem with wait := [memReq1] } }
def sFull : State := on fun d => { partsAt d with mem := { d.mem with wait := List.replicate 1024 memReq1 } }
def sOwed : State := on fun d => { d with mem := { d.mem with owed := [(63, 8)] } }
def sScrub : State := on fun d => d.put ⟨R.MEM_CFG, 0, 1⟩ 1
def sRecov : State := on fun d => d.put ⟨R.MEM_TRAINs_c 1 15, 2, 1⟩ 1
def sRun : State := on fun d => ({ d with slu := { d.slu with runs := [(1, List.replicate 40 1)] } }).put ⟨R.SLU_CTRL, 0, 1⟩ 1
def sJobs : State := on fun d =>
  ({ d with slu := { d.slu with slots := 16, taken := 0xFFFFFFFF } }.put ⟨R.SLU_CTRL, 0, 1⟩ 1).setReg R.SLU_JOB_WR 0
def jobM : SluJob := { desc := List.replicate 40 1, mailbox := true, id := 1 }
def sJobM : State := { sSlu with dev :=
  { (sSlu.dev.mailbox 0x0D02 false true 1 (List.replicate 10 3) (fun d => .wait d)) with slu := { sSlu.dev.slu with lanes := [(3, some jobM)] } } }
def beat1 : TapBeat := { sel := 3, idx := 0, addr := 0, bytes := List.replicate 64 5 }
def sTap : State := on fun d => (d.cvConfig 7 0x300).cvConfig 7 0x301
def sHost : State := on fun d => { (d.put ⟨R.HIF_DMAe_STATUS 15, 0, 1⟩ 1) with
  cfg := { d.cfg with claims := [hostClaim, { hostClaim with first := 7, host := false }] }
  hif := { d.hif with attached := true, running := some rInfo } }
/-- Ring 4095 holds one record for engine 15, which runs. -/
def sBurst : State := on fun d =>
  let d := { d with cfg := { d.cfg with claims := [⟨5, ringQueue 4095, 1, 2, false⟩] }
                    shf := { d.shf with fresh := 1, rings := [(4095, [0])], placed := [4095] } }
  (d.put ⟨R.HIF_DMAe_STATUS 15, 0, 1⟩ 1).put ⟨R.DR_n_CFG 4095, 0, 6⟩ 0x3E
def copyDesc (src dst len cf : Nat) : List Byte := leBytes 8 src ++ leBytes 8 dst ++ leBytes 4 len ++ leBytes 4 cf ++ leBytes 8 0
/-- Engine 15 runs in copy mode with a descriptor. -/
def sCopyRun : State := on fun d =>
  (((d.put ⟨R.HIF_DMAe_CFG 15, 0, 2⟩ 3).put ⟨R.HIF_DMAe_STATUS 15, 0, 1⟩ 1).setReg (R.HIF_DMAe_WR 15) 1).rawWrite 0x1FFFFFFFFE [6, 7]
def sUnsig : State := on fun d => { d with hif := { d.hif with unsignalled := [(15, 1)] } }
def sCold : State := { State.reset with dev := { State.reset.dev with glb := { State.reset.dev.glb with held := true } } }
def save1 : SagSave := { slot := some 511, record := List.replicate 1024 3 }
def sSave : State := on fun d => { d with cove := { d.cove with save := some save1 } }
def epoch1 : EpochWrite := { copy := 1, epoch := 5, seq := 9 }
def sEpoch : State := on fun d => { d with cfg := { d.cfg with epochWrite := some epoch1 } }
def sTrain : State := on fun d => { (d.put bootPhase 4) with cfg := { d.cfg with loaded := true } }
def dInsp : Dev := { State.reset.dev with glb := { State.reset.dev.glb with started := true } }
def sInsp : State := { State.reset with dev :=
  (((dInsp.put bootPhase 6).put ⟨R.MEM_STATUS, 0, 1⟩ 1).put ⟨R.CAM_STATUS 15, 0, 4⟩ 10).put ⟨R.CAM_CFG 15, 0, 1⟩ 1 }
def trial1 : Trial := { start := 0, prev := 0 }
def sTrial : State := on fun d => { d with sec := { d.sec with trial := some trial1 } }
def nvLocked : NonVol := { nvOwn with fuses := { nvOwn.fuses with debugLock := 1 } }
def sLocked : State := { sOwn with nv := nvLocked }
def sUnlock : State := { sLocked with dev := { sLocked.dev with sec := { sLocked.dev.sec with unlockNonce := some nonce1, unlockFails := 7 } } }
def sEight : State := { sLocked with dev := { sLocked.dev with sec := { sLocked.dev.sec with unlockFails := 8 } } }
def unlockSig : List Byte := sign ([0x43, 0x47, 0x44, 0x55] ++ nvOwn.idBytes ++ nonce1)
def sExtest : State := on fun d => { d with pins := { d.pins with boundary := 1 } }
def sHoldUp : State := on fun d => (d.put ⟨R.PWR_STATUS, 0, 2⟩ 3).put ⟨R.PWR_STATUS, 3, 1⟩ 1
def sHoldSag : State := on fun d => { d with cove := { d.cove with hold := true } }
def sErase : State := on fun d => { d with cove := { d.cove with erasing := [1, 0] } }
def sCal : State := on fun d => d.put (calPending 18) 1
def sCalRun : State := { sCal with dev := { sCal.dev with cal := { sCal.dev.cal with running := [18] } } }
def sStoreW : State := on fun d => { d with cal := { d.cal with writing := true } }
def sBist0 : State := on fun d => { d with cove := { d.cove with bist := some (0x3FFF, 0) } }
def sBist1 : State := on fun d => { d with cove := { d.cove with bist := some (0x3FFF, 1) } }
def sPace : State := on fun d => d.put ⟨R.GLB_PACE_CTRL, 0, 1⟩ 1
/-- Port 15 in a state, four lanes in use, SP present, with its own data. -/
def sCam (st : Nat) (x : CamPort) : State := on fun d =>
  ((((d.put ⟨R.CAM_STATUS 15, 0, 4⟩ st).put (laneCnt 15) 4).put (spPresent 15) 1).setReg (R.CAM_LANE_MAP 15) 0x3210).setCport 15 x
/-- The 10-bit groups of symbols (true: a K-symbol) from a running disparity on. -/
def enc : Bool → List (Bool × Nat) → List Nat
  | _, [] => []
  | pos, (c, b) :: r =>
    let g := if c then encCtl pos b else encData pos b
    g :: enc (rdGroup g pos) r
/-- The ordered set of a link management message of a type and a code, with its check byte. -/
def lm (ty code a0 a1 a2 seq : Nat) : List Nat :=
  enc false ([(true, 0x3C)] ++ ([16 * ty + code, a0, a1, a2, seq, (16 * ty + code) ^^^ a0 ^^^ a1 ^^^ a2 ^^^ seq ^^^ 0x5A].map (fun b => (false, b))) ++
    [(true, 0x3C)])
def okLane : CamLane := { locked := true, works := true }
def okLanes : Tbl CamLane := (List.range 5).map (fun i => (i, okLane))
def laneAsked : CamLane := { okLane with sweep := .asked 7 15 255 3 }
def laneAsked2 : CamLane := { okLane with sweep := .asked 7 15 255 2 }
def laneDwell : CamLane := { okLane with sweep := .dwell 7 14 3 4 }
def laneLast : CamLane := { okLane with sweep := .last 7 15 255 3 }
def lanePrbs : CamLane := { okLane with prbs15 := some 1, idles := 9 }
def laneIdle : CamLane := { okLane with idles := 256 }
def laneBusy1 : CamLane := { okLane with busy := 64 }
def doneLanes : Tbl CamLane := (List.range 5).map (fun i => (i, { okLane with sweep := .done }))
def laneMark : CamLane := { okLane with marker := some (255, 100) }
def laneSet (x : CamLane) : CamPort := { lanes := [(0, okLane), (1, okLane), (2, okLane), (3, x), (4, okLane)] }
def noMsg : List Nat := lm 0 0 0 0 0 0
def msg (ty code a0 a1 a2 seq : Nat) : LinkMsg :=
  let b : Nat → Byte := BitVec.ofNat 8
  { s1 := b (16 * ty + code), a0 := b a0, a1 := b a1, a2 := b a2, seq := b seq }
def noM : LinkMsg := msg 0 0 0 0 0 0
/-- An ordered set with a wrong check byte. -/
def badSet : List Nat := enc false [(true, 0x3C), (false, 0xA0), (false, 3), (false, 1), (false, 0), (false, 1), (false, 0), (true, 0x3C)]
/-- An alignment marker, and an idle ordered set. -/
def mark (lb c ch : Nat) : List Nat := enc false [(true, 0x7C), (false, lb), (false, c), (false, ch)]
def idle (a b c : Nat) : List Nat := enc false [(true, 0xBC), (false, a), (false, b), (false, c)]
def sRate0 : State := { sCam 1 {} with dev := (sCam 1 {}).dev.put ⟨R.CAM_CFG 15, 1, 2⟩ 1 }
def sRetry : State := { sCam 10 {} with dev := (sCam 10 {}).dev.put ⟨R.CAM_CFG 15, 3, 1⟩ 1 }
def sIdle : State := { sCam 7 {} with dev := calm ((sCam 7 {}).dev.put ⟨R.CAM_CFG 15, 4, 2⟩ 3) }
/-- A packet with good check fields. -/
def pkt (vc dt seq ofs : Nat) (pay : List Byte) : VlpPacket :=
  let h := leBytes 1 (64 * vc + dt) ++ leBytes 1 1 ++ leBytes 2 pay.length ++ leBytes 2 seq ++ leBytes 2 ofs
  { bytes := h ++ leBytes 2 (crc16 0xFFFF h) ++ pay ++ leBytes 4 (crc32c pay) }
def pk1 : VlpPacket := pkt 3 1 9 0 (List.replicate 16 5)
def pk2 : VlpPacket := pkt 3 16 9 16 (List.replicate 5 5)
def pk3 : VlpPacket := pkt 3 16 9 15 (List.replicate 5 5)
def pk4 : VlpPacket := pkt 3 2 9 0 (List.replicate 8 5)
def pk5 : VlpPacket := pkt 0 32 9 0 (List.replicate 16 8)
def pk6 : VlpPacket := pkt 0 63 9 0 (List.replicate 257 8)
def pk7 : VlpPacket := pkt 0 48 7 0 [3, 0, 1, 0, 9, 9, 9, 9]
/-- Symbols as four lanes bring them, encoded; gap symbols fill the last column. -/
def stripe4 (xs : List (Bool × Nat)) : List (List Nat) :=
  let xs := xs ++ List.replicate ((4 - xs.length % 4) % 4) (false, 0)
  (List.range 4).map (fun i => enc false ((xs.zipIdx.filter (fun x => x.2 % 4 == i)).map (·.1)))
/-- A packet behind a gap, as a port receives it. -/
def sent (gap : Nat) (q : VlpPacket) : VlpSyms :=
  { lanes := stripe4 (List.replicate gap (false, 0) ++ [(true, 0xFB)] ++ q.bytes.map (fun b => (false, b.toNat)) ++ [(true, 0xFD)]) }
/-- Port 15 ACTIVE and discovered, its channel 3 mapped to context 31. -/
def sVc (x : CamPort) : State := { sCam 7 x with dev :=
  (((sCam 7 x).dev.put ⟨R.CAM_VC_MAP 15, 24, 8⟩ 0x9F).put ⟨R.CAM_VLP_STATUS 15, 0, 1⟩ 1).put ⟨R.CTX_CFG 31, 0, 1⟩ 1 }
def line1 : OpenLine := { ctx := 31, slot := none, num := 5, exposure := 6, end_ := 16 }
def xLine : CamPort := { vcs := [(3, { line := some line1 })] }
def bcA (n : Nat) : BcCmd := { use := .host 0x0205 1, sent := true, code := 1, payload := [0], tag := 7, resends := n }
def sWaitE : State := { sVc {} with dev :=
  let d := (sVc {}).dev.put ⟨R.CTX_CFG 31, 8, 6⟩ 0x3F
  { d with str := { d.str with ctxs := [(31, { e := some 0xFFFFFFFF, orphans := 3 })] } } }
def sResync : State := { sWaitE with dev := sWaitE.dev.put ⟨R.CTX_MATCH_CFG 31, 16, 8⟩ 3 }
def entry1 : RingEntry := { slot := 0, count := 5, pos := 6, time := {}, drops := 0, closeT := some 70 }
def sEntry : State := { sVc {} with dev :=
  let d := (sVc {}).dev
  { d with str := { d.str with ctxs := [(31, { entries := [entry1], flushes := [(80, 0)] })] } } }
def sFlush : State := { sVc {} with dev :=
  let d := (sVc {}).dev
  { d with str := { d.str with ctxs := [(31, { entries := [entry1, { entry1 with slot := 1, closeT := none }] })] } } }
def stripe1 : StripeNow := { ctx := 31, n := 1, doneAt := 70 }
def stripeP : StripeNow := { stripe1 with doneAt := 80, isPart := true }
def sBusyS : State := { sEntry with dev :=
  { sEntry.dev with str := { sEntry.dev.str with now := [(3, some stripe1)], ctxs := [(31, { entries := [entry1] })] } } }
def sBusy1 : State := { sBusyS with dev := { sBusyS.dev with variant := .cg7210, str := { sBusyS.dev.str with now := [(0, some { stripe1 with ctx := 7 })] } } }
def sFrz : State := { sVc {} with dev :=
  let d := (((sVc {}).dev.setAct (R.BL_FREEZE_MAX 31) 1024).setAct (R.CORR_CFG 31) 0x40).setAct (R.CORR_OUT_W 31) 64 |>.setReg (R.CTX_WIDTH 31) 64 |>.put ⟨R.SEAM_WIDTH 0, 0, 20⟩ 64
  { d with str := { d.str with now := [(3, some stripe1)], strs := [(31, { cols := [(5, { b := 1, hold := 2, run := 1023, uninit := false })] })] } } }
def outl (k : Int) : OutLine := { k := k, pos := 100 * k, time := 0, flags := 0, col0 := 0, vals := [some 1, none] }
def sDel : State := { sVc {} with dev :=
  let d := ((sVc {}).dev.put ⟨R.CTX_CFG 31, 14, 2⟩ 3).put ⟨R.SEAM_CFG 3, 0, 1⟩ 1
  { d with str := { d.str with outs := [(31, [outl 62, outl 63])] } } }
def sPend : State := { sDel with dev := sDel.dev.setSeamMos 3 { pend := [{ k := -1, timer := some 0 }] } }
def sBlind : State := { sDel with dev := (sDel.dev.put ⟨R.SEAM_WAIT 3, 24, 4⟩ 15).setSeamMos 3 { runs := [(31, 15)] } }
/-- Mosaic 3 with Lode on engine 0, one band. -/
def lodeOn (d : Dev) : Dev := ((d.put ⟨R.SEAM_CFG 3, 0, 1⟩ 1).setReg (R.LODE_MCFG 3) 1).put ⟨R.SEAM_WIDTH 3, 0, 20⟩ 3
def lodeSet : List Word := [0x00020001, 0x00050004, 3, 0, 0, 3, 0, 0, 0, 0]
def item1 : LodeItem := { k := 0, row := 0, n := 1, exts := [⟨0, 3⟩], flags := [], at_ := 0, set := lodeSet }
def sItem : State := on fun d => (lodeOn d).setLodeMos 3 { items := [item1] }
def item2 : LodeItem := { item1 with done := [(0, some [])] }
def sSettle : State := on fun d => (lodeOn d).setLodeMos 3 { items := [item2] }
def track1 : Track := { q := 5, mos := 3, openT := 0, id := 9, bright := true, summ := 0, elems := [], acc := { a := 5, seeds := 1, j0 := 0, j1 := 999 } }
def sCut : State := on fun d =>
  let d := (lodeOn d).setAct (R.LODE_MAX_MD 3) 1000
  { d with lode := { d.lode with tracks := [track1] } }
def sStill : State := on fun d =>
  let d := ((lodeOn d).setAct (R.LODE_STILL_CLOSE 3) 0xFFFF).setLodeMos 3 { lastHand := some 1 }
  { d with lode := { d.lode with tracks := [track1] } }
def job1 (padded : Bool) : AsyJob := { elem := 0, summ := 1, queueT := 0, md := 5, cd := 6, id := 9, piece := 0, padded := padded }
def sJob (padded : Bool) : State := on fun d => ((d.setNet 0 (some { blob := blob, sram := 0 })).setJobs 3 [job1 padded]).setAct (R.ASY_MOSm_CFG 3) 1
def sJobLate : State := { sJob true with dev := { (sJob true).dev with tim := { (sJob true).dev.tim with tb2 := { sec := 1, ns := 0, frac := 0 } } } }
/-- `sJob true` and `sJobLate` after their job has left its queue. -/
def dTake : Bool × Bool × Dev := ((sJob true).dev.keepMax ⟨R.ASY_WAIT_MAX, 0, 24⟩ ((sJob true).dev.now2 / 1000)).jobLeave 3 0 (job1 true)
def dLate : Bool × Bool × Dev := (sJobLate.dev.keepMax ⟨R.ASY_WAIT_MAX, 0, 24⟩ (sJobLate.dev.now2 / 1000)).jobLeave 3 0 (job1 true)
def net0 : AsyNet := { blob := blob, sram := 0 }
def dPat : List (List Nat) × PatchEnd × Dev := dTake.2.2.patchRead 32 true (dTake.2.2.jobFields 3 (job1 true) net0)
def sReload : State := on fun d => (d.setNet 3 (some aNet)).put (slotReloading 3) 1
def run1 (late : Bool) : AsyRun :=
  { mos := 3, job := job1 true, slot := 0, fields := [], patch := [], answer := ⟨1, 2, 0⟩, late := late }
def sRunA (late : Bool) : State := on fun d => { d with asy := { d.asy with run := some (run1 late) } }
/-- Tideline on; encoder 3 on in MODE 0 driving counter 7. -/
def tdlOn (d : Dev) : Dev := (((d.put ⟨R.TDL_CTRL, 0, 1⟩ 1).put ⟨R.TDL_ENCn_CFG 3, 0, 1⟩ 1).put ⟨R.TDL_POSn_CFG 7, 0, 4⟩ 7).put
  ⟨R.TDL_ENCn_CFG 3, 12, 4⟩ 15
def sEnc : State := on tdlOn
def sEncF : State := on fun d => (tdlOn d).setEnc 3 { faults := [2, 0] }
def sHall (now : Nat) : State := on fun d => ((tdlOn d).put ⟨R.TDL_HALL_CFG, 0, 3⟩ 5).put ⟨R.TDL_HALL_STATUS, 0, 3⟩ now
/-- SSI port 1 on, 40-bit Gray words, error bit and check. -/
def sSsi (x : SsiPort) : State := on fun d => ((tdlOn d).setReg (R.TDL_SSIn_CFG 1) (1 + 39 * 2 + 128 + 256 + 512 + 1024 + 2048)).setSsi 1 x
def ssiWord1 : Nat := 0x8000000001
def ssiCrc : Nat := crc6 (bitsMsb 40 ssiWord1 ++ [false])
def sFire (mode : Nat) : State := on fun d => ((tdlOn d).put ⟨R.TDL_CMPn_CFG 31, 0, 2⟩ mode).setCmp 31 { sched := some ⟨800, 512, 3⟩ }
def sFireL : State := { sFire 1 with dev := (sFire 1).dev.put ⟨R.TDL_POSn_SPD_STATUS ((sFire 1).dev.cmpPos 31), 3, 1⟩ 1 }
def sFireT : State := on fun d => (((tdlOn d).put ⟨R.TDL_CMPn_CFG 31, 0, 2⟩ 3).put (cmpArmed 31) 1).setCmp 31 { next := some 100 }
def sSync : State := on fun d => (tdlOn d).setReg R.TDL_SYNC_CFG 0x210
def ann1 (src prio : Nat) : AnnounceMsg := { prio1 := prio, source := src }
def clk1 : PtpClock := { master := some (ann1 7 5) }
/-- Two-port PTP, domain 1 on, with a clock. -/
def sPtp (c : PtpClock) : State := on fun d => ((d.put ⟨R.TIM_CFG, 2, 1⟩ 1).put ⟨R.NETP_STATUS 1, 0, 1⟩ 1).setPtp 1 1 c
def sPtpPeer (c : PtpClock) : State := { sPtp c with dev := (sPtp c).dev.put ⟨R.TIM_PTP_CFG, 16, 1⟩ 1 }
def sPtpP2p : State := sPtpPeer clk1
def num1 : Nat := (sPtp clk1).dev.fld ⟨R.TIM_PTP_CFG, 8, 8⟩
def sTcArm (rep : Nat) : State := on fun d =>
  (((d.put (tcArmed 15) 1).put ⟨R.TIM_TCn_CFG 15, 3, 1⟩ rep).setReg (R.TIM_TCn_PERIOD_LO 15) 1)
/-- Slot 15 armed with its target a second ahead. -/
def sTcFar : State := { sTcArm 0 with dev := { (sTcArm 0).dev with tim := { (sTcArm 0).dev.tim with tgt := [(15, 1000000000)] } } }
def sSteer : State := on fun d => { d.put ⟨R.TIM_CFG, 2, 1⟩ 1 with tim := { d.tim with meas := [(1, some 5)] } }
def sLocked1 : State := on fun d => { d.put (lockedBit 1) 1 with tim := { d.tim with meas := [(1, some 5)] } }
def sMiss : State := on fun d => { d.put ⟨R.TIM_CFG, 0, 2⟩ 2 with tim := { d.tim with ppsAt := some 5 } }
def sHoldo : State := on fun d => d.put (holdoverBit 1) 1
def sPps : State := on fun d => d.setReg R.TIM_PPS_CFG 0x03FF0001
def sSlew : State := on fun d => { d with tim := { d.tim with slew := -5, tb3 := { sec := 1, ns := 0, frac := 0 } } }
def sEncM (mode : Nat) : State := on fun d => (tdlOn d).put ⟨R.TDL_ENCn_CFG 3, 2, 3⟩ mode
def sMove : State := on fun d => (tdlOn d).put ⟨R.TDL_POSn_SPD_STATUS 7, 2, 1⟩ 0
/-- Port 1 enabled with a link, its MAC and IP; the device's ID. -/
def netOn (d : Dev) : Dev :=
  ((((d.put ⟨R.NET_CFG, 1, 1⟩ 1).put ⟨R.NETP_STATUS 1, 0, 1⟩ 1).setReg64 (R.NETP_MAC_LO 1) 0x02AABBCCDDEE).setReg (R.NETP_IP 1) 0x0A000001
    |>.setReg64 R.NET_DEVICE_ID_LO 0x112233445566)
def sNetw : State := on netOn
def frame1 : NetFrame := { ring := 3, elems := [], recs := [] }
def sFifo : State := on fun d => (netOn d).setNetPort 1 { fifo := [frame1] }
def sFifoS : State := { sFifo with dev := sFifo.dev.put ⟨R.NET_STATUS, 0, 2⟩ 3 }
def open1 : NetOpen := { ring := 3, elems := [1], t := 5 }
def sOpen : State := on fun d => (netOn d).setNetPort 1 { cur := some open1 }
/-- Every crossing stands full. -/
def sCross : State := on fun d => netOn (d.put ⟨R.MEM_STATUS, 1, 1⟩ 1)
def sSend : State := on fun d => ((netOn d).put ⟨R.NET_STATUS, 0, 2⟩ 3)
def grantHead (seq : Nat) : List Byte := [1, 1] ++ leBytes 2 0 ++ leBytes 4 seq ++ leBytes 6 0x112233445566 ++ [1] ++ List.replicate 13 0
def grantPl (seq : Nat) : List Byte := grantHead seq ++ leBytes 4 (crc32c (grantHead seq))
def sGranted : State := on fun d =>
  let d := (netOn d).setReg R.NET_GRANT_SEQ 0xFFFFFFFF
  { d with net := { d.net with granted := true } }
def statusPl : List Byte := leBytes 4 0x51534743 ++ leBytes 4 77
def sRate (n : Nat) : State := on fun d => (netOn d).put ⟨R.NET_STATUS_CFG, 16, 16⟩ n
def sSwitch : State := on fun d => { (netOn d) with net := { d.net with switch := some (1, 5) } }
def sSwitchD : State := { sSwitch with dev := sSwitch.dev.put ⟨R.NETP_STATUS 1, 0, 1⟩ 0 }
def sSwitchF : State := { sSwitch with dev := sSwitch.dev.setNetPort 1 { fifo := [frame1] } }
def sDual : State := on fun d => (netOn d).put ⟨R.NET_STATUS, 4, 1⟩ 1
def sPinArb : State := on fun d => (netOn d).put ⟨R.NET_CFG, 4, 1⟩ 1
def sDown : State := on fun d => (netOn d).put ⟨R.NETP_STATUS 1, 0, 1⟩ 0
/-- An update packet of an operation, a session and a payload. -/
def updPl (op sid ofs : Nat) (bs : List Byte) : List Byte :=
  withCrc (leBytes 4 0x50554743 ++ [1, BitVec.ofNat 8 op, 0, 0] ++ leBytes 6 0x112233445566 ++ [0, 0] ++ leBytes 4 sid ++ leBytes 4 1 ++
    leBytes 4 ofs ++ leBytes 2 bs.length ++ [0, 0] ++ bs)
def chal1 : Challenge := { sid := 7, nonce := nonce1, ip := 0x0A000002, udp := 4000, at_ := 0 }
def updSig : List Byte := sign ([0x43, 0x47, 0x55, 0x4F] ++ nvOwn.idBytes ++ leBytes 4 7 ++ nonce1)
def dUpdNet : Dev := (netOn ready.dev).put ⟨R.SEC_POLICY, 1, 1⟩ 1
def sUpdNet : State := { sOwn with dev := { dUpdNet with sec := { dUpdNet.sec with challenges := [chal1] } } }
def hold1 : Holder := { net := true, ip := 0x0A000002, udp := 4000, sid := 7 }
def dUpdHold (stage : Nat) : Dev := (calm sUpdNet.dev).setStage stage
def sUpdHold (stage : Nat) : State :=
  { sUpdNet with dev := { dUpdHold stage with sec := { (dUpdHold stage).sec with holder := some hold1 } } }
def act0 (cold : Bool) : Activation := { cold := cold, stamp := {} }
def sActiv (cold : Bool) : State := on fun d => { (d.setStage 4) with sec := { d.sec with activation := some (act0 cold) } }
def sConf : State := on fun d => { ((d.setStage 5).put ⟨R.SEC_TRIAL, 0, 5⟩ 31) with sec := { d.sec with trial := some trial1 } }
def sVerif : State := on fun d => d.setStage 2

/-- Port 15 ACTIVE with a back-channel command out. -/
def sActQ : State := { sAct with dev := sAct.dev.setCport 15 { bc := [bcA 0] } }
def frz1 : Nat × Nat × Nat := (sBusy1.dev.stripeEnd 0 [] [] [] true).mem.froze.getD (0, 0, 0)
def upd8 : List Byte := updPl 1 0 0 []
def upd9 : List Byte := updPl 3 7 0 updSig
def upd10 : List Byte := updPl 5 7 (slotSize - 1024) (List.replicate 1024 9)
def upd11 : List Byte := updPl 7 7 0 []
def upd12 : List Byte := updPl 8 7 0 [0]
def upd13 : List Byte := updPl 8 7 0 [1]
def upd14 : List Byte := updPl 9 7 0 [1]
def nth (l : List Nat) (i : Nat) : Nat := l.getD i 0
def wire0 : NetWire := { port := 1 }
def wireUdp : NetWire := { port := 1, udp := true }
def wireLost : NetWire := { port := 1, lost := true }
def wire7 : NetWire := { port := 1, vid := some 7 }
def wire1523 : NetWire := { port := 1, len := 1523 }

def sCam1 : State := sCam 1 {}
def sCam2 : State := sCam 2 {}
def sCam3 : State := sCam 3 {}
def sCam4 : State := sCam 3 { relock := true }
def sCam5 : State := sCam 4 { lanes := doneLanes }
def sCam6 : State := sCam 5 { lanes := okLanes, acked := [0, 1, 2] }
def sCam7 : State := sCam 5 { lanes := okLanes, acked := [0, 1] }
def sCam8 : State := sCam 5 { dones := 7 }
def sCam9 : State := sCam 5 { dones := 8 }
def sCam10 : State := sCam 7 { lanes := okLanes }
def sCam11 : State := sCam 6 { agree := 4 }
def sCam12 : State := sCam 6 { agree := 3 }
def sCam13 : State := sCam 7 {}
def sCam14 : State := sCam 7 { lanes := okLanes, spHolder := some (SpHold.recal 2) }
def sCam15 : State := sCam 7 { lanes := okLanes, spHolder := some SpHold.replace }
def sCam16 : State := sCam 7 { lanes := okLanes, spWait := [SpHold.retrain 3] }
def sCam17 : State := sCam 7 { lanes := okLanes, mirrorAgree := 4, mirror := some (3, false) }
def sCam18 : State := sCam 7 { lanes := okLanes, mirrorAgree := 3, mirror := some (3, false) }
def sCam19 : State := sCam 7 { lanes := doneLanes, spHolder := some (SpHold.retrain 3), mirror := some (3, true) }
def sCam20 : State := sCam 7 { acked := [0, 1, 2], lpAsked := some 1 }
def sCam21 : State := sCam 7 { acked := [0, 1, 2], lpAsked := some 2 }
def sCam22 : State := sCam 8 {}
def sCam23 : State := sCam 9 {}
def sVc24 : State := sVc {}
def sVc25 : State := sVc { bc := [bcA 0] }
def sVc26 : State := sVc { bc := [bcA 2] }
def sVc27 : State := sVc { bc := [bcA 3] }
def sSsi28 : State := sSsi {}
def sSsi29 : State := sSsi { began := some 3 }
def sSsi30 : State := sSsi { reading := some 5 }
def sSsi31 : State := sSsi { last := some 1099511627775, reading := some 5 }
def sPtp32 : State := sPtp { clk1 with syncRx := some ((500 : Int), 9, (3 : Int)) }
def sPtp33 : State := sPtp { clk1 with syncDone := some ((500 : Int), (509 : Int)), delayReq := some ((600 : Int), 9) }
def sPtpPeer34 : State := sPtpPeer { clk1 with pdelayAt := some 5 }
def sPtpPeer35 : State := sPtpPeer { clk1 with pdelayReq := some ((500 : Int), 9) }
def sPtp36 : State := sPtp { clk1 with pdelayReq := some ((500 : Int), 8), pdelayResp := some ((900 : Int), (600 : Int), (2 : Int), 9) }
def sPtp37 : State := sPtp {}
def sched1 : Sched := ⟨800, 512, 3⟩
/-- What releases a column outside any output line. -/
def trkF : TrkSet := { sFrz.dev.trkSet 31 0 false with
  frozen := sFrz.dev.bit ⟨R.BL_CTRL 31, 0, 1⟩ || sFrz.dev.bit ⟨R.BL_STATUS 31, 0, 1⟩ || sFrz.dev.bit ⟨R.BL_STATUS 31, 2, 1⟩ }
/-- What SHF_QUEUE_READ reads of queue 1,048,575. -/
def qTaken : Dev := ready.dev.mbTaken 1538 1 [1048575, 16]
def qOk : Dev := (qTaken.queueOk 1048575 (qTaken.queueElems 1048575 16)).2
def qRead : List Byte × Dev :=
  (qOk.queueElems 1048575 16).foldl (fun (x : List Byte × Dev) i => (x.1 ++ (x.2.elemRead i).1, (x.2.elemRead i).2.2)) ([], qOk)
def failCh : TrainCh := { stack := 0, ch := 15, failed := true }
def tcArgs2 : List Word := [15, 1, 1, 1, 1000, 0, 0, 1, 127]
def tcArgs : List Word := [15, 1, 1, 1, 1000, 0, 999999999, 1, 127]

theorem test_IdleStepTicksTimeBases_witness :
    ready.pending = [] ∧ ready.on ∧ ready.dev.glb.started = true := by
  decide +kernel

theorem test_StepKeepsFlashCanonical_witness : sReady.nv.wf ∧ step sReady = .next sReady' :=
  ⟨by decide +kernel, nextIs_eq _ _ (by decide +kernel)⟩

theorem test_StepBurnsFusesOneWay_witness : sReady.nv.wf ∧ step sReady = .next sReady' :=
  ⟨by decide +kernel, nextIs_eq _ _ (by decide +kernel)⟩

theorem test_OffDeviceIgnoresCommands_witness :
    sHeld.dev.off = true ∧ pinCommand (Instr.commit 0 1) = false := by
  decide +kernel

theorem test_HostReadFollowsAccessCodes_witness :
    (tget noneAt ready.dev.latch 16777212 = none) ∧
    (tget noneAt ready.dev.latch 16777212 = none ∧ regRow 16777212 = none) ∧
    (tget noneAt sSmall.dev.latch 5242880 = none ∧ present sSmall.dev.variant 5242880 = false) ∧
    (tget noneAt sSmall.dev.latch 2113536 = none ∧ regRow 2113536 = some (rowAt 2113536) ∧ present sSmall.dev.variant 2113536 = true ∧
      (rowAt 2113536).access = Access.wo) ∧
    (tget noneAt sSmall.dev.latch 1140 = none ∧ regRow 1140 = some (rowAt 1140) ∧ present sSmall.dev.variant 1140 = true ∧ (rowAt
      1140).access = Access.rc) ∧
    (tget noneAt sSmall.dev.latch 2162968 = none ∧ regRow 2162968 = some (rowAt 2162968) ∧ present sSmall.dev.variant 2162968 = true ∧
      (rowAt 2162968).access ≠ Access.rc) ∧
    (tget noneAt sSmall.dev.latch 2162820 = none ∧ regRow 2162820 = some (rowAt 2162820) ∧ present sSmall.dev.variant 2162820 = true ∧
      (rowAt 2162820).pair = 1) ∧
    (tget noneAt sSmall.dev.latch 2113536 = none ∧ regRow 2113536 = some (rowAt 2113536) ∧ present sSmall.dev.variant 2113536 = true ∧
      (rowAt 2113536).pair ≠ 1) := by
  decide +kernel

theorem test_RegisterWriteFollowsTheCodes_witness1 :
    (sSmall.on ∧ present sSmall.dev.variant 5242880 = false) ∧
    (sSmall.on ∧ regRow 16777212 = none) ∧
    (sSmall.on ∧ regRow R.GLB_ID = some (rowAt R.GLB_ID) ∧ present sSmall.dev.variant R.GLB_ID = true ∧ (rowAt R.GLB_ID).when_ ≠
      WriteTime.boot ∧ (rowAt R.GLB_ID).when_ ≠ WriteTime.fw ∧ ((rowAt R.GLB_ID).access = Access.ro ∨ (rowAt R.GLB_ID).access =
      Access.rc)) ∧
    (sSmall.on ∧ regRow 9437280 = some (rowAt 9437280) ∧ present sSmall.dev.variant 9437280 = true ∧ ((rowAt 9437280).when_ =
      WriteTime.boot ∨ (rowAt 9437280).when_ = WriteTime.fw)) ∧
    (sSmall.on ∧ regRow (R.DR_n_CFG 7) = some (rowAt (R.DR_n_CFG 7)) ∧ present sSmall.dev.variant (R.DR_n_CFG 7) = true ∧ (rowAt
      (R.DR_n_CFG 7)).when_ = WriteTime.run ∧ sSmall.dev.writeDenied (R.DR_n_CFG 7) ((rowAt (R.DR_n_CFG 7)).merge (sSmall.dev.reg
      (R.DR_n_CFG 7)) (1 : Word)) = true ∧ (rowAt (R.DR_n_CFG 7)).access = Access.rw) ∧
    (ready.on ∧ regRow (R.CTX_MATCH_CFG 31) = some (rowAt (R.CTX_MATCH_CFG 31)) ∧ present ready.dev.variant (R.CTX_MATCH_CFG 31) = true ∧
      (rowAt (R.CTX_MATCH_CFG 31)).when_ = WriteTime.run ∧ (rowAt (R.CTX_MATCH_CFG 31)).pair = 0 ∧ writeHasMore (R.CTX_MATCH_CFG 31) =
      false ∧ ((rowAt (R.CTX_MATCH_CFG 31)).access = Access.rw ∨ (rowAt (R.CTX_MATCH_CFG 31)).access = Access.wo) ∧ ready.dev.writeDenied
      (R.CTX_MATCH_CFG 31) ((rowAt (R.CTX_MATCH_CFG 31)).merge (ready.dev.reg (R.CTX_MATCH_CFG 31)) (4294967295 : Word)) = false) := by
  decide +kernel

theorem test_RegisterWriteFollowsTheCodes_witness2 :
    sSmall.on ∧ regRow R.HIF_EVENT = some (rowAt R.HIF_EVENT) ∧ present sSmall.dev.variant R.HIF_EVENT = true ∧ (rowAt R.HIF_EVENT).when_
      = WriteTime.run ∧ (rowAt R.HIF_EVENT).pair = 0 ∧ writeHasMore R.HIF_EVENT = false ∧ (rowAt R.HIF_EVENT).access = Access.w1c ∧
      sSmall.dev.writeDenied R.HIF_EVENT ((rowAt R.HIF_EVENT).merge (sSmall.dev.reg R.HIF_EVENT) (4294967295 : Word)) = false := by
  decide +kernel

theorem test_SplitRegistersFollowTheirOrder_witness :
    (sSmall.on ∧ regRow 2162968 = some (rowAt 2162968) ∧ regRow (2162968 + 4) = some (rowAt 2162972) ∧ (rowAt 2162968).pair = 1 ∧ (rowAt
      2162972).pair = 2 ∧ present sSmall.dev.variant 2162968 = true ∧ present sSmall.dev.variant (2162968 + 4) = true ∧ tget noneAt
      sSmall.dev.latch 2162968 = none) ∧
    (sSmall.on ∧ regRow 2162968 = some (rowAt 2162968) ∧ regRow (2162968 + 4) = some (rowAt 2162972) ∧ (rowAt 2162968).pair = 1 ∧ (rowAt
      2162972).pair = 2 ∧ present sSmall.dev.variant 2162968 = true ∧ present sSmall.dev.variant (2162968 + 4) = true ∧ (rowAt
      2162968).access = Access.rw ∧ (rowAt 2162972).access = Access.rw ∧ (rowAt 2162968).when_ = WriteTime.run ∧ (rowAt 2162972).when_ =
      WriteTime.run ∧ (rowAt 2162968).plain ≠ (0 : Word) ∧ sSmall.dev.writeDenied 2162968 ((rowAt 2162968).merge (sSmall.dev.reg 2162968)
      (1 : Word)) = false ∧ sSmall.dev.writeIgnored 2162968 ((rowAt 2162968).merge (sSmall.dev.reg 2162968) (1 : Word)) = false ∧
      sSmall.dev.writeDenied (2162968 + 4) ((rowAt 2162972).merge (sSmall.dev.reg (2162968 + 4)) (2 : Word)) = false ∧
      sSmall.dev.writeIgnored (2162968 + 4) ((rowAt 2162972).merge (sSmall.dev.reg (2162968 + 4)) (2 : Word)) = false) := by
  decide +kernel

theorem test_DoorbellWhileBusyIsDropped_witness :
    (sBusy.on ∧ sBusy.dev.mbBusy = true ∧ doorbellOf (Instr.camRetrain 7 [1]) = some (513, (7 : Word), [(1 : Word)])) ∧
    (sBusy.on ∧ sBusy.dev.mbBusy = true) := by
  decide +kernel

theorem test_MailboxChecksBeforeActing_witness :
    (ready.on ∧ ready.dev.mbBusy = false ∧ codeDefined 512 = false) ∧
    (ready.on ∧ ready.dev.mbBusy = false ∧ doorbellOf (Instr.camRetrain 7 []) = some (513, (7 : Word), []) ∧ mbLenOk 513 [] = false) ∧
    (State.reset.on ∧ State.reset.dev.mbBusy = false ∧ doorbellOf (Instr.glbReset 7 []) = some (259, (7 : Word), []) ∧ mbLenOk 259 [] =
      true ∧ ownOnly.contains 259 = true ∧ State.reset.dev.ownSession = false) ∧
    (State.reset.on ∧ State.reset.dev.mbBusy = false ∧ doorbellOf (Instr.camRetrain 7 [1]) = some (513, (7 : Word), [(1 : Word)]) ∧
      mbLenOk 513 [1] = true ∧ (ownOnly.contains 513 = true → State.reset.dev.ownSession = true) ∧ State.reset.dev.inspReady = false ∧
      (513 / 256 : Nat) ≠ 1 ∧ (513 / 256 : Nat) ≠ 15 ∧ (513 / 256 : Nat) ≠ 16) := by
  decide +kernel

theorem test_TakingACommandChangesTheMailboxAlone_witness :
    [(1 : Word), (2 : Word)].length ≤ 1024 := by
  decide +kernel

theorem test_CompletionHandsTheReplyOver_witness :
    (ready.on ∧ (∀ (x : Running), x ∈ ready.dev.hif.old → x.reply = none) ∧ ready.dev.mbOpen 259 true = true) ∧
    (sReset.on ∧ (∀ (x : Running), x ∈ sReset.dev.hif.old → x.reply = none) ∧ sReset.dev.hif.running = some rReset ∧ rReset.code = 259 ∧
      rReset.reply = some (stOk, []) ∧ rReset.discard = false) ∧
    (sInfo.on ∧ (∀ (x : Running), x ∈ sInfo.dev.hif.old → x.reply = none) ∧ sInfo.dev.hif.running = some rInfo ∧ rInfo.reply = some (0,
      [(1 : Byte), (2 : Byte), (3 : Byte), (4 : Byte), (5 : Byte)]) ∧ rInfo.code ≠ 259 ∧ [(1 : Byte), (2 : Byte), (3 : Byte), (4 : Byte),
      (5 : Byte)].length ≤ 262144) := by
  decide +kernel

theorem test_CameraAndStrandReadsAnswer_witness :
    (ready.dev.mbOpen 516 false = true ∧ (15 : Word).toNat < ready.dev.variant.ports) ∧
    (ready.dev.mbOpen 519 false = true ∧ (15 : Word).toNat < ready.dev.variant.ports) ∧
    (ready.dev.mbOpen 520 false = true ∧ (15 : Word).toNat < ready.dev.variant.ports ∧ (ready.dev.cport
      ((15 : Word).toNat)).vendor.length ≤ 8192) ∧
    (ready.dev.mbOpen 771 false = true ∧ (31 : Word).toNat < ready.dev.variant.contexts) ∧
    (sCtx.dev.mbOpen 772 false = true ∧ (0 : Word).toNat < sCtx.dev.variant.contexts ∧ 0 < (64 : Word).toNat ∧ (64 : Word).toNat ≤ 4096 ∧
      (0 : Word).toNat + (64 : Word).toNat ≤ (sCtx.dev.mbTaken 772 1 [0, 0, 64]).outW ((0 : Word).toNat)) ∧
    (ready.dev.mbOpen 773 false = true ∧ (15 : Word).toNat ≤ 15) := by
  decide +kernel

theorem test_MosaicAndClassifierReadsAnswer_witness :
    (sMos.dev.mbOpen 774 false = true ∧ sMos.dev.mosEn ((3 : Word).toNat) = true) ∧
    (sMos.dev.mbOpen 777 false = true ∧ sMos.dev.mosEn ((3 : Word).toNat) = true) ∧
    (sNet.dev.mbOpen 1282 false = true ∧ sNet.dev.variant.assay = true ∧ (3 : Word).toNat < 4 ∧ sNet.dev.asyNet ((3 : Word).toNat) = some
      aNet) ∧
    (ready.dev.mbOpen 1285 false = true ∧ ready.dev.variant.assay = true) ∧
    (ready.dev.mbOpen 1537 false = true) := by
  decide +kernel

theorem test_TimingReadsAnswer_witness :
    (ready.dev.mbOpen 1793 false = true ∧ (7 : Word).toNat < 8) ∧
    (ready.dev.mbOpen 2050 false = true ∧ (127 : Word).toNat < 128) ∧
    (ready.dev.mbOpen 2053 false = true) ∧
    (ready.dev.mbOpen 2308 false = true ∧ (1 : Word).toNat < ready.dev.variant.netPorts ∧ (1 : Word).toNat < 2) ∧
    (ready.dev.mbOpen 2305 false = true) := by
  decide +kernel

theorem test_NetworkAndLogReadsAnswer_witness :
    (ready.dev.mbOpen 2561 false = true) ∧
    (ready.dev.mbOpen 2562 false = true ∧ (1 : Word).toNat < ready.dev.variant.netPorts ∧ (ready.dev.netPort
      ((1 : Word).toNat)).health.length ≤ 56) ∧
    (ready.dev.mbOpen 2563 false = true ∧ (1 : Word).toNat < ready.dev.variant.netPorts ∧ ((162 : Word).toNat = 160 ∨ (162 : Word).toNat
      = 162) ∧ (255 : Word).toNat < 256 ∧ 0 < (128 : Word).toNat ∧ (128 : Word).toNat ≤ 128) ∧
    (ready.dev.mbOpen 257 false = true) ∧
    (sLog.dev.mbOpen 258 false = true ∧ 0 < (5461 : Word).toNat ∧ (5461 : Word).toNat ≤ 5461 ∧ List.dropWhile (fun e => e.seq !=
      (0 : Word).toNat) sLog.dev.glb.log.reverse ≠ []) := by
  decide +kernel

theorem test_MemoryReadsAnswer_witness :
    (ready.dev.mbOpen 3073 false = true) ∧
    (ready.dev.mbOpen 3074 false = true ∧ (63 : Word).toNat < 64 ∧ 0 < (64 : Word).toNat ∧ (64 : Word).toNat ≤ 64) ∧
    (ready.dev.mbOpen 3075 false = true ∧ word64 4294967295 11 < ready.dev.variant.dramBytes) ∧
    (ready.dev.mbOpen 3075 false = true ∧ Loc.fits ready.dev.variant.dual locTop) ∧
    (ready.dev.mbOpen 3076 false = true ∧ (1 : Word).toNat < (if ready.dev.variant.dual = true then 2 else 1) ∧ (15 : Word).toNat < 16 ∧
      (tget (fun _ => []) ready.dev.mem.helper (16 * (1 : Word).toNat + (15 : Word).toNat)).length ≤ 4096) ∧
    (ready.dev.mbOpen 3329 false = true) ∧
    (ready.dev.mbOpen 3585 false = true ∧ (7 : Word).toNat < 8) := by
  decide +kernel

theorem test_SystemReadsAnswer_witness1 :
    (ready.dev.mbOpen 3841 false = true) ∧
    (ready.dev.mbOpen 3844 false = true ∧ ready.dev.cfg.claims.length ≤ 13107) ∧
    (sRec.dev.mbOpen 3845 false = true ∧ 0 < (8 : Word).toNat ∧ (8 : Word).toNat ≤ 262144 ∧ (0 : Word).toNat + (8 : Word).toNat ≤
      sRec.dev.cfg.records.length) ∧
    (ready.dev.mbOpen 4097 false = true) ∧
    (ready.dev.mbOpen 4102 false = true ∧ (2 : Word).toNat < 3) ∧
    (ready.dev.mbOpen 4112 false = true) ∧
    (ready.dev.mbOpen 4353 false = true) ∧
    (sSag.dev.mbOpen 4354 false = true ∧ (0 : Word).toNat < 512 ∧ (sSag.nv.slotSeq ((0 : Word).toNat)).isSome = true) ∧
    (sSag.dev.mbOpen 4354 false = true ∧ (65535 : Word).toNat = 65535 ∧ sSag.nv.newestSag = some (0, (sSag.nv.slotSeq 0).get!)) := by
  decide +kernel

theorem test_SystemReadsAnswer_witness2 :
    (ready.dev.mbOpen 4609 false = true) ∧
    (sBist.dev.mbOpen 4612 false = true ∧ sBist.dev.fld ⟨R.CAL_BIST_STATUS, 0, 2⟩ ≠ 0) ∧
    (ready.dev.mbOpen 4613 false = true ∧ (1 : Word).toNat ≤ 1 ∧ 0 < (16 : Word).toNat ∧ (16 : Word).toNat ≤ 262144 ∧
      (262128 : Word).toNat + (16 : Word).toNat ≤ storeSize) := by
  decide +kernel

theorem test_CameraCommandsAct_witness1 :
    ((15 : Word).toNat < sAct.dev.variant.ports ∧ sAct.dev.mbOpen 513 false = true) ∧
    ((15 : Word).toNat < sAct.dev.variant.ports ∧ sAct.dev.mbOpen 514 false = true ∧ (2 : Word).toNat < 3 ∧ sAct.dev.lpOk
      ((15 : Word).toNat) = true) ∧
    ((15 : Word).toNat < sAct.dev.variant.ports ∧ sAct.dev.mbOpen 515 false = true ∧ (31 : Word).toNat < 32 ∧ (1 : Word).toNat < 2 ∧
      sAct.dev.portState ((15 : Word).toNat) = 7) ∧
    ((15 : Word).toNat < sAct.dev.variant.ports ∧ (0 < (64 : Word).toNat ∧ (64 : Word).toNat ≤ 64) ∧ sAct.dev.mbOpen 517 false = true ∧
      sAct.dev.portState ((15 : Word).toNat) = 7) ∧
    ((15 : Word).toNat < sAct.dev.variant.ports ∧ 1 ≤ [(9 : Word)].length ∧ [(9 : Word)].length ≤ 64 ∧ (∀ (i : Nat), i <
      [(9 : Word)].length → deviceOwned (((12288 : Word).toNat + 4 * i) % 2 ^ 32) = false) ∧ sAct.dev.mbOpen 518 false = true ∧
      sAct.dev.portState ((15 : Word).toNat) = 7) ∧
    ((15 : Word).toNat < sAct.dev.variant.ports ∧ 0 < (256 : Word).toNat ∧ (256 : Word).toNat ≤ 256 ∧ (List.replicate 64
      (9 : Word)).length = ((256 : Word).toNat + 3) / 4 ∧ sAct.dev.mbOpen 521 false = true ∧ sAct.dev.portState ((15 : Word).toNat) = 7) ∧
    ((15 : Word).toNat < sAct.dev.variant.ports ∧ sAct.dev.mbOpen 522 false = true ∧ sAct.dev.portState ((15 : Word).toNat) = 7) := by
  decide +kernel

theorem test_CameraCommandsAct_witness2 :
    ((15 : Word).toNat < sActQ.dev.variant.ports ∧ 0 < (64 : Word).toNat ∧ (64 : Word).toNat ≤ 64 ∧ sActQ.dev.mbOpen 517 false = true ∧
      sActQ.dev.portState ((15 : Word).toNat) = 7) ∧
    (ready.dev.mbOpen 514 false = true ∧ [(16 : Word), (2 : Word)].head? = some (16 : Word) ∧ mbLenOk 514 [16, 2] = true ∧ doorbellOf
      (Instr.camLp 1 [16, 2]) = some (514, (1 : Word), [(16 : Word), (2 : Word)]) ∧ 513 ≤ 514 ∧ 514 ≤ 522 ∧ ready.dev.variant.ports ≤
      (16 : Word).toNat) ∧
    (sSmall.dev.mbOpen 521 false = true ∧ [(15 : Word), (4 : Word), (2 : Word)].head? = some (15 : Word) ∧ mbLenOk 521 [15, 4, 2] = true
      ∧ doorbellOf (Instr.camVendorCmd 1 [15, 4, 2]) = some (521, (1 : Word), [(15 : Word), (4 : Word), (2 : Word)]) ∧ 513 ≤ 521 ∧ 521 ≤
      522 ∧ sSmall.dev.variant.ports ≤ (15 : Word).toNat) ∧
    (sSmall.dev.mbOpen 513 false = true ∧ [(15 : Word)].head? = some (15 : Word) ∧ mbLenOk 513 [15] = true ∧ doorbellOf (Instr.camRetrain
      1 [15]) = some (513, (1 : Word), [(15 : Word)]) ∧ 513 ≤ 513 ∧ 513 ≤ 522 ∧ sSmall.dev.variant.ports ≤ (15 : Word).toNat) := by
  decide +kernel

theorem test_StrandAndMosaicCommandsAct_witness1 :
    (sTable.dev.mbOpen 769 false = true ∧ (31 : Word).toNat < sTable.dev.variant.contexts ∧ ((sTable.dev.mbTaken 769 1 [31, 1, 0, 0,
      8]).bit (ctxCommit ((31 : Word).toNat)) && (sTable.dev.mbTaken 769 1 [31, 1, 0, 0, 8]).bit (tableSwap ((31 : Word).toNat))) = false
      ∧ (sTable.dev.mbTaken 769 1 [31, 1, 0, 0, 8]).hostBuf (word64 0 0) ((8 : Word).toNat) (HostDma.ok table8) = (stOk, table8,
      sTable0.dev) ∧ sTable0.dev.tableFits ((31 : Word).toNat) ((1 : Word).toNat) table8 = true) ∧
    (ready.dev.mbOpen 770 false = true ∧ (4294967295 : Word).toNat < 2 ^ ready.dev.variant.contexts) ∧
    (sHist.dev.mbOpen 776 false = true ∧ sHist.dev.mosEn ((3 : Word).toNat) = true ∧ (sHist.dev.seamMos ((3 : Word).toNat)).hist ≠ [] ∧
      (sHist.dev.mbTaken 776 1 [3, 0, 0]).dirRead 11 ((3 : Word).toNat) (toSigned 64 (word64 0 0)) = (some dirBytes, (dHist3.dirRead 11 3
      (0 : Int)).snd) ∧ dirBytes.length ≤ 262144) := by
  decide +kernel

theorem test_StrandAndMosaicCommandsAct_witness2 :
    (sHist.dev.mbOpen 775 false = true ∧ sHist.dev.mosEn ((3 : Word).toNat) = true ∧ (sHist.dev.seamMos ((3 : Word).toNat)).hist ≠ [] ∧
      (sHist.dev.mbTaken 775 1 [3, 150, 0]).dirRead 11 ((3 : Word).toNat) ((sHist.dev.mbTaken 775 1 [3, 150, 0]).oldestK
      ((3 : Word).toNat)) = (some dirBytes, dHist7a) ∧ dHist7a.dirRead 11 ((3 : Word).toNat) ((sHist.dev.mbTaken 775 1 [3, 150, 0]).lastK
      ((3 : Word).toNat)) = (some dirBytes, dHist7b) ∧ toSigned 64 (fieldAt dirBytes 8 8) ≤ toSigned 64 (word64 150 0) ∧ toSigned 64
      (word64 150 0) ≤ toSigned 64 (fieldAt dirBytes 16 8) ∧ (dHist7b.histFind ((3 : Word).toNat) (toSigned 64 (word64 150 0)) 64
      ((sHist.dev.mbTaken 775 1 [3, 150, 0]).oldestK ((3 : Word).toNat)) ((sHist.dev.mbTaken 775 1 [3, 150, 0]).lastK
      ((3 : Word).toNat))).fst = some (0 : Int) ∧ (dHist7b.histFind ((3 : Word).toNat) (toSigned 64 (word64 150 0)) 64
      ((sHist.dev.mbTaken 775 1 [3, 150, 0]).oldestK ((3 : Word).toNat)) ((sHist.dev.mbTaken 775 1 [3, 150, 0]).lastK
      ((3 : Word).toNat))).snd.dirRead 11 ((3 : Word).toNat) (0 : Int) = (some dirBytes, dHist7c) ∧ dirBytes.length ≤ 262000) ∧
    (sLodeC.dev.mbOpen 778 false = true ∧ (8 : Word).toNat < 16 ∧ (∀ (m : Nat), m < 4 → BitVec.getLsbD (8 : Word) m = true →
      sLodeC.dev.mosEn m = true ∧ lodeSetOk (sLodeC.dev.lodeShadow m) = true)) := by
  decide +kernel

theorem test_StrandAndMosaicCommandsAct_witness3 :
    sLodeC.dev.mbOpen 779 false = true ∧ sLodeC.dev.mosEn ((3 : Word).toNat) = true := by
  decide +kernel

theorem test_AssayCommandsAct_witness1 :
    (sAsy.dev.variant.assay = true ∧ sAsy.dev.mbOpen 1281 true = true ∧ (1 : Word).toNat < 4 ∧ (sAsy.dev.mbTaken 1281 1 [1, 0, 0,
      0]).slotHeld ((1 : Word).toNat) = false ∧ (0 : Word).toNat = 0) ∧
    (ready.dev.variant.assay = true ∧ ready.dev.mbOpen 1281 true = true ∧ (3 : Word).toNat < 4 ∧ (ready.dev.mbTaken 1281 1 [3, 0, 0,
      3136]).slotHeld ((3 : Word).toNat) = false ∧ (3136 : Word).toNat ≠ 0 ∧ (ready.dev.mbTaken 1281 1 [3, 0, 0, 3136]).hostBuf (word64 0
      0) ((3136 : Word).toNat) (HostDma.ok blob) = (stOk, blob, dLoad) ∧ blobBad blob = none ∧ dLoad.sramFit (netParams blob) = some 0) ∧
    (sAsy.dev.variant.assay = true ∧ sAsy.dev.mbOpen 1283 false = true ∧ (8 : Word).toNat < 16 ∧ (∀ (m : Nat), m < 4 → BitVec.getLsbD
      (8 : Word) m = true → (sAsy.dev.mbTaken 1283 1 [8]).asyShadowOk m = true)) := by
  decide +kernel

theorem test_AssayCommandsAct_witness2 :
    sPatch.dev.variant.assay = true ∧ sPatch.dev.mbOpen 1284 false = true ∧ (117440512 : Word).toNat % 2 ^ 24 < (sPatch.dev.mbTaken 1284
      1 [117440512]).fld ⟨R.ASY_PB_SLOTS, 0, 24⟩ ∧ tget noneAt (sPatch.dev.mbTaken 1284 1 [117440512]).asy.pbGen
      ((117440512 : Word).toNat % 2 ^ 24) = some ((117440512 : Word).toNat / 2 ^ 24) ∧ (sPatch.dev.mbTaken 1284 1 [117440512]).memRead 11
      ((sPatch.dev.mbTaken 1284 1 [117440512]).reg64 R.ASY_PB_BASE_LO + (117440512 : Word).toNat % 2 ^ 24 * BitVec.toNat
      ((sPatch.dev.mbTaken 1284 1 [117440512]).reg R.ASY_PB_STRIDE)) 64 = (pbHead, false, dPatch1) ∧ dPatch1.memRead 11
      ((sPatch.dev.mbTaken 1284 1 [117440512]).reg64 R.ASY_PB_BASE_LO + (117440512 : Word).toNat % 2 ^ 24 * BitVec.toNat
      ((sPatch.dev.mbTaken 1284 1 [117440512]).reg R.ASY_PB_STRIDE)) (64 + 2 * byteAt pbHead 9 * (32 * 2 ^ byteAt pbHead 10) * (32 * 2 ^
      byteAt pbHead 10)) = (dPatch.rawRead 8192 2112, false, dPatch2) ∧ (dPatch.rawRead 8192 2112).length ≤ 262144 := by
  decide +kernel

theorem test_DeliveryAndEventCommandsAct_witness1 :
    (ready.dev.mbOpen 1538 false = true ∧ (1048575 : Word).toNat < 1048576 ∧ (16 : Word).toNat ≤ 16 ∧ (qRead.2.queueDesc 1048575 ++
      qRead.1).length ≤ 262144) ∧
    (sRing.dev.mbOpen 1539 false = true ∧ (4095 : Word).toNat < 4096 ∧ (2 : Word).toNat < 3 ∧ (15 : Word).toNat < 16 ∧
      (16777215 : Word).toNat < 2 ^ 24 ∧ (sRing.dev.mbTaken 1539 1 [4095, 2, 15, 16777215]).ringClaimed ((4095 : Word).toNat) = true) ∧
    (sRing.dev.mbOpen 1794 false = true ∧ (7 : Word).toNat < 8) ∧
    (ready.dev.mbOpen 1795 false = true ∧ (31 : Word).toNat < 32 ∧ (2044 : Word).toNat < 2048 ∧ (ready.dev.mbTaken 1795 1 [31, 2044, 5,
      0, 256, 7]).cmpDenied ((31 : Word).toNat) (getBits (2044 : Word) 0 2) = false ∧ (getBits (2044 : Word) 0 2 = 3 → inWindow (toSigned
      64 (word64 5 0) - Int.ofNat ready.dev.now2) = true)) ∧
    (ready.dev.mbOpen 1795 false = true ∧ (31 : Word).toNat < 32 ∧ (515 : Word).toNat < 2048 ∧ (ready.dev.mbTaken 1795 1 [31, 515,
      4294967295, 127, 256, 7]).cmpDenied ((31 : Word).toNat) (getBits (515 : Word) 0 2) = false ∧ (getBits (515 : Word) 0 2 = 3 →
      inWindow (toSigned 64 (word64 4294967295 127) - Int.ofNat ready.dev.now2) = true)) := by
  decide +kernel

theorem test_DeliveryAndEventCommandsAct_witness2 :
    (sTrig.dev.mbOpen 1796 false = true ∧ (15 : Word).toNat < 16 ∧ 0 < (256 : Word).toNat ∧ (256 : Word).toNat ≤ 256 ∧ (∀ (c : Nat), c ∈
      List.map (fun i => ((1 : Word).toNat + i) % 2 ^ 32) (List.range ((256 : Word).toNat)) → (sTrig.dev.mbTaken 1796 1 [15, 1,
      256]).histKept ((15 : Word).toNat) c = true ∧ (sTrig.dev.mbTaken 1796 1 [15, 1, 256]).readable ((sTrig.dev.mbTaken 1796 1 [15, 1,
      256]).histAddr ((15 : Word).toNat) c) 32 = true)) ∧
    (sTrigW.dev.mbOpen 1796 false = true ∧ (15 : Word).toNat < 16 ∧ 0 < (6 : Word).toNat ∧ (6 : Word).toNat ≤ 256 ∧ (∀ (c : Nat), c ∈
      List.map (fun i => ((4294967294 : Word).toNat + i) % 2 ^ 32) (List.range ((6 : Word).toNat)) → (sTrigW.dev.mbTaken 1796 1 [15,
      4294967294, 6]).histKept ((15 : Word).toNat) c = true ∧ (sTrigW.dev.mbTaken 1796 1 [15, 4294967294, 6]).readable
      ((sTrigW.dev.mbTaken 1796 1 [15, 4294967294, 6]).histAddr ((15 : Word).toNat) c) 32 = true)) ∧
    (ready.dev.mbOpen 2049 false = true ∧ (127 : Word).toNat < 128 ∧ (63 : Word).toNat < 64 ∧ (List.replicate 12 (0 : Word)).length = 12
      ∧ (List.replicate 12 (0 : Word)).all (fun w => decide (w.toNat < 65536)) = true) := by
  decide +kernel

theorem test_TimeCommandsAct_witness1 :
    (ready.dev.mbOpen 2306 false = true ∧ fieldAt (wordsBytes [4294967295, 3388964863, 4294917018]) 6 4 < 1000000000 ∧ fieldAt
      (wordsBytes [4294967295, 3388964863, 4294917018]) 0 6 < 2 ^ 47) ∧
    (ready.dev.mbOpen 2306 false = true ∧ baseOk (ready.dev.tim.tb3.total + toSigned 64 (word64 4294967295 32767) * (2 ^ 32 : Int)) =
      true) ∧
    (ready.dev.mbOpen 2306 false = true ∧ toSigned 64 (word64 2147483648 4294967295) < (2147483648 : Int) ∧ (-2147483648 : Int) ≤
      toSigned 64 (word64 2147483648 4294967295)) ∧
    (ready.dev.mbOpen 2306 false = true) ∧
    (sTc.dev.mbOpen 2307 false = true ∧ tcArgs.length = 9 ∧ BitVec.toNat (tcArgs.getD 0 (0 : Word)) < 16 ∧ BitVec.toNat (tcArgs.getD 1
      (0 : Word)) < 4 ∧ BitVec.toNat (tcArgs.getD 2 (0 : Word)) < 2 ∧ BitVec.toNat (tcArgs.getD 3 (0 : Word)) < 2 ∧ BitVec.toNat
      (tcArgs.getD 5 (0 : Word)) < 65536 ∧ BitVec.toNat (tcArgs.getD 6 (0 : Word)) < 1000000000 ∧ BitVec.toNat (tcArgs.getD 8 (0 : Word))
      < 128 ∧ inWindow (Int.ofNat ((BitVec.toNat (tcArgs.getD 4 (0 : Word)) + BitVec.toNat (tcArgs.getD 5 (0 : Word)) * 2 ^ 32) *
      1000000000 + BitVec.toNat (tcArgs.getD 6 (0 : Word))) - Int.ofNat (sTc.dev.base (BitVec.toNat (tcArgs.getD 1 (0 : Word)))).linear)
      = true) := by
  decide +kernel

theorem test_TimeCommandsAct_witness2 :
    (sTc.dev.mbOpen 2307 false = true ∧ tcArgs2.length = 9 ∧ BitVec.toNat (tcArgs2.getD 0 (0 : Word)) < 16 ∧ BitVec.toNat (tcArgs2.getD 1
      (0 : Word)) < 4 ∧ BitVec.toNat (tcArgs2.getD 2 (0 : Word)) < 2 ∧ BitVec.toNat (tcArgs2.getD 3 (0 : Word)) < 2 ∧ BitVec.toNat
      (tcArgs2.getD 5 (0 : Word)) < 65536 ∧ BitVec.toNat (tcArgs2.getD 6 (0 : Word)) < 1000000000 ∧ BitVec.toNat (tcArgs2.getD 8
      (0 : Word)) < 128 ∧ inWindow (Int.ofNat ((BitVec.toNat (tcArgs2.getD 4 (0 : Word)) + BitVec.toNat (tcArgs2.getD 5 (0 : Word)) * 2 ^
      32) * 1000000000 + BitVec.toNat (tcArgs2.getD 6 (0 : Word))) - Int.ofNat (sTc.dev.base (BitVec.toNat (tcArgs2.getD 1
      (0 : Word)))).linear) = true) ∧
    (sSrc2.dev.mbOpen 2309 true = true ∧ word64 4294967295 32767 < 2 ^ 47 ∧ sSrc2.dev.tb0Src = 2) := by
  decide +kernel

theorem test_MemoryAndCheckCommandsAct_witness :
    (sMemLog.dev.mbOpen 3077 true = true) ∧
    (sSlu.dev.mbOpen 3330 false = true ∧ sSlu.dev.sluEn = true ∧ (List.replicate 10 (3 : Word)).length = 10) ∧
    (ready.dev.mbOpen 3586 false = true ∧ (7 : Word).toNat < 8 ∧ cvRefused (983329 : Word) = false ∧ (ready.dev.mbTaken 3586 1 [7,
      983329, 1, 4294967295, 4294967295, 16777215]).cvImage ((7 : Word).toNat) = false ∧ ready.dev.cvAbsent (983329 : Word) = false) ∧
    (ready.dev.mbOpen 3587 false = true ∧ (7 : Word).toNat < 8) ∧
    (ready.dev.mbOpen 3588 false = true ∧ (7 : Word).toNat < 8 ∧ (ready.dev.mbTaken 3588 1 [7, 983329, 1, 4294967295]).cvImage
      ((7 : Word).toNat) = false) := by
  decide +kernel

theorem test_ClaimCommandsAct_witness :
    (ready.dev.mbOpen 3842 false = true ∧ claimRange ((5 : Word).toNat) ((1044483 : Word).toNat) ((1 : Word).toNat) ((3 : Word).toNat) =
      true ∧ ((5 : Word).toNat = 5 → (3 : Word).toNat = 3 → ready.dev.variant.assay = true) ∧ ready.dev.cfg.claims.any (claimsMeet
      ((5 : Word).toNat) ((1044483 : Word).toNat) ((1 : Word).toNat)) = false) ∧
    (sClaim.dev.mbOpen 3843 false = true ∧ (sClaim.dev.cfg.claims.any fun c => c.host && claimsMeet ((1 : Word).toNat) ((2 : Word).toNat)
      ((1 : Word).toNat) c) = true) := by
  decide +kernel

theorem test_SessionCommandsAct_witness :
    (ready.dev.mbOpen 4098 false = true) ∧
    (sChal.dev.mbOpen 4099 false = true ∧ (([] : List Word).length = 24 ∨ ([] : List Word).length = 0) ∧ sChal.dev.sec.nonce = some
      nonce1 ∧ sChal.nv.ownerAuth nonce1 (argBytes [] 0 96) = true) ∧
    (sOwnChal.dev.mbOpen 4099 false = true ∧ (sigWords.length = 24 ∨ sigWords.length = 0) ∧ sOwnChal.dev.sec.nonce = some nonce1 ∧
      sOwnChal.nv.ownerAuth nonce1 (argBytes sigWords 0 96) = true) ∧
    (sOwnChal.dev.mbOpen 4099 false = true ∧ (([] : List Word).length = 24 ∨ ([] : List Word).length = 0) ∧ sOwnChal.dev.sec.nonce = some
      nonce1 ∧ sOwnChal.nv.ownerAuth nonce1 (argBytes [] 0 96) = false) ∧
    (sChal.dev.mbOpen 4100 false = true ∧ sChal.dev.ownSession = true) ∧
    (sChal.dev.mbOpen 4101 false = true ∧ (List.replicate 8 (5 : Word)).length = 8 ∧ ((sChal.dev.mbTaken 4101 (1 : Word) (List.replicate
      8 (5 : Word))).quoteBytes sChal.nv (argBytes (List.replicate 8 (5 : Word)) 0 32)).length ≤ 262048) := by
  decide +kernel

theorem test_OwnerCommandsBurnTheirFuses_witness :
    (sChal.dev.mbOpen 4103 false = true ∧ provWords.length = 49 ∧ sChal.nv.fuses.owner = none ∧ sChal.dev.ownSession = true ∧
      sChal.dev.sec.session = some nonce1 ∧ ecVerify (argBytes provWords 0 97) ([(67 : Byte), (71 : Byte), (79 : Byte), (80 : Byte)] ++
      sChal.nv.idBytes ++ nonce1) (argBytes provWords 97 96) = true ∧ sChal.nv.fuses.freeSlot = some 0) ∧
    (sOwn.dev.mbOpen 4103 false = true ∧ ((bytesWords gKey).length = 49 ∨ (bytesWords gKey).length = 25) ∧ sOwn.nv.fuses.owner = some 0 ∧
      sOwn.nv.fuses.ownerHash = some (sha384 (argBytes (bytesWords gKey) 0 97))) ∧
    (sOwn.dev.mbOpen 4104 true = true ∧ sOwn.nv.fuses.owner = some 0) ∧
    (sOwn.dev.mbOpen 4105 true = true ∧ ([(1 : Word)] = [(0 : Word)] ∨ [(1 : Word)] = [(1 : Word)]) ∧ sOwn.nv.fuses.owner = some 0 ∧
      sOwn.nv.ownerRec = some rcdOwn) ∧
    (sOwn.dev.mbOpen 4106 true = true ∧ sOwn.nv.fuses.owner = some 0) := by
  decide +kernel

theorem test_UpdateCommandsAct_witness1 :
    (sPol.dev.mbOpen 4107 true = true ∧ sPol.dev.bit ⟨R.SEC_POLICY, 0, 1⟩ = true ∧ sPol.dev.stage ≠ 4 ∧ sPol.dev.stage ≠ 5 ∧
      sPol.dev.sec.holder = none) ∧
    ((sHold 1).dev.mbOpen 4108 false = true ∧ (sHold 1).dev.hostHolds = true ∧ (sHold 1).dev.stage = 1 ∧ 0 < (8 : Word).toNat ∧
      (8 : Word).toNat ≤ 1048576 ∧ (50331640 : Word).toNat + (8 : Word).toNat ≤ slotSize ∧ ((sHold 1).dev.mbTaken 4108 1 [50331640, 0, 0,
      8]).holderSeen.hostBuf (word64 0 0) ((8 : Word).toNat) (HostDma.ok table8) = (stOk, table8, ((sHold 1).dev.mbTaken 4108 1
      [50331640, 0, 0, 8]).holderSeen)) ∧
    ((sHold 1).dev.mbOpen 4109 false = true ∧ (sHold 1).dev.hostHolds = true ∧ (sHold 1).dev.stage = 1) ∧
    (sHoldM.dev.mbOpen 4110 false = true ∧ sHoldM.dev.hostHolds = true ∧ (0 : Word).toNat < 2 ∧ (sHoldM.dev.mbTaken 4110 1
      [0]).holderSeen.stage = 3 ∧ (sHoldM.dev.mbTaken 4110 1 [0]).holderSeen.paused = false ∧ ((0 : Word).toNat = 0 → (sHoldM.dev.mbTaken
      4110 1 [0]).holderSeen.sameDefs sHoldM.nv = true) ∧ (sHoldM.dev.mbTaken 4110 1 [0]).holderSeen.refusal = none) := by
  decide +kernel

theorem test_UpdateCommandsAct_witness2 :
    ((sHold 3).dev.mbOpen 4110 false = true ∧ (sHold 3).dev.hostHolds = true ∧ (1 : Word).toNat < 2 ∧ ((sHold 3).dev.mbTaken 4110 1
      [1]).holderSeen.stage = 3 ∧ ((sHold 3).dev.mbTaken 4110 1 [1]).holderSeen.paused = false ∧ ((1 : Word).toNat = 0 → ((sHold
      3).dev.mbTaken 4110 1 [1]).holderSeen.sameDefs (sHold 3).nv = true) ∧ ((sHold 3).dev.mbTaken 4110 1 [1]).holderSeen.refusal = none) ∧
    ((sHold 3).dev.mbOpen 4111 false = true ∧ (sHold 3).dev.hostHolds = true) ∧
    ((sHold 4).dev.mbOpen 4111 false = true ∧ (sHold 4).dev.hostHolds = true) := by
  decide +kernel

theorem test_PowerAndCalibrationCommandsAct_witness :
    (ready.dev.mbOpen 4355 true = true) ∧
    (ready.dev.mbOpen 4610 false = true ∧ (524287 : Word).toNat < 2 ^ 19 ∧ ((524287 : Word) = (0 : Word) ∨ ∃ i, i < 19 ∧ BitVec.getLsbD
      (524287 : Word) i = true ∧ ready.dev.calItem i = true)) ∧
    (sCalm.dev.mbOpen 4611 true = true ∧ (16383 : Word).toNat < 2 ^ 14 ∧ (sCalm.dev.mbTaken 4611 1 [16383]).stage ≠ 4 ∧
      (sCalm.dev.mbTaken 4611 1 [16383]).stage ≠ 5 ∧ (sCalm.dev.mbTaken 4611 1 [16383]).paused = false ∧ (sCalm.dev.mbTaken 4611 1
      [16383]).refusal = none) := by
  decide +kernel

theorem test_CameraAndMosaicWritesAct_witness1 :
    (sAct.on ∧ 15 < sAct.dev.variant.ports ∧ getBits (1 : Word) 0 1 = 1 ∧ sAct.dev.portState 15 ≠ 0) ∧
    (sAct.on ∧ 15 < sAct.dev.variant.ports ∧ getBits (65284 : Word) 0 1 = 0 ∧ getBits (65284 : Word) 1 2 < 3 ∧ sAct.dev.lpOk 15 = true) ∧
    (sAct.on ∧ 15 < sAct.dev.variant.ports) ∧
    (sEn.on ∧ 31 < sEn.dev.variant.contexts ∧ getBits (3 : Word) 0 1 = 1 ∧ sEn.dev.ctxEn 31 = true) ∧
    (sEn.on) ∧
    (31 < sEn.dev.variant.contexts ∧ getBits (2147483648 : Word) 31 1 = 1 ∧ sEn.dev.ctxEn 31 = true) ∧
    (sEn.on ∧ 31 < sEn.dev.variant.contexts) ∧
    (getBits (3 : Word) 1 1 = 1) ∧
    (sEn.on ∧ 31 < sEn.dev.variant.contexts ∧ getBits (3 : Word) 1 1 = 1) := by
  decide +kernel

theorem test_CameraAndMosaicWritesAct_witness2 :
    (sEn.on ∧ 3 < 4 ∧ getBits (3 : Word) 0 1 = 1) ∧
    (sEn.on ∧ sEn.dev.variant.assay = true) := by
  decide +kernel

theorem test_TimingWritesAct_witness1 :
    (ready.on ∧ 7 < 8) ∧
    (ready.on ∧ 31 < 32) ∧
    (sTimed.on ∧ 31 < 32 ∧ sTimed.dev.cmpMode 31 = 3) ∧
    (ready.on ∧ 31 < 32 ∧ ready.dev.cmpDenied 31 (getBits (2047 : Word) 0 2) = false) ∧
    (ready.on) ∧
    (ready.on ∧ 15 < 16) ∧
    (ready.on ∧ 127 < 128 ∧ ready.dev.chOwner 127 = 0 ∧ ready.dev.chRefusal (ready.dev.halves (List.take 2 (chWordAddrs 127)))
      (ready.dev.halves (List.drop 2 (chWordAddrs 127))) = none) := by
  decide +kernel

theorem test_TimingWritesAct_witness2 :
    (ready.on ∧ (∀ (g : Nat), g < 16 → ready.dev.grpSecure g = false)) ∧
    (ready.on) ∧
    (ready.on ∧ (∀ (g : Nat), g < 16 → ready.dev.gpioHost g = true)) := by
  decide +kernel

theorem test_EngineWritesAct_witness1 :
    (ready.on ∧ 15 < 16 ∧ BitVec.getLsbD (127 : Word) 0 = true) ∧
    (ready.on ∧ 15 < 16 ∧ BitVec.getLsbD (126 : Word) 0 = false) ∧
    (sCopy.on ∧ 15 < 16 ∧ sCopy.dev.dmaCopyMode 15 = true) ∧
    (ready.on ∧ 15 < 16 ∧ ready.dev.dmaCopyMode 15 = false) ∧
    (ready.on ∧ ready.dev.sluEn = false ∧ BitVec.getLsbD (127 : Word) 0 = true) ∧
    (ready.on) ∧
    (ready.on ∧ 7 < 8 ∧ ready.dev.cvImage 7 = false ∧ cvRefused (983329 : Word) = false ∧ ready.dev.cvAbsent (983329 : Word) = false) ∧
    (ready.on ∧ 7 < 8 ∧ ready.dev.cvImage 7 = false) ∧
    (ready.on ∧ 7 < 8 ∧ BitVec.getLsbD (983329 : Word) 0 = true) := by
  decide +kernel

theorem test_EngineWritesAct_witness2 :
    ready.on := by
  decide +kernel

theorem test_RaisedEventsReachTheirConsumers_witness :
    (sRnl.dev.rnlEn = true ∧ Cause.hop { hop := 5, chan := 0 } < 6 ∧ 127 < 128 ∧ sRnl.dev.chCfg 127 0 1 = 1 ∧ evtId 1 0 ∈ sRnl.dev.chSrc
      127 ∧ 33808 ∈ sRnl.dev.chDst 127 ∧ idValid 33808 = true ∧ (sRnl.dev.chCfg 127 5 1 = 0 ∨ sRnl.dev.grpEn (sRnl.dev.chCfg 127 1 4) =
      true)) ∧
    (ready.dev.rnlEn = false) := by
  decide +kernel

theorem test_TasksTakeTheirActivations_witness1 :
    ((sActs 1039).on ∧ 15 < 16 ∧ tget noneAt (sActs 1039).dev.rnl.acts 1039 = some act1) ∧
    (ready.on ∧ 15 < 16 ∧ tget noneAt ready.dev.rnl.acts 1039 = none ∧ twf noneAt ready.dev.rnl.acts = true) ∧
    ((sActs 1055).on ∧ 15 < 16 ∧ tget noneAt (sActs 1055).dev.rnl.acts 1055 = some act1) ∧
    (ready.on ∧ 15 < 16 ∧ tget noneAt ready.dev.rnl.acts 1055 = none ∧ twf noneAt ready.dev.rnl.acts = true) ∧
    ((sActs 1823).on ∧ 31 < 32 ∧ tget noneAt (sActs 1823).dev.rnl.acts 1823 = some act1) ∧
    (ready.on ∧ 31 < 32 ∧ tget noneAt ready.dev.rnl.acts 1823 = none ∧ twf noneAt ready.dev.rnl.acts = true) ∧
    ((sActs 2048).on ∧ tget noneAt (sActs 2048).dev.rnl.acts 2048 = some act1) ∧
    (ready.on ∧ tget noneAt ready.dev.rnl.acts 2048 = none ∧ twf noneAt ready.dev.rnl.acts = true) ∧
    ((sActs 1295).on ∧ 15 < 16 ∧ tget noneAt (sActs 1295).dev.rnl.acts 1295 = some act1) := by
  decide +kernel

theorem test_TasksTakeTheirActivations_witness2 :
    (ready.on ∧ 15 < 16 ∧ tget noneAt ready.dev.rnl.acts 1295 = none ∧ twf noneAt ready.dev.rnl.acts = true) ∧
    ((sActs 1311).on ∧ 15 < 16 ∧ tget noneAt (sActs 1311).dev.rnl.acts 1311 = some act1) ∧
    (ready.on ∧ 15 < 16 ∧ tget noneAt ready.dev.rnl.acts 1311 = none ∧ twf noneAt ready.dev.rnl.acts = true) ∧
    ((sActs 519).on ∧ 7 < 8 ∧ tget noneAt (sActs 519).dev.rnl.acts 519 = some act1) ∧
    (ready.on ∧ 7 < 8 ∧ tget noneAt ready.dev.rnl.acts 519 = none ∧ twf noneAt ready.dev.rnl.acts = true) ∧
    ((sActs 551).on ∧ 31 < 32 ∧ tget noneAt (sActs 551).dev.rnl.acts 551 = some act1) ∧
    (ready.on ∧ 31 < 32 ∧ tget noneAt ready.dev.rnl.acts 551 = none ∧ twf noneAt ready.dev.rnl.acts = true) ∧
    ((sActs 583).on ∧ 31 < 32 ∧ tget noneAt (sActs 583).dev.rnl.acts 583 = some act1) ∧
    (ready.on ∧ 31 < 32 ∧ tget noneAt ready.dev.rnl.acts 583 = none ∧ twf noneAt ready.dev.rnl.acts = true) := by
  decide +kernel

theorem test_TasksTakeTheirActivations_witness3 :
    ((sActs 380).on ∧ 31 < (sActs 380).dev.variant.contexts ∧ tget noneAt (sActs 380).dev.rnl.acts 380 = some act1) ∧
    (ready.on ∧ 31 < ready.dev.variant.contexts ∧ tget noneAt ready.dev.rnl.acts 380 = none ∧ twf noneAt ready.dev.rnl.acts = true) ∧
    ((sActs 381).on ∧ 31 < (sActs 381).dev.variant.contexts ∧ tget noneAt (sActs 381).dev.rnl.acts 381 = some act1) ∧
    (ready.on ∧ 31 < ready.dev.variant.contexts ∧ tget noneAt ready.dev.rnl.acts 381 = none ∧ twf noneAt ready.dev.rnl.acts = true) ∧
    ((sActs 382).on ∧ 31 < (sActs 382).dev.variant.contexts ∧ tget noneAt (sActs 382).dev.rnl.acts 382 = some act1) ∧
    (ready.on ∧ 31 < ready.dev.variant.contexts ∧ tget noneAt ready.dev.rnl.acts 382 = none ∧ twf noneAt ready.dev.rnl.acts = true) ∧
    ((sActs 383).on ∧ 31 < (sActs 383).dev.variant.contexts ∧ tget noneAt (sActs 383).dev.rnl.acts 383 = some act1) ∧
    (ready.on ∧ 31 < ready.dev.variant.contexts ∧ tget noneAt ready.dev.rnl.acts 383 = none ∧ twf noneAt ready.dev.rnl.acts = true) ∧
    ((sActsM 771).on ∧ (sActsM 771).dev.mosEn 3 = true ∧ (sActsM 771).dev.memFrozen = false ∧ (((sActsM 771).dev.actTaken 771).hostClose
      3).snd.memFrozen = false ∧ tget noneAt (sActsM 771).dev.rnl.acts 771 = some act1) := by
  decide +kernel

theorem test_TasksTakeTheirActivations_witness4 :
    (sMos.on ∧ sMos.dev.mosEn 3 = true ∧ sMos.dev.memFrozen = false ∧ ((sMos.dev.actTaken 771).hostClose 3).snd.memFrozen = false ∧ tget
      noneAt sMos.dev.rnl.acts 771 = none ∧ twf noneAt sMos.dev.rnl.acts = true) ∧
    ((sActsM 775).on ∧ (sActsM 775).dev.mosEn 3 = true ∧ tget noneAt (sActsM 775).dev.rnl.acts 775 = some act1) ∧
    (sMos.on ∧ sMos.dev.mosEn 3 = true ∧ tget noneAt sMos.dev.rnl.acts 775 = none ∧ twf noneAt sMos.dev.rnl.acts = true) ∧
    (sPin.on ∧ 15 < 16 ∧ sPin.dev.bit ⟨R.GLB_GPIO_IN, 15, 1⟩ = !true ∧ sPin.dev.gpioRunnel 15 = true) := by
  decide +kernel

theorem test_AddressesAndLocationsAgree_witness :
    (137438953471 < 137438953472) ∧
    (68719476735 < 68719476736) ∧
    (Loc.fits true locTop) ∧
    (Loc.fits false { stack := 0, pc := 31, sid := 1, bankGroup := 3, bank := 3, row := 65535, column := 1023 }) := by
  decide +kernel

theorem test_DramWritesStoreTheirBytes_witness :
    (sParts.on ∧ sParts.dev.stackFull (sParts.dev.stackOf 17825790) = false ∧ sParts.dev.mustWait 17825790 = false) ∧
    (sParts.dev.mayWrite 1 17825790 [(1 : Byte), (2 : Byte)] = true ∧ sParts.dev.mirrorOf 17825791 = some 34602751) ∧
    (sParts.on ∧ sParts.dev.stackFull (sParts.dev.stackOf 17825791) = false ∧ sParts.dev.mustWait 17825791 = false) ∧
    (sParts.dev.mayWrite 1 17825791 [(1 : Byte), (2 : Byte)] = false) ∧
    (sFrozen.on ∧ sFrozen.dev.stackFull (sFrozen.dev.stackOf 17825791) = false ∧ sFrozen.dev.mustWait 17825791 = true) ∧
    (sFull.on ∧ sFull.dev.stackFull (sFull.dev.stackOf 17825280) = true) ∧
    (sParts.on ∧ sParts.dev.inHostPart 68157438 [(1 : Byte), (2 : Byte)].length = true) ∧
    (sParts.on ∧ sParts.dev.inHostPart 68157439 [(1 : Byte), (2 : Byte)].length = false) := by
  decide +kernel

theorem test_ReadsAnswerFromTheCells_witness1 :
    (sParts.on ∧ sParts.dev.stackFull (sParts.dev.stackOf 68157376) = false ∧ sParts.dev.mustWait 68157376 = false ∧ sParts.dev.badAt
      (68157376 / 64 : Nat) = none) ∧
    (sFrozen.on ∧ sFrozen.dev.stackFull (sFrozen.dev.stackOf 137438953408) = false ∧ sFrozen.dev.mustWait 137438953408 = true) ∧
    (sFull.on ∧ sFull.dev.stackFull (sFull.dev.stackOf 137438952960) = true) ∧
    (sParts.on ∧ sParts.dev.memFrozen = false ∧ (sParts.dev.variant.dual = true ∨ 137438952960 < 68719476736)) ∧
    (sSmall.on ∧ sSmall.dev.memFrozen = false ∧ (sSmall.dev.variant.dual = true ∨ 68719476672 < 68719476736)) ∧
    (sFrozen.on ∧ (sFrozen.dev.memFrozen = true ∨ sFrozen.dev.variant.dual = false ∧ 68719476736 ≤ 137438953408)) ∧
    (sSmall.on ∧ (sSmall.dev.memFrozen = true ∨ sSmall.dev.variant.dual = false ∧ 68719476736 ≤ 68719476736)) ∧
    (sSmall.on) := by
  decide +kernel

theorem test_ReadsAnswerFromTheCells_witness2 :
    sSmall.on := by
  decide +kernel

theorem test_MemoryEventsAct_witness1 :
    (sWait.on ∧ sWait.dev.mem.wait[0]? = some memReq1 ∧ memReq1.urgent = false) ∧
    (ready.on ∧ 1 < 2 ∧ 31 < 32 ∧ ready.dev.memFrozen = false) ∧
    (sOwed.on ∧ 1 < 2 ∧ 31 < 32 ∧ sOwed.dev.memFrozen = false) ∧
    (sWait.on ∧ 0 < 2 ∧ 0 < 32 ∧ sWait.dev.memFrozen = false) ∧
    (sOwed.dev.owedOf 63 = 8 ∧ sOwed.dev.mem.wait = []) ∧
    ((sWait.dev.mem.wait.any fun x => sWait.dev.bankOf x.addr == 32 * 0 + sWait.dev.refBankOf 0) = true ∧ sWait.dev.owedOf 0 < 8) ∧
    (sScrub.on ∧ sScrub.dev.bit ⟨R.MEM_CFG, 0, 1⟩ = true ∧ sScrub.dev.memFrozen = false) ∧
    (sFrozen.on ∧ (sFrozen.dev.bit ⟨R.MEM_CFG, 0, 1⟩ = false ∨ sFrozen.dev.memFrozen = true)) ∧
    (sScrub.on ∧ 1 < 2 ∧ 15 < 16) := by
  decide +kernel

theorem test_MemoryEventsAct_witness2 :
    sRecov.on ∧ 1 < 2 ∧ 15 < 16 ∧ sRecov.dev.bit ⟨R.MEM_TRAINs_c 1 15, 2, 1⟩ = true ∧ sRecov.dev.mem.wait = [] ∧ sRecov.dev.mem.stalled =
      [] := by
  decide +kernel

theorem test_SluiceAndCheckUnitsWork_witness :
    (sRun.on ∧ 3 < 4 ∧ sRun.dev.sluLane 3 = none ∧ sRun.dev.memFrozen = false ∧ sRun.dev.sluEn = true ∧ sRun.dev.slu.runs = [(1,
      List.replicate 40 (1 : Byte))]) ∧
    (sJobs.on ∧ 3 < 4 ∧ sJobs.dev.sluLane 3 = none ∧ sJobs.dev.memFrozen = false ∧ sJobs.dev.slu.runs = [] ∧ sJobs.dev.sluEn = true ∧
      sJobs.dev.sluWaiting ≠ 0 ∧ sJobs.dev.readable (sJobs.dev.slu.base + 64 * (sJobs.dev.slu.taken % sJobs.dev.slu.slots)) 64 = true) ∧
    (sJobM.on ∧ sJobM.dev.sluLane 3 = some jobM ∧ sJobM.dev.memFrozen = false ∧ (sJobM.dev.sluJob jobM.desc jobM.memErr
      false).snd.memFrozen = false) ∧
    (jobM.mailbox = true ∧ sJobM.dev.mbWaits 3330 = true) ∧
    (sTap.on) ∧
    (sTap.dev.cvSnoops 7 beat1 = true) ∧
    (ready.on) := by
  decide +kernel

theorem test_DetachmentEndsTheHostsWork_witness :
    (sHost.on ∧ (Instr.usb4LinkLoss = Instr.usb4LinkLoss ∨ Instr.usb4LinkLoss = Instr.functionLevelReset ∨ Instr.usb4LinkLoss =
      Instr.hotReset)) ∧
    (sHost.on ∧ (Instr.functionLevelReset = Instr.usb4LinkLoss ∨ Instr.functionLevelReset = Instr.functionLevelReset ∨
      Instr.functionLevelReset = Instr.hotReset)) ∧
    (sHost.on ∧ (Instr.hotReset = Instr.usb4LinkLoss ∨ Instr.hotReset = Instr.functionLevelReset ∨ Instr.hotReset = Instr.hotReset)) ∧
    (sHost.on) := by
  decide +kernel

theorem test_EnginesMoveData_witness1 :
    (sBurst.on ∧ 15 < 16 ∧ 0 < 1 ∧ sBurst.dev.memFrozen = false ∧ sBurst.dev.hif.promoted = [] ∧ turnOf sBurst.dev.dmaRingWork
      sBurst.dev.hif.lastRing 15 = true ∧ (sBurst.dev.dmaBurst 15 1).memFrozen = false) ∧
    (sCopyRun.on ∧ 15 < 16 ∧ sCopyRun.dev.memFrozen = false ∧ sCopyRun.dev.dmaCopyWork 15 = true ∧ sCopyRun.dev.hif.promoted = [] ∧ (∀ (i
      : Nat), i < 16 → sCopyRun.dev.dmaRingWork i = false) ∧ turnOf sCopyRun.dev.dmaCopyWork sCopyRun.dev.hif.lastCopy 15 = true ∧ 0 <
      fieldAt (copyDesc 137438953470 18446744073709551615 2 7) 16 4 ∧ fieldAt (copyDesc 137438953470 18446744073709551615 2 7) 16 4 ≤
      16777216 ∧ fieldAt (copyDesc 137438953470 18446744073709551615 2 7) 0 8 + fieldAt (copyDesc 137438953470 18446744073709551615 2 7)
      16 4 ≤ sCopyRun.dev.variant.dramBytes ∧ fieldAt (copyDesc 137438953470 18446744073709551615 2 7) 20 4 < 8 ∧ sCopyRun.dev.readable
      (fieldAt (copyDesc 137438953470 18446744073709551615 2 7) 0 8) (fieldAt (copyDesc 137438953470 18446744073709551615 2 7) 16 4) =
      true ∧ tget (fun _ => 0) sCopyRun.dev.hif.copied 15 = 0) := by
  decide +kernel

theorem test_EnginesMoveData_witness2 :
    (sCopyRun.on ∧ 15 < 16 ∧ sCopyRun.dev.memFrozen = false ∧ sCopyRun.dev.dmaCopyWork 15 = true ∧ sCopyRun.dev.hif.promoted = [] ∧ (∀ (i
      : Nat), i < 16 → sCopyRun.dev.dmaRingWork i = false) ∧ turnOf sCopyRun.dev.dmaCopyWork sCopyRun.dev.hif.lastCopy 15 = true ∧ 0 <
      fieldAt (copyDesc 0 18446744073709551615 16777216 7) 16 4 ∧ fieldAt (copyDesc 0 18446744073709551615 16777216 7) 16 4 ≤ 16777216 ∧
      fieldAt (copyDesc 0 18446744073709551615 16777216 7) 0 8 + fieldAt (copyDesc 0 18446744073709551615 16777216 7) 16 4 ≤
      sCopyRun.dev.variant.dramBytes ∧ fieldAt (copyDesc 0 18446744073709551615 16777216 7) 20 4 < 8) ∧
    (sUnsig.on ∧ 15 < 16 ∧ tget (fun _ => 0) sUnsig.dev.hif.unsignalled 15 ≠ 0) ∧
    (sCopyRun.on ∧ 15 < 16 ∧ sCopyRun.dev.dmaCopyWork 15 = true ∧ sCopyRun.dev.hif.promoted.contains 15 = false) := by
  decide +kernel

theorem test_ResetAndBootFollowTheirSteps_witness :
    (ready.dev.cove.save = none) ∧
    (sSave.dev.cove.save ≠ none) ∧
    (sCold.dev.cove.save = none ∧ (sCold.dev.glb.held = true ∨ sCold.dev.glb.started = false)) ∧
    (sEpoch.on ∧ sEpoch.dev.cfg.epochWrite = some epoch1 ∧ sEpoch.dev.cove.flashUp = true) ∧
    (sTrain.on ∧ sTrain.dev.cfg.loaded = true ∧ sTrain.dev.cfg.epochWrite = none ∧ sTrain.dev.fld bootPhase = 4 ∧ sTrain.dev.bit
      ⟨R.MEM_STATUS, 3, 1⟩ = false ∧ (∀ (t : TrainCh), t ∈ ([{ stack := 1, ch := 15 }] : List TrainCh) → t.failed = false)) ∧
    (sTrain.on ∧ sTrain.dev.cfg.loaded = true ∧ sTrain.dev.cfg.epochWrite = none ∧ sTrain.dev.fld bootPhase = 4 ∧ sTrain.dev.bit
      ⟨R.MEM_STATUS, 3, 1⟩ = false ∧ failCh ∈ [failCh] ∧ failCh.failed = true ∧ failCh.stack = 0 ∧ failCh.ch < 16) ∧
    (sInsp.on ∧ sInsp.dev.fld bootPhase = 6 ∧ sInsp.dev.bit ⟨R.MEM_STATUS, 0, 1⟩ = true ∧ sInsp.dev.bit ⟨R.GLB_STATUS, 2, 1⟩ = false ∧ (∀
      (p : Nat), p < sInsp.dev.variant.ports → sInsp.dev.portEn p = true → sInsp.dev.portState p = 7 ∨ sInsp.dev.portState p = 10)) := by
  decide +kernel

theorem test_RunningDeviceResets_witness :
    (ready.on) ∧
    (sTrial.on ∧ sTrial.dev.sec.trial = some trial1) := by
  decide +kernel

theorem test_TestAccessPortActs_witness1 :
    (ready.dev.cove.save = none ∧ ready.dev.cove.hold = false) ∧
    (sLocked.dev.cove.save = none ∧ sLocked.dev.cove.hold = false) ∧
    (sUnlock.dev.cove.save = none ∧ sUnlock.dev.cove.hold = false) ∧
    (sEight.dev.cove.save = none ∧ sEight.dev.cove.hold = false) ∧
    (sExtest.dev.cove.save = none ∧ sExtest.dev.cove.hold = false ∧ sExtest.dev.pins.boundary ≠ 0 ∧ sExtest.dev.glb.held = false ∧
      sExtest.dev.glb.started = true) ∧
    ((sSave.dev.cove.save ≠ none ∨ sSave.dev.cove.hold = true) ∧ (Instr.bypass = Instr.bypass ∨ Instr.bypass = Instr.tapExitReset ∨
      Instr.bypass = Instr.idcode ∨ Instr.bypass = Instr.clamp ∨ Instr.bypass = Instr.highz ∨ Instr.bypass = Instr.wrapAccess ∨
      Instr.bypass = Instr.pitmanDebug ∨ Instr.bypass = Instr.unlockChal ∨ Instr.bypass = Instr.lockStatus)) ∧
    ((sHoldSag.dev.cove.save ≠ none ∨ sHoldSag.dev.cove.hold = true) ∧ (Instr.lockStatus = Instr.bypass ∨ Instr.lockStatus =
      Instr.tapExitReset ∨ Instr.lockStatus = Instr.idcode ∨ Instr.lockStatus = Instr.clamp ∨ Instr.lockStatus = Instr.highz ∨
      Instr.lockStatus = Instr.wrapAccess ∨ Instr.lockStatus = Instr.pitmanDebug ∨ Instr.lockStatus = Instr.unlockChal ∨ Instr.lockStatus
      = Instr.lockStatus)) := by
  decide +kernel

theorem test_TestAccessPortActs_witness2 :
    (sUnlock.dev.sec.unlockFails < 8 ∧ sUnlock.dev.sec.unlockNonce = some nonce1 ∧ unlockSig.length = 96 ∧ sUnlock.nv.unlocks nonce1
      unlockSig = true ∧ sUnlock.dev.pins.boundary = 0 ∧ sUnlock.dev.glb.held = false ∧ sUnlock.dev.glb.started = true) ∧
    (sUnlock.nv.unlocks nonce1 [] = false ∧ (sLocked.nv.fuses.locked && !sLocked.dev.bit debugOpen) = true) := by
  decide +kernel

theorem test_SuppliesActOnTheDevice_witness :
    (ready.on ∧ ready.dev.holdOk = false ∧ above 65536 1140 = true) ∧
    (sHoldUp.on ∧ sHoldUp.dev.holdOk = true ∧ below 1124 1120 = true) ∧
    (sHoldUp.on) ∧
    (sHoldUp.on ∧ sHoldUp.dev.bit ⟨R.PWR_STATUS, 0, 1⟩ = true ∧ (true = true ∧ below 1084 1080 = true ∨ false = true)) ∧
    (sHoldUp.on ∧ sHoldUp.dev.bit ⟨R.PWR_STATUS, 0, 1⟩ = true ∧ (false = true ∧ below 65536 1080 = true ∨ true = true)) ∧
    (sSave.dev.cove.save = some save1 ∧ sSave.dev.cove.resetWaits = false) ∧
    (sHoldSag.dev.cove.hold = true) ∧
    (sErase.on ∧ sErase.dev.cove.erasing = [1, 0]) := by
  decide +kernel

theorem test_CalibrationAndSelfTestRun_witness :
    (ready.on ∧ 11 < 12 ∧ (ready.dev.bit ⟨R.CAL_CFG, 0, 1⟩ = false ∨ 7 ≤ 11)) ∧
    (sCal.on ∧ 16 ≤ 18 ∧ 18 < 19 ∧ sCal.dev.bit (calPending 18) = true ∧ sCal.dev.cal.running.contains 18 = false ∧ sCal.dev.paused =
      false ∧ sCal.dev.cal.running.any (calExcludes 18) = false) ∧
    (sCalRun.on ∧ 16 ≤ 18 ∧ 18 < 19 ∧ sCalRun.dev.cal.running.contains 18 = true) ∧
    (sStoreW.on ∧ sStoreW.dev.cal.writing = true ∧ sStoreW.dev.cove.flashUp = true ∧ (storeBytes sStoreW.nv.fuses.deviceId (nextSeq
      (sStoreW.nv.storeSeq 0) (sStoreW.nv.storeSeq 1)) [[(1 : Byte), (2 : Byte)]]).length ≤ storeSize) ∧
    (sBist0.on ∧ sBist0.dev.cove.bist = some (16383, 0) ∧ sBist0.dev.closeRest.pipeEmpty = true) ∧
    (sBist1.on ∧ sBist1.dev.cove.bist = some (16383, 1)) ∧
    (sPace.on ∧ sPace.dev.bit ⟨R.GLB_PACE_CTRL, 0, 1⟩ = true) := by
  decide +kernel

theorem test_CameraLanesTrain_witness1 :
    (sCam1.on ∧ 15 < sCam1.dev.variant.ports ∧ 4 < 5 ∧ linkOf (sCam1.dev.laneSyms 15 4 (lm 10 0 3 1 0 1)).fst = some (msg 10 0 3 1 0 1) ∧
      (msg 10 0 3 1 0 1).ty = 10 ∧ sCam1.dev.portState 15 = 1 ∧ (4 = 0 ∨ 4 = 4) ∧ sCam1.dev.fld ⟨R.CAM_CFG 15, 1, 2⟩ ≤ BitVec.toNat (msg
      10 0 3 1 0 1).a0) ∧
    (sRate0.on ∧ 15 < sRate0.dev.variant.ports ∧ 4 < 5 ∧ linkOf (sRate0.dev.laneSyms 15 4 (lm 10 0 0 1 0 1)).fst = some (msg 10 0 0 1 0
      1) ∧ (msg 10 0 0 1 0 1).ty = 10 ∧ sRate0.dev.portState 15 = 1 ∧ (4 = 0 ∨ 4 = 4) ∧ BitVec.toNat (msg 10 0 0 1 0 1).a0 <
      sRate0.dev.fld ⟨R.CAM_CFG 15, 1, 2⟩) ∧
    (sCam1.on ∧ 15 < sCam1.dev.variant.ports ∧ 4 < 5 ∧ linkOf (sCam1.dev.laneSyms 15 4 badSet).fst = none ∧ (sCam1.dev.laneSyms 15 4
      badSet).fst ≠ [] ∧ (((sCam1.dev.laneSyms 15 4 badSet).snd.laneBusy 15 4 (sCam1.dev.laneSyms 15 4 badSet).fst.length).lane 15
      4).viol.length < 8) ∧
    (sCam1.on ∧ 15 < sCam1.dev.variant.ports ∧ 4 < 5 ∧ sCam1.dev.portState 15 = 1) ∧
    (sCam2.on ∧ 15 < sCam2.dev.variant.ports ∧ 0 < 5 ∧ linkOf (sCam2.dev.laneSyms 15 0 (lm 2 0 0 1 0 1)).fst = some (msg 2 0 0 1 0 1) ∧
      (msg 2 0 0 1 0 1).ty = 2 ∧ sCam2.dev.portState 15 = 2) ∧
    (sCam3.on ∧ 15 < sCam3.dev.variant.ports ∧ 0 < 5 ∧ sCam3.dev.portState 15 = 3 ∧ (sCam3.dev.cport 15).relock = false) ∧
    (sCam4.on ∧ 15 < sCam4.dev.variant.ports ∧ 0 < 5 ∧ sCam4.dev.portState 15 = 3 ∧ (sCam4.dev.cport 15).relock = true ∧ (∀ (i : Nat), i
      ∈ sCam4.dev.lanesUsed 15 → [0, 1, 2, 3].contains i = true)) := by
  decide +kernel

theorem test_CameraLanesTrain_witness2 :
    (sCam 4 (laneSet laneAsked)).on ∧ 15 < (sCam 4 (laneSet laneAsked)).dev.variant.ports ∧ 3 < 5 ∧ (linkOf ((sCam 4 (laneSet
      laneAsked)).dev.laneSyms 15 3 (lm 3 3 7 15 0 255)).fst = some (msg 3 3 7 15 0 255) ∧ (msg 3 3 7 15 0 255).ty = 2 ∨ linkOf ((sCam 4
      (laneSet laneAsked)).dev.laneSyms 15 3 (lm 3 3 7 15 0 255)).fst = some (msg 3 3 7 15 0 255) ∧ (msg 3 3 7 15 0 255).ty = 3) ∧ ((sCam
      4 (laneSet laneAsked)).dev.portState 15 = 4 ∨ (sCam 4 (laneSet laneAsked)).dev.portState 15 = 7) ∧ (msg 3 3 7 15 0 255).code = 3 ∧
      ((((sCam 4 (laneSet laneAsked)).dev.laneSyms 15 3 (lm 3 3 7 15 0 255)).snd.laneBusy 15 3 ((sCam 4 (laneSet laneAsked)).dev.laneSyms
      15 3 (lm 3 3 7 15 0 255)).fst.length).lane 15 3).viol.length < 8 ∧ ((sCam 4 (laneSet laneAsked)).dev.lane 15 3).sweep = Sweep.asked
      7 15 (BitVec.toNat (msg 3 3 7 15 0 255).seq) 3 := by
  decide +kernel

theorem test_CameraLanesTrain_witness3 :
    ((sCam 4 (laneSet laneLast)).on ∧ 15 < (sCam 4 (laneSet laneLast)).dev.variant.ports ∧ 3 < 5 ∧ (linkOf ((sCam 4 (laneSet
      laneLast)).dev.laneSyms 15 3 (lm 3 3 7 15 0 255)).fst = some (msg 3 3 7 15 0 255) ∧ (msg 3 3 7 15 0 255).ty = 2 ∨ linkOf ((sCam 4
      (laneSet laneLast)).dev.laneSyms 15 3 (lm 3 3 7 15 0 255)).fst = some (msg 3 3 7 15 0 255) ∧ (msg 3 3 7 15 0 255).ty = 3) ∧ ((sCam
      4 (laneSet laneLast)).dev.portState 15 = 4 ∨ (sCam 4 (laneSet laneLast)).dev.portState 15 = 7) ∧ (msg 3 3 7 15 0 255).code = 3 ∧
      ((((sCam 4 (laneSet laneLast)).dev.laneSyms 15 3 (lm 3 3 7 15 0 255)).snd.laneBusy 15 3 ((sCam 4 (laneSet laneLast)).dev.laneSyms
      15 3 (lm 3 3 7 15 0 255)).fst.length).lane 15 3).viol.length < 8 ∧ ((sCam 4 (laneSet laneLast)).dev.lane 15 3).sweep = Sweep.last 7
      15 (BitVec.toNat (msg 3 3 7 15 0 255).seq) 3) ∧
    ((sCam 4 (laneSet laneAsked2)).on ∧ 15 < (sCam 4 (laneSet laneAsked2)).dev.variant.ports ∧ 3 < 5 ∧ ((sCam 4 (laneSet
      laneAsked2)).dev.lane 15 3).sweep = Sweep.asked 7 15 255 2 ∧ 2 < 3) ∧
    ((sCam 4 (laneSet laneAsked)).on ∧ 15 < (sCam 4 (laneSet laneAsked)).dev.variant.ports ∧ 3 < 5 ∧ ((sCam 4 (laneSet
      laneAsked)).dev.lane 15 3).sweep = Sweep.asked 7 15 255 3 ∧ 3 ≤ 3) := by
  decide +kernel

theorem test_CameraLanesTrain_witness4 :
    ((sCam 4 (laneSet laneDwell)).on ∧ 15 < (sCam 4 (laneSet laneDwell)).dev.variant.ports ∧ 3 < 5 ∧ ((sCam 4 (laneSet
      laneDwell)).dev.lane 15 3).sweep = Sweep.dwell 7 14 3 4 ∧ nextPoint ((sCam 4 (laneSet laneDwell)).dev.lane 15 3).naks 129 (7 * 16 +
      14 + 1) = some (7, 15)) ∧
    (sCam5.on ∧ 15 < sCam5.dev.variant.ports ∧ 3 < 5 ∧ sCam5.dev.portState 15 = 4 ∧ (∀ (i : Nat), i ∈ sCam5.dev.lanesThere 15 →
      (sCam5.dev.lane 15 i).works = true ∧ (sCam5.dev.lane 15 i).sweep.over = true)) := by
  decide +kernel

theorem test_CameraLanesTrain_witness5 :
    sCam6.on ∧ 15 < sCam6.dev.variant.ports ∧ 3 < 5 ∧ linkOf (sCam6.dev.laneSyms 15 3 (lm 5 0 4 16 50 0)).fst = some (msg 5 0 4 16 50 0)
      ∧ (msg 5 0 4 16 50 0).ty = 5 ∧ sCam6.dev.portState 15 = 5 ∧ (sCam6.dev.lanesUsed 15).contains 3 = true ∧ BitVec.toNat (msg 5 0 4 16
      50 0).a0 = (sCam6.dev.lanesUsed 15).length ∧ BitVec.toNat (msg 5 0 4 16 50 0).a1 = (if 0 < (sCam6.dev.lanesUsed 15).length then
      (sCam6.dev.lanesUsed 15).getD 0 0 else 0) + 16 * (if 1 < (sCam6.dev.lanesUsed 15).length then (sCam6.dev.lanesUsed 15).getD 1 0
      else 0) ∧ BitVec.toNat (msg 5 0 4 16 50 0).a2 = (if 2 < (sCam6.dev.lanesUsed 15).length then (sCam6.dev.lanesUsed 15).getD 2 0 else
      0) + 16 * (if 3 < (sCam6.dev.lanesUsed 15).length then (sCam6.dev.lanesUsed 15).getD 3 0 else 0) ∧ (((sCam6.dev.laneSyms 15 3 (lm 5
      0 4 16 50 0)).snd.laneBusy 15 3 (sCam6.dev.laneSyms 15 3 (lm 5 0 4 16 50 0)).fst.length).lane 15 3).viol.length < 8 := by
  decide +kernel

theorem test_CameraLanesTrain_witness6 :
    (sCam7.on ∧ 15 < sCam7.dev.variant.ports ∧ 3 < 5 ∧ linkOf (sCam7.dev.laneSyms 15 3 (lm 5 0 4 16 50 0)).fst = some (msg 5 0 4 16 50 0)
      ∧ (msg 5 0 4 16 50 0).ty = 5 ∧ sCam7.dev.portState 15 = 5 ∧ (sCam7.dev.lanesUsed 15).contains 3 = true ∧ BitVec.toNat (msg 5 0 4 16
      50 0).a0 = (sCam7.dev.lanesUsed 15).length ∧ BitVec.toNat (msg 5 0 4 16 50 0).a1 = (if 0 < (sCam7.dev.lanesUsed 15).length then
      (sCam7.dev.lanesUsed 15).getD 0 0 else 0) + 16 * (if 1 < (sCam7.dev.lanesUsed 15).length then (sCam7.dev.lanesUsed 15).getD 1 0
      else 0) ∧ BitVec.toNat (msg 5 0 4 16 50 0).a2 = (if 2 < (sCam7.dev.lanesUsed 15).length then (sCam7.dev.lanesUsed 15).getD 2 0 else
      0) + 16 * (if 3 < (sCam7.dev.lanesUsed 15).length then (sCam7.dev.lanesUsed 15).getD 3 0 else 0) ∧ (((sCam7.dev.laneSyms 15 3 (lm 5
      0 4 16 50 0)).snd.laneBusy 15 3 (sCam7.dev.laneSyms 15 3 (lm 5 0 4 16 50 0)).fst.length).lane 15 3).viol.length < 8) ∧
    (sCam8.on ∧ 15 < sCam8.dev.variant.ports ∧ 3 < 5 ∧ sCam8.dev.portState 15 = 5 ∧ (sCam8.dev.cport 15).dones < 8) ∧
    (sCam9.on ∧ 15 < sCam9.dev.variant.ports ∧ 3 < 5 ∧ sCam9.dev.portState 15 = 5 ∧ 8 ≤ (sCam9.dev.cport 15).dones) := by
  decide +kernel

theorem test_CameraLanesTrain_witness7 :
    ((sCam 6 (laneSet laneMark)).on ∧ 15 < (sCam 6 (laneSet laneMark)).dev.variant.ports ∧ 3 < 5 ∧ ((sCam 6 (laneSet
      laneMark)).dev.portState 15 = 6 ∨ (sCam 6 (laneSet laneMark)).dev.portState 15 = 7) ∧ mark 85 0 170 = [nth (mark 85 0 170) 0, nth
      (mark 85 0 170) 1, nth (mark 85 0 170) 2, nth (mark 85 0 170) 3] ∧ ((sCam 6 (laneSet laneMark)).dev.laneSyms 15 3 (mark 85 0
      170)).fst = [Sym.ctl kMarker, Sym.data (85 : Byte), Sym.data (0 : Byte), Sym.data (170 : Byte)] ∧ (170 : Byte) = ~~~((85 : Byte)
      ^^^ (0 : Byte)) ∧ ((sCam 6 (laneSet laneMark)).dev.lane 15 3).marker = some (255, 100) ∧ (0 : Byte).toNat = (255 + 1) % 256 ∧ (3 =
      4 → ((sCam 6 (laneSet laneMark)).dev.laneSyms 15 3 (mark 85 0 170)).snd.copyByte 15 ((85 : Byte).toNat) = true)) ∧
    (sCam10.on ∧ 15 < sCam10.dev.variant.ports ∧ 4 < 5 ∧ (sCam10.dev.portState 15 = 6 ∨ sCam10.dev.portState 15 = 7) ∧ mark 16 0 239 =
      [nth (mark 16 0 239) 0, nth (mark 16 0 239) 1, nth (mark 16 0 239) 2, nth (mark 16 0 239) 3] ∧ (sCam10.dev.laneSyms 15 4 (mark 16 0
      239)).fst = [Sym.ctl kMarker, Sym.data (16 : Byte), Sym.data (0 : Byte), Sym.data (239 : Byte)] ∧ (239 : Byte) = ~~~((16 : Byte)
      ^^^ (0 : Byte)) ∧ (sCam10.dev.lane 15 4).marker = none ∧ (4 = 4 → (sCam10.dev.laneSyms 15 4 (mark 16 0 239)).snd.copyByte 15
      ((16 : Byte).toNat) = true)) := by
  decide +kernel

theorem test_CameraLanesTrain_witness8 :
    ((sCam 7 (laneSet laneMark)).on ∧ 15 < (sCam 7 (laneSet laneMark)).dev.variant.ports ∧ 3 < 5 ∧ ((sCam 7 (laneSet
      laneMark)).dev.portState 15 = 6 ∨ (sCam 7 (laneSet laneMark)).dev.portState 15 = 7) ∧ mark 85 0 171 = [nth (mark 85 0 171) 0, nth
      (mark 85 0 171) 1, nth (mark 85 0 171) 2, nth (mark 85 0 171) 3] ∧ ((sCam 7 (laneSet laneMark)).dev.laneSyms 15 3 (mark 85 0
      171)).fst = [Sym.ctl kMarker, Sym.data (85 : Byte), Sym.data (0 : Byte), Sym.data (171 : Byte)] ∧ (171 : Byte) ≠ ~~~((85 : Byte)
      ^^^ (0 : Byte))) ∧
    (sCam11.on ∧ 15 < sCam11.dev.variant.ports ∧ 3 < 5 ∧ sCam11.dev.portState 15 = 6) ∧
    (sCam12.on ∧ 15 < sCam12.dev.variant.ports ∧ 3 < 5 ∧ sCam12.dev.portState 15 = 6) ∧
    (sCam13.on ∧ 15 < sCam13.dev.variant.ports ∧ 3 < 5 ∧ idle 1 2 3 = [nth (idle 1 2 3) 0, nth (idle 1 2 3) 1, nth (idle 1 2 3) 2, nth
      (idle 1 2 3) 3] ∧ (sCam13.dev.laneSyms 15 3 (idle 1 2 3)).fst = [Sym.ctl kIdle, Sym.data (1 : Byte), Sym.data (2 : Byte), Sym.data
      (3 : Byte)] ∧ (((sCam13.dev.laneSyms 15 3 (idle 1 2 3)).snd.laneBusy 15 3 (sCam13.dev.laneSyms 15 3 (idle 1 2 3)).fst.length).lane
      15 3).viol.length < 8) := by
  decide +kernel

theorem test_CameraLanesTrain_witness9 :
    ((sCam 6 (laneSet lanePrbs)).on ∧ 15 < (sCam 6 (laneSet lanePrbs)).dev.variant.ports ∧ 3 < 5 ∧ idle 1 2 3 = [nth (idle 1 2 3) 0, nth
      (idle 1 2 3) 1, nth (idle 1 2 3) 2, nth (idle 1 2 3) 3] ∧ ((sCam 6 (laneSet lanePrbs)).dev.laneSyms 15 3 (idle 1 2 3)).fst =
      [Sym.ctl kIdle, Sym.data (1 : Byte), Sym.data (2 : Byte), Sym.data (3 : Byte)] ∧ ((((sCam 6 (laneSet lanePrbs)).dev.laneSyms 15 3
      (idle 1 2 3)).snd.laneBusy 15 3 ((sCam 6 (laneSet lanePrbs)).dev.laneSyms 15 3 (idle 1 2 3)).fst.length).lane 15 3).viol.length <
      8) ∧
    ((sCam 7 (laneSet laneIdle)).on ∧ 15 < (sCam 7 (laneSet laneIdle)).dev.variant.ports ∧ 3 < 5 ∧ (sCam 7 (laneSet
      laneIdle)).dev.portState 15 = 7 ∧ 256 ≤ ((sCam 7 (laneSet laneIdle)).dev.lane 15 3).idles) ∧
    ((sCam 7 (laneSet laneBusy1)).on ∧ 15 < (sCam 7 (laneSet laneBusy1)).dev.variant.ports ∧ 3 < 5 ∧ 64 ≤ ((sCam 7 (laneSet
      laneBusy1)).dev.lane 15 3).busy) := by
  decide +kernel

theorem test_CameraLanesTrain_witness10 :
    (sCam10.on ∧ 15 < sCam10.dev.variant.ports ∧ 3 < 5 ∧ 4 ≤ sCam10.dev.portState 15 ∧ sCam10.dev.portState 15 ≤ 7 ∧
      (((sCam10.dev.laneSyms 15 3 (List.replicate 8 0)).snd.laneBusy 15 3 (sCam10.dev.laneSyms 15 3 (List.replicate 8
      0)).fst.length).lane 15 3).viol.length = 8 ∧ (((sCam10.dev.laneSyms 15 3 (List.replicate 8 0)).snd.laneBusy 15 3
      (sCam10.dev.laneSyms 15 3 (List.replicate 8 0)).fst.length).lane 15 3).viol.headD 0 - (((sCam10.dev.laneSyms 15 3 (List.replicate 8
      0)).snd.laneBusy 15 3 (sCam10.dev.laneSyms 15 3 (List.replicate 8 0)).fst.length).lane 15 3).viol.getD 7 0 < 1024) ∧
    (sCam10.on ∧ 15 < sCam10.dev.variant.ports ∧ 3 < 5 ∧ (sCam10.dev.portState 15 = 6 ∨ sCam10.dev.portState 15 = 7) ∧
      (((sCam10.dev.laneSyms 15 3 []).snd.laneBusy 15 3 (sCam10.dev.laneSyms 15 3 []).fst.length).lane 15 3).viol.length < 8) ∧
    (sCam10.on ∧ 15 < sCam10.dev.variant.ports ∧ 3 < 5 ∧ sCam10.dev.portState 15 = 7 ∧ (sCam10.dev.lanesUsed 15).contains 3 = true ∧
      sCam10.dev.fld ⟨R.CAM_CTRL 15, 8, 8⟩ ≤ 40) ∧
    (sCam10.on ∧ 15 < sCam10.dev.variant.ports ∧ 3 < 5 ∧ sCam10.dev.portState 15 = 7 ∧ (sCam10.dev.lanesUsed 15).contains 3 = true ∧ 0 <
      sCam10.dev.fld ⟨R.CAM_CTRL 15, 8, 8⟩ ∧ 3 < 4 ∧ sCam10.dev.spFree 15 = true ∧ (sCam10.dev.cport 15).spWait = []) := by
  decide +kernel

theorem test_CameraLanesTrain_witness11 :
    (sCam14.on ∧ 15 < sCam14.dev.variant.ports ∧ 3 < 5 ∧ sCam14.dev.portState 15 = 7 ∧ (sCam14.dev.lanesUsed 15).contains 3 = true ∧ 0 <
      sCam14.dev.fld ⟨R.CAM_CTRL 15, 8, 8⟩ ∧ 3 < 4 ∧ sCam14.dev.spForRetrain 15 = true ∧ (sCam14.dev.spFree 15 = false ∨
      (sCam14.dev.cport 15).spWait ≠ [])) ∧
    (sCam15.on ∧ 15 < sCam15.dev.variant.ports ∧ 3 < 5 ∧ sCam15.dev.portState 15 = 7 ∧ (sCam15.dev.lanesUsed 15).contains 3 = true ∧ 0 <
      sCam15.dev.fld ⟨R.CAM_CTRL 15, 8, 8⟩ ∧ sCam15.dev.spForRetrain 15 = false) ∧
    (sRetry.on ∧ 15 < sRetry.dev.variant.ports ∧ 3 < 5 ∧ sRetry.dev.portState 15 = 10 ∧ sRetry.dev.bit ⟨R.CAM_CFG 15, 3, 1⟩ = true) ∧
    (sCam16.on ∧ 15 < sCam16.dev.variant.ports ∧ 3 < 5 ∧ (sCam16.dev.cport 15).spWait = [SpHold.retrain 3] ∧ sCam16.dev.spFree 15 = true) ∧
    (sCam17.on ∧ 15 < sCam17.dev.variant.ports ∧ 3 < 5 ∧ (sCam17.dev.cport 15).mirror = some (3, false) ∧ (sCam17.dev.lane 15 4).works =
      true ∧ 4 ≤ (sCam17.dev.cport 15).mirrorAgree) ∧
    (sCam18.on ∧ 15 < sCam18.dev.variant.ports ∧ 3 < 5 ∧ (sCam18.dev.cport 15).mirror = some (3, false) ∧ (sCam18.dev.cport
      15).mirrorAgree < 4) ∧
    (sCam19.on ∧ 15 < sCam19.dev.variant.ports ∧ 3 < 5 ∧ (sCam19.dev.cport 15).mirror = some (3, true) ∧ (sCam19.dev.cport 15).spHolder =
      some (SpHold.retrain 3) ∧ (sCam19.dev.lane 15 3).sweep.over = true) ∧
    (sIdle.on ∧ 15 < sIdle.dev.variant.ports ∧ 3 < 5 ∧ sIdle.dev.portState 15 = 7 ∧ sIdle.dev.bit ⟨R.CAM_CFG 15, 4, 1⟩ = true ∧
      sIdle.dev.still sIdle.dev.lss = true) := by
  decide +kernel

theorem test_CameraLanesTrain_witness12 :
    (sCam20.on ∧ 15 < sCam20.dev.variant.ports ∧ 3 < 5 ∧ (1 = 1 ∨ 1 = 2) ∧ linkOf (sCam20.dev.laneSyms 15 3 (lm 6 0 0 0 0 0)).fst = some
      (msg 6 0 0 0 0 0) ∧ (msg 6 0 0 0 0 0).ty = 5 + 1 ∧ sCam20.dev.portState 15 = 7 ∧ (sCam20.dev.cport 15).lpAsked = some 1 ∧
      (sCam20.dev.cport 15).lpExit = false) ∧
    (sCam21.on ∧ 15 < sCam21.dev.variant.ports ∧ 3 < 5 ∧ (2 = 1 ∨ 2 = 2) ∧ linkOf (sCam21.dev.laneSyms 15 3 (lm 7 0 0 0 0 0)).fst = some
      (msg 7 0 0 0 0 0) ∧ (msg 7 0 0 0 0 0).ty = 5 + 2 ∧ sCam21.dev.portState 15 = 7 ∧ (sCam21.dev.cport 15).lpAsked = some 2 ∧
      (sCam21.dev.cport 15).lpExit = false) ∧
    (sCam22.on ∧ 15 < sCam22.dev.variant.ports ∧ 3 < 5 ∧ sCam22.dev.portState 15 = 8) ∧
    (sCam23.on ∧ 15 < sCam23.dev.variant.ports ∧ 3 < 5 ∧ sCam23.dev.portState 15 = 9) := by
  decide +kernel

theorem test_PacketsAndTheirTimersAct_witness1 :
    (sVc24.on ∧ 15 < sVc24.dev.variant.ports ∧ sVc24.dev.hears 15) ∧
    (sCam22.on ∧ 15 < sCam22.dev.variant.ports ∧ ¬sCam22.dev.hears 15) ∧
    (sVc24.on ∧ 15 < sVc24.dev.variant.ports ∧ (sVc24.dev.streamOf 15 (sent 0 pk1)).snd.portState 15 = 7 ∧ ((sVc24.dev.streamOf 15 (sent
      0 pk1)).snd.cport 15).part = none ∧ pk1.bytes.length ≤ 8206 ∧ (sVc24.dev.streamOf 15 (sent 0 pk1)).fst = List.replicate 0 (Sym.data
      (0 : Byte)) ++ pk1.symbols) ∧
    (sVc24.on ∧ 15 < sVc24.dev.variant.ports ∧ (sVc24.dev.streamOf 15 (sent 7 pk2)).snd.portState 15 = 7 ∧ ((sVc24.dev.streamOf 15 (sent
      7 pk2)).snd.cport 15).part = none ∧ pk2.bytes.length ≤ 8206 ∧ (sVc24.dev.streamOf 15 (sent 7 pk2)).fst = List.replicate 7 (Sym.data
      (0 : Byte)) ++ pk2.symbols) ∧
    (sVc24.on ∧ 15 < sVc24.dev.variant.ports ∧ pk1.framed = true ∧ pk1.dt = 1 ∧ pk1.hdrOk = true ∧ lenRule 1 pk1.len pk1.payload = true ∧
      pk1.payOk = true ∧ sVc24.dev.discards = false ∧ sVc24.dev.vcListens 15 pk1.vc = true) := by
  decide +kernel

theorem test_PacketsAndTheirTimersAct_witness2 :
    ((sVc xLine).on ∧ 15 < (sVc xLine).dev.variant.ports ∧ pk2.framed = true ∧ pk2.dt = 16 + (sVc xLine).dev.ctxFormat ((sVc
      xLine).dev.vcCtx 15 pk2.vc) ∧ pk2.hdrOk = true ∧ lenRule (16 + (sVc xLine).dev.ctxFormat ((sVc xLine).dev.vcCtx 15 pk2.vc)) pk2.len
      pk2.payload = true ∧ pk2.payOk = true ∧ (sVc xLine).dev.discards = false ∧ (sVc xLine).dev.vcListens 15 pk2.vc = true ∧ ((((sVc
      xLine).dev.vcSeen 15 pk2.vc).vcSeq 15 pk2.vc pk2.seq).vcRx 15 pk2.vc).line = some line1 ∧ line1.end_ ≤ pk2.offset) ∧
    ((sVc xLine).on ∧ 15 < (sVc xLine).dev.variant.ports ∧ pk3.framed = true ∧ pk3.dt = 16 + (sVc xLine).dev.ctxFormat ((sVc
      xLine).dev.vcCtx 15 pk3.vc) ∧ pk3.hdrOk = true ∧ lenRule (16 + (sVc xLine).dev.ctxFormat ((sVc xLine).dev.vcCtx 15 pk3.vc)) pk3.len
      pk3.payload = true ∧ pk3.payOk = true ∧ (sVc xLine).dev.discards = false ∧ (sVc xLine).dev.vcListens 15 pk3.vc = true ∧ ((((sVc
      xLine).dev.vcSeen 15 pk3.vc).vcSeq 15 pk3.vc pk3.seq).vcRx 15 pk3.vc).line = some line1 ∧ pk3.offset < line1.end_) ∧
    ((sVc xLine).on ∧ 15 < (sVc xLine).dev.variant.ports ∧ pk4.framed = true ∧ pk4.dt = 2 ∧ pk4.hdrOk = true ∧ lenRule 2 pk4.len
      pk4.payload = true ∧ pk4.payOk = true ∧ (sVc xLine).dev.discards = false ∧ (sVc xLine).dev.vcListens 15 pk4.vc = true ∧ ((((sVc
      xLine).dev.vcSeen 15 pk4.vc).vcSeq 15 pk4.vc pk4.seq).vcRx 15 pk4.vc).line = some line1) := by
  decide +kernel

theorem test_PacketsAndTheirTimersAct_witness3 :
    ((sVc xLine).on ∧ 15 < (sVc xLine).dev.variant.ports ∧ pk5.framed = true ∧ pk5.dt = 32 ∧ pk5.hdrOk = true ∧ lenRule 32 pk5.len
      pk5.payload = true ∧ pk5.payOk = true) ∧
    ((sVc xLine).on ∧ 15 < (sVc xLine).dev.variant.ports ∧ pk6.framed = true ∧ pk6.dt = 63 ∧ pk6.hdrOk = true ∧ lenRule 63 pk6.len
      pk6.payload = true ∧ pk6.payOk = true) ∧
    (sVc25.on ∧ 15 < sVc25.dev.variant.ports ∧ pk7.framed = true ∧ pk7.dt = 48 ∧ pk7.hdrOk = true ∧ lenRule 48 pk7.len pk7.payload = true
      ∧ pk7.payOk = true ∧ (sVc25.dev.cport 15).bc = [bcA 0] ∧ (bcA 0).sent = true ∧ pk7.seq = (bcA 0).tag ∧ (fieldAt pk7.payload 0 2 = 3
      → (bcA 0).use.disc = false)) ∧
    ((sVc xLine).on ∧ 15 < (sVc xLine).dev.variant.ports ∧ 3 < 4 ∧ ((sVc xLine).dev.vcRx 15 3).line = some line1) ∧
    ((sVc xLine).on ∧ 15 < (sVc xLine).dev.variant.ports ∧ 3 < 4 ∧ ((sVc xLine).dev.vcRx 15 3).line = some line1 ∧ line1.slot = none) ∧
    (sVc26.on ∧ 15 < sVc26.dev.variant.ports ∧ (sVc26.dev.cport 15).bc = [bcA 2] ∧ (bcA 2).sent = true ∧ (bcA 2).resends < 3) ∧
    (sVc27.on ∧ 15 < sVc27.dev.variant.ports ∧ (sVc27.dev.cport 15).bc = [bcA 3] ∧ (bcA 3).sent = true ∧ 3 ≤ (bcA 3).resends) ∧
    (sVc24.on ∧ 15 < sVc24.dev.variant.ports ∧ (sVc26.dev.cport 15).bc = [bcA 2]) := by
  decide +kernel

theorem test_PacketsAndTheirTimersAct_witness4 :
    (sWaitE.on ∧ 15 < sWaitE.dev.variant.ports ∧ 31 < sWaitE.dev.variant.contexts ∧ sWaitE.dev.ctxEn 31 = true ∧ sWaitE.dev.ctxDark 31 =
      false ∧ (sWaitE.dev.ctxRx 31).e = some 4294967295 ∧ (BitVec.toNat (sWaitE.dev.reg (R.TDL_TRIGn_COUNT (sWaitE.dev.ctxTrig 31))) + 2
      ^ 32 - 4294967295) % 2 ^ 32 < 2 ^ 31) ∧
    (sResync.on ∧ 15 < sResync.dev.variant.ports ∧ 31 < sResync.dev.variant.contexts ∧ 0 < sResync.dev.fld ⟨R.CTX_MATCH_CFG 31, 16, 8⟩ ∧
      sResync.dev.fld ⟨R.CTX_MATCH_CFG 31, 16, 8⟩ ≤ (sResync.dev.ctxRx 31).orphans) := by
  decide +kernel

theorem test_StripesPassTheStrandAndTheSeam_witness1 :
    (sEntry.on ∧ sEntry.dev.memFrozen = false ∧ 3 < 4 ∧ tget noneAt sEntry.dev.str.now 3 = none ∧ sEntry.dev.stripeNext 3 = some stripeP
      ∧ (sEntry.dev.stripeStart 3).memFrozen = false) ∧
    (sBusyS.on ∧ sBusyS.dev.memFrozen = false ∧ 3 < 4 ∧ tget noneAt sBusyS.dev.str.now 3 = some stripe1 ∧ (sBusyS.dev.stripeEnd 3 [] []
      [] false).memFrozen = false) ∧
    (sBusy1.on ∧ sBusy1.dev.memFrozen = false ∧ 0 < 4 ∧ (sBusy1.dev.stripeEnd 0 [] [] [] true).memFrozen = true) ∧
    (sFlush.on ∧ sFlush.dev.memFrozen = false ∧ sFlush.dev.ctxEn 31 = true ∧ sFlush.dev.fld ⟨R.CTX_MATCH_CFG 31, 24, 8⟩ ≠ 0 ∧
      (sFlush.dev.flushFront 31).getLast? = some entry1 ∧ (sFlush.dev.flush 31).memFrozen = false) ∧
    (sFrz.on ∧ sFrz.dev.memFrozen = false ∧ sFrz.dev.ctxEn 31 = true ∧ sFrz.dev.ctxRuns 31 = true ∧ sFrz.dev.actFld ⟨R.CORR_CFG 31, 6, 1⟩
      = 1 ∧ 5 < sFrz.dev.outW 31 ∧ (sFrz.dev.remapOf 31 (sFrz.dev.readTables 31).fst.remap 5).isSome = true ∧ trkF.acquire = false ∧
      (tget colInit (sFrz.dev.ctxStr 31).cols 5).uninit = false ∧ trkF.frozen = false ∧ trkF.max_ ≠ 0 ∧ 0 < (tget colInit
      (sFrz.dev.ctxStr 31).cols 5).hold ∧ trkF.max_ ≤ min ((tget colInit (sFrz.dev.ctxStr 31).cols 5).run + 1) 1048575) := by
  decide +kernel

theorem test_StripesPassTheStrandAndTheSeam_witness2 :
    (sDel.on ∧ sDel.dev.memFrozen = false ∧ sDel.dev.ctxEn 31 = true ∧ sDel.dev.mosEn (sDel.dev.ctxMosaic 31) = true ∧ tget (fun _ => [])
      sDel.dev.str.outs 31 = [outl (62 : Int), outl (63 : Int)] ∧ sDel.dev.seamStalled (sDel.dev.ctxMosaic 31) ((outl (62 : Int)).k /
      (64 : Int)) = false ∧ sDel.dev.slotHolder (sDel.dev.ctxMosaic 31) ((outl (62 : Int)).k / (64 : Int)) = none ∧ (outl (62 : Int)).row
      ≠ 63 ∧ (outl (62 : Int)).flush = false) ∧
    (sPend.on ∧ sPend.dev.memFrozen = false ∧ sPend.dev.mosEn 3 = true ∧ ((sPend.dev.seamMos 3).pendOf (-1 : Int)).timer = some 0 ∧
      ((sPend.dev.seamMos 3).pendOf (-1 : Int)).expired = false ∧ (sPend.dev.memberLate 3 (-1 : Int)).memFrozen = false) ∧
    (sBlind.on ∧ sBlind.dev.memFrozen = false ∧ sBlind.dev.mosEn (sBlind.dev.ctxMosaic 31) = true ∧ sBlind.dev.ctxEn 31 = true ∧
      (sBlind.dev.ctxDark 31 = true ∨ sBlind.dev.blindN (sBlind.dev.ctxMosaic 31) ≠ 0 ∧ sBlind.dev.blindN (sBlind.dev.ctxMosaic 31) ≤
      tget (fun _ => 0) (sBlind.dev.seamMos (sBlind.dev.ctxMosaic 31)).runs 31) ∧ ((sBlind.dev.goBlind (sBlind.dev.ctxMosaic 31)
      31).seamGo (sBlind.dev.ctxMosaic 31)).memFrozen = false) ∧
    (sPend.on ∧ sPend.dev.memFrozen = false ∧ sPend.dev.mosEn 3 = true ∧ (sPend.dev.seamGo 3).memFrozen = false) := by
  decide +kernel

theorem test_LodeAndAssayWork_witness1 :
    (sItem.on ∧ sItem.dev.memFrozen = false ∧ sItem.dev.engineBand 0 = some (3, 0) ∧ List.find? (fun it => (tget noneAt it.done
      0).isNone) (sItem.dev.lodeMos 3).items = some item1 ∧ (sItem.dev.unitLabelled 0).memFrozen = false) ∧
    (sSettle.on ∧ sSettle.dev.memFrozen = false ∧ sSettle.dev.mosEn 3 = true ∧ (sSettle.dev.lodeMos 3).items = [item2] ∧
      sSettle.dev.labelled 3 item2 = true ∧ (sSettle.dev.settle 3 false).memFrozen = false) ∧
    (sCut.on ∧ sCut.dev.memFrozen = false ∧ sCut.dev.mosEn 3 = true ∧ maxMdLines (sCut.dev.judgedBy 3) ≠ 0 ∧ List.filter (fun t => decide
      (maxMdLines (sCut.dev.judgedBy 3) ≤ t.acc.lines)) (sCut.dev.openTracks 3) = [track1] ∧ sCut.dev.trackOf track1.q = some track1 ∧
      (sCut.dev.cut track1).memFrozen = false) ∧
    (sStill.on ∧ sStill.dev.memFrozen = false ∧ sStill.dev.mosEn 3 = true ∧ sStill.dev.actFld ⟨R.LODE_STILL_CLOSE 3, 0, 16⟩ ≠ 0 ∧
      (sStill.dev.lodeMos 3).lastHand = some 1 ∧ (sStill.dev.lodeMos 3).items = [] ∧ (sStill.dev.stillEnd 3).memFrozen = false ∧
      (sStill.dev.expire 1 (sStill.dev.actFld ⟨R.LODE_STILL_CLOSE 3, 0, 16⟩ * 1000000)).openTracks 3 ≠ []) ∧
    ((sJob false).on ∧ (sJob false).dev.memFrozen = false ∧ (sJob false).dev.variant.assay = true ∧ ((sJob false).dev.asyJobs 3)[0]? =
      some (job1 false) ∧ (sJob false).dev.jobReady 3 (job1 false) = false ∧ ((sJob false).dev.padEnd 3 0).memFrozen = false) := by
  decide +kernel

theorem test_LodeAndAssayWork_witness2 :
    (sJobLate.on ∧ sJobLate.dev.memFrozen = false ∧ sJobLate.dev.variant.assay = true ∧ sJobLate.dev.asy.run = none ∧
      sJobLate.dev.nextJob = some (3, 0, job1 true) ∧ (sJobLate.dev.keepMax ⟨R.ASY_WAIT_MAX, 0, 24⟩ ((sJobLate.dev.now2 - (job1
      true).queueT) / 1000)).jobLeave 3 0 (job1 true) = (true, dLate.snd.fst, dLate.snd.snd) ∧ dLate.snd.snd.deadline ≤
      dLate.snd.snd.now2 - (job1 true).queueT ∧ (dLate.snd.snd.unassayed (job1 true).summ 3 1 (job1 true).padded dLate.snd.fst).memFrozen
      = false) ∧
    ((sJob true).on ∧ (sJob true).dev.memFrozen = false ∧ (sJob true).dev.variant.assay = true ∧ (sJob true).dev.asy.run = none ∧ (sJob
      true).dev.nextJob = some (3, 0, job1 true) ∧ ((sJob true).dev.keepMax ⟨R.ASY_WAIT_MAX, 0, 24⟩ (((sJob true).dev.now2 - (job1
      true).queueT) / 1000)).jobLeave 3 0 (job1 true) = (true, dTake.snd.fst, dTake.snd.snd) ∧ dTake.snd.snd.now2 - (job1 true).queueT <
      dTake.snd.snd.deadline ∧ dTake.snd.snd.bit (asyCommit 3) = false ∧ dTake.snd.snd.asyNet (dTake.snd.snd.asyFld 3 1 2) = some net0 ∧
      dTake.snd.snd.patchRead (netN net0.blob) (job1 true).padded (dTake.snd.snd.jobFields 3 (job1 true) net0) = (dPat.fst, PatchEnd.ok,
      dPat.snd.snd) ∧ dPat.snd.snd.memFrozen = false) ∧
    ((sRunA true).on ∧ (sRunA true).dev.memFrozen = false ∧ (sRunA true).dev.variant.assay = true ∧ (sRunA true).dev.asy.run = some (run1
      true) ∧ (run1 true).late = true) := by
  decide +kernel

theorem test_LodeAndAssayWork_witness3 :
    ((sRunA false).on ∧ (sRunA false).dev.memFrozen = false ∧ (sRunA false).dev.variant.assay = true ∧ (sRunA false).dev.asy.run = some
      (run1 false) ∧ (run1 false).late = false ∧ (run1 false).keeps = false ∧ (sRunA false).dev.asyResult.memFrozen = false) ∧
    ((sRunA false).on ∧ (sRunA false).dev.memFrozen = false ∧ (sRunA false).dev.variant.assay = true ∧ (sRunA false).dev.asy.run = some
      (run1 false) ∧ (run1 false).late = false ∧ (sRunA false).dev.oldestJob = none ∧ (sRunA false).dev.asyDeadline.memFrozen = false) ∧
    (sNet.on ∧ sNet.dev.memFrozen = false ∧ sNet.dev.variant.assay = true ∧ sNet.dev.asyNet 3 ≠ none) ∧
    (sNet.on ∧ sNet.dev.memFrozen = false ∧ sNet.dev.variant.assay = true ∧ 3 < 4 ∧ sNet.dev.asyNet 3 ≠ none ∧ (sNet.dev.sramErr
      3).memFrozen = false) ∧
    (sReload.on ∧ sReload.dev.memFrozen = false ∧ sReload.dev.variant.assay = true ∧ 3 < 4 ∧ sReload.dev.asyNet 3 = some aNet ∧
      sReload.dev.bit (slotReloading 3) = true ∧ sReload.dev.memRead 4 (sReload.dev.netPlace 3) aNet.blob.length = ((sReload.dev.memRead
      4 (sReload.dev.netPlace 3) 2048).fst, false, (sReload.dev.memRead 4 (sReload.dev.netPlace 3) 2048).snd.snd) ∧ (sReload.dev.memRead
      4 (sReload.dev.netPlace 3) 2048).snd.snd.memFrozen = false) := by
  decide +kernel

theorem test_TidelineInputsAct_witness1 :
    ((sEncM 1).on ∧ 3 < 4 ∧ (sEncM 1).dev.encTakes 3 1 = true ∧ (sEncM 1).dev.bit (encB 3) = !true ∧ (if (sEncM 1).dev.bit
      ⟨R.TDL_ENCn_CFG 3, 5, 1⟩ = true then -edgeCount ((sEncM 1).dev.encMode 3) true true ((sEncM 1).dev.bit (encA 3)) else edgeCount
      ((sEncM 1).dev.encMode 3) true true ((sEncM 1).dev.bit (encA 3))) = (0 : Int)) ∧
    (sEnc.on ∧ 3 < 4 ∧ sEnc.dev.encTakes 3 0 = true ∧ sEnc.dev.bit (encA 3) = !true ∧ (if sEnc.dev.bit ⟨R.TDL_ENCn_CFG 3, 5, 1⟩ = true
      then -edgeCount (sEnc.dev.encMode 3) false true (sEnc.dev.bit (encB 3)) else edgeCount (sEnc.dev.encMode 3) false true
      (sEnc.dev.bit (encB 3))) ≠ (0 : Int)) ∧
    (sEnc.on ∧ 3 < 4 ∧ sEnc.dev.encTakes 3 0 = true ∧ (if 100 ≤ 212 then 212 - 100 else 100 - 212) + 8 ≤ sEnc.dev.illT 3) ∧
    (sEnc.on ∧ 3 < 4 ∧ sEnc.dev.tdlEn = true ∧ sEnc.dev.bit ⟨R.TDL_ENCn_CFG 3, 0, 1⟩ = true ∧ sEnc.dev.bit ⟨R.TDL_ENCn_CFG 3, 1, 1⟩ =
      false ∧ ¬2 ∈ (sEnc.dev.encIn 3).faults) ∧
    (sEncF.on ∧ 3 < 4 ∧ 2 ∈ (sEncF.dev.encIn 3).faults) ∧
    (sEnc.on ∧ 3 < 4 ∧ sEnc.dev.encTakes 3 2 = true ∧ sEnc.dev.bit (encZ 3) = !true) ∧
    ((sHall 1).on ∧ (sHall 1).dev.tdlEn = true ∧ (sHall 1).dev.bit ⟨R.TDL_HALL_CFG, 0, 1⟩ = true ∧ (sHall 1).dev.fld
      ⟨R.TDL_HALL_STATUS, 0, 3⟩ ≠ 4 + 2 + 1 ∧ hallIndex (4 + 2 + 1) = none) := by
  decide +kernel

theorem test_TidelineInputsAct_witness2 :
    ((sHall 7).on ∧ (sHall 7).dev.tdlEn = true ∧ (sHall 7).dev.bit ⟨R.TDL_HALL_CFG, 0, 1⟩ = true ∧ (sHall 7).dev.fld
      ⟨R.TDL_HALL_STATUS, 0, 3⟩ ≠ 0 + 0 + 1 ∧ hallIndex ((sHall 7).dev.fld ⟨R.TDL_HALL_STATUS, 0, 3⟩) = none ∧ hallIndex (0 + 0 + 1) ≠
      none) ∧
    ((sHall 5).on ∧ (sHall 5).dev.tdlEn = true ∧ (sHall 5).dev.bit ⟨R.TDL_HALL_CFG, 0, 1⟩ = true ∧ (sHall 5).dev.fld
      ⟨R.TDL_HALL_STATUS, 0, 3⟩ ≠ 0 + 0 + 1 ∧ hallIndex ((sHall 5).dev.fld ⟨R.TDL_HALL_STATUS, 0, 3⟩) = some 5 ∧ hallIndex (0 + 0 + 1) =
      some 0) ∧
    ((sHall 1).on ∧ (sHall 1).dev.tdlEn = true ∧ (sHall 1).dev.bit ⟨R.TDL_HALL_CFG, 0, 1⟩ = true ∧ (sHall 1).dev.fld
      ⟨R.TDL_HALL_STATUS, 0, 3⟩ ≠ 4 + 0 + 1 ∧ hallIndex ((sHall 1).dev.fld ⟨R.TDL_HALL_STATUS, 0, 3⟩) = some 0 ∧ hallIndex (4 + 0 + 1) =
      some 5) ∧
    ((sHall 1).on ∧ (sHall 1).dev.tdlEn = true ∧ (sHall 1).dev.bit ⟨R.TDL_HALL_CFG, 0, 1⟩ = true ∧ (sHall 1).dev.fld
      ⟨R.TDL_HALL_STATUS, 0, 3⟩ ≠ 4 + 2 + 0 ∧ hallIndex ((sHall 1).dev.fld ⟨R.TDL_HALL_STATUS, 0, 3⟩) = some 0 ∧ hallIndex (4 + 2 + 0) =
      some 3) ∧
    (sSsi28.on ∧ 1 < 2 ∧ sSsi28.dev.ssiOn 1 = true) ∧
    (sSsi29.on ∧ 1 < 2 ∧ sSsi29.dev.ssiOn 1 = true) := by
  decide +kernel

theorem test_TidelineInputsAct_witness3 :
    (sSsi30.on ∧ 1 < 2 ∧ (sSsi30.dev.ssiPort 1).reading = some 5 ∧ (sSsi30.dev.ssiPort 1).idle = true ∧ (sSsi30.dev.bit
      ⟨R.TDL_SSIn_CFG 1, 9, 1⟩ = true → (0 == 1) = !sSsi30.dev.bit ⟨R.TDL_SSIn_CFG 1, 10, 1⟩) ∧ (sSsi30.dev.bit ⟨R.TDL_SSIn_CFG 1, 11, 1⟩
      = true → crc6 (bitsMsb (sSsi30.dev.ssiLen 1) (ssiWord1 % 2 ^ sSsi30.dev.ssiLen 1) ++ (if sSsi30.dev.bit ⟨R.TDL_SSIn_CFG 1, 9, 1⟩ =
      true then [0 == 1] else [])) = ssiCrc % 64)) ∧
    (sSsi31.on ∧ 1 < 2 ∧ (sSsi31.dev.ssiPort 1).reading = some 5 ∧ (sSsi31.dev.ssiPort 1).idle = true ∧ (sSsi31.dev.bit
      ⟨R.TDL_SSIn_CFG 1, 9, 1⟩ = true → (0 == 1) = !sSsi31.dev.bit ⟨R.TDL_SSIn_CFG 1, 10, 1⟩) ∧ (sSsi31.dev.bit ⟨R.TDL_SSIn_CFG 1, 11, 1⟩
      = true → crc6 (bitsMsb (sSsi31.dev.ssiLen 1) (ssiWord1 % 2 ^ sSsi31.dev.ssiLen 1) ++ (if sSsi31.dev.bit ⟨R.TDL_SSIn_CFG 1, 9, 1⟩ =
      true then [0 == 1] else [])) = ssiCrc % 64)) ∧
    (sSsi30.on ∧ 1 < 2 ∧ (sSsi30.dev.ssiPort 1).reading ≠ none) ∧
    (sMove.on ∧ 7 < 8 ∧ sMove.dev.still 7 = false) ∧
    (sFireL.on ∧ 31 < 32 ∧ (sFireL.dev.cmpCh 31).sched = some sched1 ∧ ((sFireL.dev.expire ((sched1.at_ + 7) / 8) 0).unschedule 31).bit
      ⟨R.TDL_POSn_SPD_STATUS (((sFireL.dev.expire ((sched1.at_ + 7) / 8) 0).unschedule 31).cmpPos 31), 3, 1⟩ = true) := by
  decide +kernel

theorem test_TidelineInputsAct_witness4 :
    ((sFire 1).on ∧ 31 < 32 ∧ ((sFire 1).dev.cmpCh 31).sched = some sched1 ∧ (((sFire 1).dev.expire ((sched1.at_ + 7) / 8) 0).unschedule
      31).bit ⟨R.TDL_POSn_SPD_STATUS ((((sFire 1).dev.expire ((sched1.at_ + 7) / 8) 0).unschedule 31).cmpPos 31), 3, 1⟩ = false ∧
      (((sFire 1).dev.expire ((sched1.at_ + 7) / 8) 0).unschedule 31).cmpMode 31 = 1) ∧
    ((sFire 2).on ∧ 31 < 32 ∧ ((sFire 2).dev.cmpCh 31).sched = some sched1 ∧ (((sFire 2).dev.expire ((sched1.at_ + 7) / 8) 0).unschedule
      31).bit ⟨R.TDL_POSn_SPD_STATUS ((((sFire 2).dev.expire ((sched1.at_ + 7) / 8) 0).unschedule 31).cmpPos 31), 3, 1⟩ = false ∧
      (((sFire 2).dev.expire ((sched1.at_ + 7) / 8) 0).unschedule 31).cmpMode 31 ≠ 1) ∧
    (sFireT.on ∧ 31 < 32 ∧ (sFireT.dev.cmpCh 31).next = some 100 ∧ sFireT.dev.bit (cmpArmed 31) = true ∧ sFireT.dev.cmpMode 31 = 3) ∧
    (sSync.on ∧ sSync.dev.tdlEn = true ∧ sSync.dev.bit ⟨R.TDL_SYNC_CFG, 4, 1⟩ = true ∧ 63 < 64) ∧
    (sSync.on ∧ sSync.dev.tdlEn = true ∧ sSync.dev.bit ⟨R.TDL_SYNC_CFG, 4, 1⟩ = true ∧ 64 ≤ 127 ∧ 127 < 128) ∧
    (sSync.on ∧ sSync.dev.tdlEn = true ∧ sSync.dev.bit ⟨R.TDL_SYNC_CFG, 4, 1⟩ = true ∧ 64 ≤ 64 ∧ 64 < 128) ∧
    (sSync.on ∧ sSync.dev.tdlEn = true ∧ sSync.dev.bit ⟨R.TDL_SYNC_CFG, 4, 1⟩ = true ∧ 128 ≤ 128 ∧ 128 ≤ 224 ∧ sSync.dev.bit
      ⟨R.TDL_SYNC_CFG, 5, 1⟩ = false) ∧
    (sSync.on ∧ sSync.dev.tdlEn = true ∧ sSync.dev.bit ⟨R.TDL_SYNC_CFG, 4, 1⟩ = true ∧ 128 ≤ 224 ∧ 224 ≤ 224 ∧ sSync.dev.bit
      ⟨R.TDL_SYNC_CFG, 5, 1⟩ = false) := by
  decide +kernel

theorem test_TidelineInputsAct_witness5 :
    sSync.on ∧ sSync.dev.tdlEn = true ∧ sSync.dev.bit ⟨R.TDL_SYNC_CFG, 4, 1⟩ = true ∧ 224 < 225 := by
  decide +kernel

theorem test_PtpExchangesComplete_witness1 :
    ((sPtp clk1).on ∧ (wire0.port < (sPtp clk1).dev.variant.netPorts ∧ (sPtp clk1).dev.netLink wire0.port = true ∧ (wire0.lost = false ∨
      (sPtp clk1).dev.xingFull = false) ∧ (sPtp clk1).dev.netTakes wire0.port wire0 = true) ∧ ((sPtp clk1).dev.ptpClockOf 99 = none ∨
      wire0.udp ≠ (sPtp clk1).dev.ptpUdp)) ∧
    ((sPtp clk1).on ∧ (wireUdp.port < (sPtp clk1).dev.variant.netPorts ∧ (sPtp clk1).dev.netLink wireUdp.port = true ∧ (wireUdp.lost =
      false ∨ (sPtp clk1).dev.xingFull = false) ∧ (sPtp clk1).dev.netTakes wireUdp.port wireUdp = true) ∧ ((sPtp clk1).dev.ptpClockOf
      num1 = none ∨ wireUdp.udp ≠ (sPtp clk1).dev.ptpUdp)) ∧
    ((sPtp clk1).on ∧ ((wire0.port < (sPtp clk1).dev.variant.netPorts ∧ (sPtp clk1).dev.netLink wire0.port = true ∧ (wire0.lost = false ∨
      (sPtp clk1).dev.xingFull = false) ∧ (sPtp clk1).dev.netTakes wire0.port wire0 = true) ∧ (sPtp clk1).dev.ptpClockOf num1 = some 1 ∧
      wire0.udp = (sPtp clk1).dev.ptpUdp) ∧ ((sPtp clk1).dev.ptp wire0.port 1).fromMaster 7 = true ∧ (-7 : Int) ≤ (-3 : Int) ∧ (-3 : Int)
      ≤ (1 : Int)) := by
  decide +kernel

theorem test_PtpExchangesComplete_witness2 :
    ((sPtp clk1).on ∧ ((wire0.port < (sPtp clk1).dev.variant.netPorts ∧ (sPtp clk1).dev.netLink wire0.port = true ∧ (wire0.lost = false ∨
      (sPtp clk1).dev.xingFull = false) ∧ (sPtp clk1).dev.netTakes wire0.port wire0 = true) ∧ (sPtp clk1).dev.ptpClockOf num1 = some 1 ∧
      wire0.udp = (sPtp clk1).dev.ptpUdp) ∧ ((sPtp clk1).dev.ptp wire0.port 1).fromMaster 7 = true ∧ (-7 : Int) ≤ (-7 : Int) ∧ (-7 : Int)
      ≤ (1 : Int)) ∧
    ((sPtp clk1).on ∧ ((wire0.port < (sPtp clk1).dev.variant.netPorts ∧ (sPtp clk1).dev.netLink wire0.port = true ∧ (wire0.lost = false ∨
      (sPtp clk1).dev.xingFull = false) ∧ (sPtp clk1).dev.netTakes wire0.port wire0 = true) ∧ (sPtp clk1).dev.ptpClockOf num1 = some 1 ∧
      wire0.udp = (sPtp clk1).dev.ptpUdp) ∧ ((sPtp clk1).dev.ptp wire0.port 1).fromMaster 7 = true ∧ (-7 : Int) ≤ (1 : Int) ∧ (1 : Int) ≤
      (1 : Int)) ∧
    (sPtp32.on ∧ ((wire0.port < sPtp32.dev.variant.netPorts ∧ sPtp32.dev.netLink wire0.port = true ∧ (wire0.lost = false ∨
      sPtp32.dev.xingFull = false) ∧ sPtp32.dev.netTakes wire0.port wire0 = true) ∧ sPtp32.dev.ptpClockOf num1 = some 1 ∧ wire0.udp =
      sPtp32.dev.ptpUdp) ∧ (sPtp32.dev.ptp wire0.port 1).fromMaster 7 = true ∧ (sPtp32.dev.ptp wire0.port 1).syncRx = some ((500 : Int),
      9, (3 : Int))) ∧
    ((sPtp clk1).on ∧ (sPtp clk1).dev.ptpOn wire0.port 1 = true ∧ (sPtp clk1).dev.ptpPeer = false) := by
  decide +kernel

theorem test_PtpExchangesComplete_witness3 :
    (sPtp33.on ∧ ((wire0.port < sPtp33.dev.variant.netPorts ∧ sPtp33.dev.netLink wire0.port = true ∧ (wire0.lost = false ∨
      sPtp33.dev.xingFull = false) ∧ sPtp33.dev.netTakes wire0.port wire0 = true) ∧ sPtp33.dev.ptpClockOf num1 = some 1 ∧ wire0.udp =
      sPtp33.dev.ptpUdp) ∧ (sPtp33.dev.ptp wire0.port 1).syncDone = some ((500 : Int), (509 : Int)) ∧ (sPtp33.dev.ptp wire0.port
      1).delayReq = some ((600 : Int), 9) ∧ (sPtp33.dev.ptp wire0.port 1).fromMaster 7 = true ∧ sPtp33.dev.ptpPeer = false) ∧
    (sPtpP2p.on ∧ ((wire0.port < sPtpP2p.dev.variant.netPorts ∧ sPtpP2p.dev.netLink wire0.port = true ∧ (wire0.lost = false ∨
      sPtpP2p.dev.xingFull = false) ∧ sPtpP2p.dev.netTakes wire0.port wire0 = true) ∧ sPtpP2p.dev.ptpClockOf num1 = some 1 ∧ wire0.udp =
      sPtpP2p.dev.ptpUdp) ∧ sPtpP2p.dev.ptpPeer = true) ∧
    (sPtpP2p.on ∧ sPtpP2p.dev.ptpOn wire0.port 1 = true ∧ sPtpP2p.dev.ptpPeer = true) ∧
    (sPtpPeer34.on ∧ sPtpPeer34.dev.ptpOn wire0.port 1 = true ∧ sPtpPeer34.dev.ptpPeer = true) ∧
    (sPtpPeer35.on ∧ ((wire0.port < sPtpPeer35.dev.variant.netPorts ∧ sPtpPeer35.dev.netLink wire0.port = true ∧ (wire0.lost = false ∨
      sPtpPeer35.dev.xingFull = false) ∧ sPtpPeer35.dev.netTakes wire0.port wire0 = true) ∧ sPtpPeer35.dev.ptpClockOf num1 = some 1 ∧
      wire0.udp = sPtpPeer35.dev.ptpUdp) ∧ sPtpPeer35.dev.ptpPeer = true ∧ (sPtpPeer35.dev.ptp wire0.port 1).pdelayReq = some
      ((500 : Int), 9)) := by
  decide +kernel

theorem test_PtpExchangesComplete_witness4 :
    (sPtp36.on ∧ ((wire0.port < sPtp36.dev.variant.netPorts ∧ sPtp36.dev.netLink wire0.port = true ∧ (wire0.lost = false ∨
      sPtp36.dev.xingFull = false) ∧ sPtp36.dev.netTakes wire0.port wire0 = true) ∧ sPtp36.dev.ptpClockOf num1 = some 1 ∧ wire0.udp =
      sPtp36.dev.ptpUdp) ∧ (sPtp36.dev.ptp wire0.port 1).pdelayReq = some ((500 : Int), 8) ∧ (sPtp36.dev.ptp wire0.port 1).pdelayResp =
      some ((900 : Int), (600 : Int), (2 : Int), 9)) ∧
    ((sPtp clk1).on ∧ ((wire0.port < (sPtp clk1).dev.variant.netPorts ∧ (sPtp clk1).dev.netLink wire0.port = true ∧ (wire0.lost = false ∨
      (sPtp clk1).dev.xingFull = false) ∧ (sPtp clk1).dev.netTakes wire0.port wire0 = true) ∧ (sPtp clk1).dev.ptpClockOf num1 = some 1 ∧
      wire0.udp = (sPtp clk1).dev.ptpUdp)) ∧
    (sPtp37.on ∧ ((wire0.port < sPtp37.dev.variant.netPorts ∧ sPtp37.dev.netLink wire0.port = true ∧ (wire0.lost = false ∨
      sPtp37.dev.xingFull = false) ∧ sPtp37.dev.netTakes wire0.port wire0 = true) ∧ sPtp37.dev.ptpClockOf num1 = some 1 ∧ wire0.udp =
      sPtp37.dev.ptpUdp)) := by
  decide +kernel

theorem test_PtpExchangesComplete_witness5 :
    (sPtp clk1).on ∧ ((wire0.port < (sPtp clk1).dev.variant.netPorts ∧ (sPtp clk1).dev.netLink wire0.port = true ∧ (wire0.lost = false ∨
      (sPtp clk1).dev.xingFull = false) ∧ (sPtp clk1).dev.netTakes wire0.port wire0 = true) ∧ (sPtp clk1).dev.ptpClockOf num1 = some 1 ∧
      wire0.udp = (sPtp clk1).dev.ptpUdp) := by
  decide +kernel

theorem test_TimersOfTheTimeBaseAct_witness1 :
    ((sTcArm 0).on ∧ 15 < 16 ∧ (sTcArm 0).dev.bit (tcArmed 15) = true ∧ ((sTcArm 0).dev.passBase ((sTcArm 0).dev.tcBase 15) (Int.ofNat
      ((sTcArm 0).dev.base ((sTcArm 0).dev.tcBase 15)).linear + (sTcArm 0).dev.tcDiff40 15 (tget (fun _ => 0) (sTcArm 0).dev.tim.tgt
      15)).toNat).tcDiff40 15 (tget (fun _ => 0) (sTcArm 0).dev.tim.tgt 15) ≤ (0 : Int) ∧ (sTcArm 0).dev.bit ⟨R.TIM_TCn_CFG 15, 3, 1⟩ =
      false) ∧
    (sTcFar.on ∧ 15 < 16 ∧ sTcFar.dev.bit (tcArmed 15) = true ∧ (sTcFar.dev.passBase (sTcFar.dev.tcBase 15) (Int.ofNat (sTcFar.dev.base
      (sTcFar.dev.tcBase 15)).linear + sTcFar.dev.tcDiff40 15 (tget (fun _ => 0) sTcFar.dev.tim.tgt 15)).toNat).tcDiff40 15 (tget (fun _
      => 0) sTcFar.dev.tim.tgt 15) ≤ (0 : Int) ∧ sTcFar.dev.bit ⟨R.TIM_TCn_CFG 15, 3, 1⟩ = false) ∧
    ((sTcArm 1).on ∧ 15 < 16 ∧ (sTcArm 1).dev.bit (tcArmed 15) = true ∧ ((sTcArm 1).dev.passBase ((sTcArm 1).dev.tcBase 15) (Int.ofNat
      ((sTcArm 1).dev.base ((sTcArm 1).dev.tcBase 15)).linear + (sTcArm 1).dev.tcDiff40 15 (tget (fun _ => 0) (sTcArm 1).dev.tim.tgt
      15)).toNat).tcDiff40 15 (tget (fun _ => 0) (sTcArm 1).dev.tim.tgt 15) ≤ (0 : Int) ∧ (sTcArm 1).dev.bit ⟨R.TIM_TCn_CFG 15, 3, 1⟩ =
      true ∧ (sTcArm 1).dev.tcPeriod 15 ≠ 0) ∧
    (sSteer.on ∧ 1 < 2 ∧ sSteer.dev.ptpSteers 1 = true ∧ sSteer.dev.bit (holdoverBit 1) = false ∧ tget noneAt sSteer.dev.tim.meas 1 =
      some 5) := by
  decide +kernel

theorem test_TimersOfTheTimeBaseAct_witness2 :
    (sLocked1.on ∧ 1 < 2 ∧ sLocked1.dev.bit (lockedBit 1) = true ∧ tget noneAt sLocked1.dev.tim.meas 1 = some 5) ∧
    (sHoldo.on) ∧
    (sSrc2.on) ∧
    (sMiss.on ∧ sMiss.dev.tb0Src = 2 ∧ sMiss.dev.tim.ppsAt = some 5) ∧
    (sPps.on ∧ sPps.dev.bit ⟨R.TIM_PPS_CFG, 0, 1⟩ = true) ∧
    (sSlew.on ∧ sSlew.dev.tim.slew ≠ (0 : Int)) := by
  decide +kernel

theorem test_FramesAreTaken_witness1 :
    (sFifo.on ∧ wire0.port < sFifo.dev.variant.netPorts ∧ sFifo.dev.netLink wire0.port = true ∧ ((sFifo.dev.fabric fun d => d.netFill
      wire0.port).netPort wire0.port).fifo = [frame1]) ∧
    (sFifoS.on ∧ wire0.port < sFifoS.dev.variant.netPorts ∧ sFifoS.dev.netLink wire0.port = true ∧ ((sFifoS.dev.fabric fun d => d.netFill
      wire0.port).netPort wire0.port).fifo = [frame1]) ∧
    (sOpen.on ∧ wire0.port < sOpen.dev.variant.netPorts ∧ sOpen.dev.netLink wire0.port = true ∧ (sOpen.dev.netPort wire0.port).cur = some
      open1 ∧ open1.due = false) ∧
    (sCross.on ∧ wireLost.port < sCross.dev.variant.netPorts ∧ sCross.dev.netLink wireLost.port = true ∧ wireLost.lost = true ∧
      sCross.dev.xingFull = true) ∧
    (sNetw.on ∧ wire7.port < sNetw.dev.variant.netPorts ∧ sNetw.dev.netLink wire7.port = true ∧ (wire7.lost = false ∨ sNetw.dev.xingFull
      = false) ∧ sNetw.dev.netTakes wire7.port wire7 = false) ∧
    (sNetw.on ∧ wire1523.port < sNetw.dev.variant.netPorts ∧ sNetw.dev.netLink wire1523.port = true ∧ (wire1523.lost = false ∨
      sNetw.dev.xingFull = false) ∧ sNetw.dev.netTakes wire1523.port wire1523 = false) := by
  decide +kernel

theorem test_FramesAreTaken_witness2 :
    (sGranted.on ∧ wire0.port < sGranted.dev.variant.netPorts ∧ sGranted.dev.netLink wire0.port = true ∧ ((wire0.lost = false ∨
      sGranted.dev.xingFull = false) ∧ sGranted.dev.netTakes wire0.port wire0 = true) ∧ (281474976710655 = sGranted.dev.netMac wire0.port
      ∨ 281474976710655 = 281474976710655) ∧ sGranted.dev.variant.netPorts = 2 ∧ sGranted.dev.bit ⟨R.NET_CFG, 4, 1⟩ = false ∧ 32 ≤
      (grantPl 0).length ∧ byteAt (grantPl 0) 0 = 1 ∧ byteAt (grantPl 0) 1 = 1 ∧ crc32c (List.take 28 (grantPl 0)) = fieldAt (grantPl 0)
      28 4 ∧ fieldAt (grantPl 0) 2 2 = sGranted.dev.fld ⟨R.NET_ARB_CFG, 0, 16⟩ ∧ (fieldAt (grantPl 0) 8 6 = sGranted.dev.netDeviceId ∨
      fieldAt (grantPl 0) 8 6 = 281474976710655) ∧ byteAt (grantPl 0) 14 < 2 ∧ (sGranted.dev.net.granted = false ∨ (0 : Int) < toSigned
      32 (fieldAt (grantPl 0) 4 4 + 2 ^ 32 - BitVec.toNat (sGranted.dev.reg R.NET_GRANT_SEQ)))) ∧
    (sNetw.on ∧ wire0.port < sNetw.dev.variant.netPorts ∧ sNetw.dev.netLink wire0.port = true ∧ ((wire0.lost = false ∨ sNetw.dev.xingFull
      = false) ∧ sNetw.dev.netTakes wire0.port wire0 = true) ∧ 5 ≠ sNetw.dev.netMac wire0.port ∧ 5 ≠ 281474976710655) ∧
    (sNetw.on ∧ wire0.port < sNetw.dev.variant.netPorts ∧ sNetw.dev.netLink wire0.port = true ∧ ((wire0.lost = false ∨ sNetw.dev.xingFull
      = false) ∧ sNetw.dev.netTakes wire0.port wire0 = true) ∧ 167772161 = BitVec.toNat (sNetw.dev.reg (R.NETP_IP wire0.port))) := by
  decide +kernel

theorem test_FramesAreTaken_witness3 :
    (sNetw.on ∧ wire0.port < sNetw.dev.variant.netPorts ∧ sNetw.dev.netLink wire0.port = true ∧ ((wire0.lost = false ∨ sNetw.dev.xingFull
      = false) ∧ sNetw.dev.netTakes wire0.port wire0 = true) ∧ 167772162 ≠ BitVec.toNat (sNetw.dev.reg (R.NETP_IP wire0.port))) ∧
    (sNetw.on ∧ wire0.port < sNetw.dev.variant.netPorts ∧ sNetw.dev.netLink wire0.port = true ∧ (wire0.lost = false ∨ sNetw.dev.xingFull
      = false)) ∧
    (sNetw.on ∧ wire0.port < sNetw.dev.variant.netPorts ∧ sNetw.dev.netLink wire0.port = true ∧ ((wire0.lost = false ∨ sNetw.dev.xingFull
      = false) ∧ sNetw.dev.netTakes wire0.port wire0 = true) ∧ (((0 : Byte) :: statusPl).length ≠ 8 ∨ fieldAt ((0 : Byte) :: statusPl) 0
      4 ≠ 1364412227)) ∧
    ((sRate 0).on ∧ wire0.port < (sRate 0).dev.variant.netPorts ∧ (sRate 0).dev.netLink wire0.port = true ∧ ((wire0.lost = false ∨ (sRate
      0).dev.xingFull = false) ∧ (sRate 0).dev.netTakes wire0.port wire0 = true) ∧ statusPl.length = 8 ∧ fieldAt statusPl 0 4 =
      1364412227 ∧ (sRate 0).dev.fld ⟨R.NET_STATUS_CFG, 16, 16⟩ ≤ (List.filter (fun t => decide ((sRate 0).dev.now2 < t + 1000000000))
      ((sRate 0).dev.netPort wire0.port).answers).length) := by
  decide +kernel

theorem test_FramesAreTaken_witness4 :
    (sRate 1).on ∧ wire0.port < (sRate 1).dev.variant.netPorts ∧ (sRate 1).dev.netLink wire0.port = true ∧ ((wire0.lost = false ∨ (sRate
      1).dev.xingFull = false) ∧ (sRate 1).dev.netTakes wire0.port wire0 = true) ∧ statusPl.length = 8 ∧ fieldAt statusPl 0 4 =
      1364412227 ∧ (List.filter (fun t => decide ((sRate 1).dev.now2 < t + 1000000000)) ((sRate 1).dev.netPort
      wire0.port).answers).length < (sRate 1).dev.fld ⟨R.NET_STATUS_CFG, 16, 16⟩ := by
  decide +kernel

theorem test_PortsKeepTheirRoles_witness1 :
    (sPinArb.on) ∧
    (sSwitchD.on ∧ sSwitchD.dev.net.switch = some (1, 5) ∧ sSwitchD.dev.netLink 1 = false) ∧
    (sSwitch.on ∧ sSwitch.dev.net.switch = some (1, 5) ∧ sSwitch.dev.netLink 1 = true ∧ ((if ((sSwitch.dev.fabric fun d => d.netFill
      1).netPort 1).fifo = [] then (sSwitch.dev.fabric fun d => d.netFill 1).fabric fun d => d.netDue 1 else sSwitch.dev.fabric fun d =>
      d.netFill 1).netPort 1).fifo = []) ∧
    (sSwitchF.on ∧ sSwitchF.dev.net.switch = some (1, 5) ∧ sSwitchF.dev.netLink 1 = true ∧ ((if ((sSwitchF.dev.fabric fun d => d.netFill
      1).netPort 1).fifo = [] then (sSwitchF.dev.fabric fun d => d.netFill 1).fabric fun d => d.netDue 1 else sSwitchF.dev.fabric fun d
      => d.netFill 1).netPort 1).fifo ≠ []) ∧
    (sSwitch.on ∧ sSwitch.dev.net.held = none ∧ 1 < 2) ∧
    (sDual.on ∧ sDual.dev.bit ⟨R.NET_STATUS, 4, 1⟩ = true) ∧
    (sNetw.on ∧ sNetw.dev.net.lost = false) ∧
    (sNetw.on ∧ 1 < sNetw.dev.variant.netPorts ∧ sNetw.dev.netLink 1 = true) ∧
    (sDown.on ∧ sDown.dev.netEn 1 = true ∧ sDown.dev.netLink 1 = false ∧ sDown.dev.netMac 1 ≠ 0 ∧ sDown.dev.bit ⟨R.GLB_STATUS, 1, 1⟩ =
      false) := by
  decide +kernel

theorem test_PortsKeepTheirRoles_witness2 :
    sNetw.on ∧ 1 < sNetw.dev.variant.netPorts := by
  decide +kernel

theorem test_UpdatesOverTheNetworkRun_witness1 :
    (sUpdNet.on ∧ wire0.port < sUpdNet.dev.variant.netPorts ∧ sUpdNet.dev.netLink wire0.port = true ∧ (wire0.lost = false ∨
      sUpdNet.dev.xingFull = false) ∧ sUpdNet.dev.netTakes wire0.port wire0 = true ∧ sUpdNet.dev.updPacketOk upd8 = true ∧ byteAt upd8 5
      = 1 ∧ sUpdNet.dev.netUpdDenied sUpdNet.nv = false ∧ sUpdNet.dev.sec.holder = none) ∧
    (sNetw.on ∧ wire0.port < sNetw.dev.variant.netPorts ∧ sNetw.dev.netLink wire0.port = true ∧ (wire0.lost = false ∨ sNetw.dev.xingFull
      = false) ∧ sNetw.dev.netTakes wire0.port wire0 = true ∧ sNetw.dev.updPacketOk upd8 = true ∧ byteAt upd8 5 = 1 ∧
      sNetw.dev.netUpdDenied sNetw.nv = true) ∧
    (sUpdNet.on ∧ wire0.port < sUpdNet.dev.variant.netPorts ∧ sUpdNet.dev.netLink wire0.port = true ∧ (wire0.lost = false ∨
      sUpdNet.dev.xingFull = false) ∧ sUpdNet.dev.netTakes wire0.port wire0 = true ∧ sUpdNet.dev.updPacketOk upd9 = true ∧ byteAt upd9 5
      = 3 ∧ sUpdNet.dev.netUpdDenied sUpdNet.nv = false ∧ sUpdNet.dev.updMayOpen = none ∧ sUpdNet.dev.sec.holder = none ∧ List.find? (fun
      c => c.sid == fieldAt upd9 16 4 && c.ip == 167772162 && c.udp == 4000 && !sUpdNet.dev.timeUp c.at_ 5000000000)
      sUpdNet.dev.sec.challenges = some chal1 ∧ sUpdNet.nv.updAuth chal1 (List.take (fieldAt upd9 28 2) (List.drop 32 upd9)) = true) := by
  decide +kernel

theorem test_UpdatesOverTheNetworkRun_witness2 :
    ((sUpdHold 1).on ∧ wire0.port < (sUpdHold 1).dev.variant.netPorts ∧ (sUpdHold 1).dev.netLink wire0.port = true ∧ (wire0.lost = false
      ∨ (sUpdHold 1).dev.xingFull = false) ∧ (sUpdHold 1).dev.netTakes wire0.port wire0 = true ∧ (sUpdHold 1).dev.updPacketOk upd10 =
      true ∧ byteAt upd10 5 = 5 ∧ (sUpdHold 1).dev.sec.holder = some hold1 ∧ hold1.net = true ∧ hold1.ip = 167772162 ∧ hold1.udp = 4000 ∧
      hold1.sid = fieldAt upd10 16 4 ∧ (sUpdHold 1).dev.stage = 1 ∧ fieldAt upd10 24 4 % 1024 = 0 ∧ fieldAt upd10 24 4 + (List.take
      (fieldAt upd10 28 2) (List.drop 32 upd10)).length ≤ slotSize) ∧
    ((sUpdHold 1).on ∧ wire0.port < (sUpdHold 1).dev.variant.netPorts ∧ (sUpdHold 1).dev.netLink wire0.port = true ∧ (wire0.lost = false
      ∨ (sUpdHold 1).dev.xingFull = false) ∧ (sUpdHold 1).dev.netTakes wire0.port wire0 = true ∧ (sUpdHold 1).dev.updPacketOk upd11 =
      true ∧ byteAt upd11 5 = 7 ∧ (sUpdHold 1).dev.sec.holder = some hold1 ∧ hold1.net = true ∧ hold1.ip = 167772162 ∧ hold1.udp = 4000 ∧
      hold1.sid = fieldAt upd11 16 4 ∧ (sUpdHold 1).dev.sec.verified = 0 ∧ (sUpdHold 1).dev.stage = 1) := by
  decide +kernel

theorem test_UpdatesOverTheNetworkRun_witness3 :
    ((sUpdHold 1).on ∧ wire0.port < (sUpdHold 1).dev.variant.netPorts ∧ (sUpdHold 1).dev.netLink wire0.port = true ∧ (wire0.lost = false
      ∨ (sUpdHold 1).dev.xingFull = false) ∧ (sUpdHold 1).dev.netTakes wire0.port wire0 = true ∧ (sUpdHold 1).dev.updPacketOk upd12 =
      true ∧ byteAt upd12 5 = 8 ∧ (sUpdHold 1).dev.sec.holder = some hold1 ∧ hold1.net = true ∧ hold1.ip = 167772162 ∧ hold1.udp = 4000 ∧
      hold1.sid = fieldAt upd12 16 4) ∧
    ((sUpdHold 3).on ∧ wire0.port < (sUpdHold 3).dev.variant.netPorts ∧ (sUpdHold 3).dev.netLink wire0.port = true ∧ (wire0.lost = false
      ∨ (sUpdHold 3).dev.xingFull = false) ∧ (sUpdHold 3).dev.netTakes wire0.port wire0 = true ∧ (sUpdHold 3).dev.updPacketOk upd13 =
      true ∧ byteAt upd13 5 = 8 ∧ (sUpdHold 3).dev.sec.holder = some hold1 ∧ hold1.net = true ∧ hold1.ip = 167772162 ∧ hold1.udp = 4000 ∧
      hold1.sid = fieldAt upd13 16 4 ∧ byteAt upd13 32 = 1 ∧ (sUpdHold 3).dev.stage = 3 ∧ (sUpdHold 3).dev.paused = false ∧ (sUpdHold
      3).dev.refusal = none) ∧
    ((sUpdHold 3).on ∧ wire0.port < (sUpdHold 3).dev.variant.netPorts ∧ (sUpdHold 3).dev.netLink wire0.port = true ∧ (wire0.lost = false
      ∨ (sUpdHold 3).dev.xingFull = false) ∧ (sUpdHold 3).dev.netTakes wire0.port wire0 = true ∧ (sUpdHold 3).dev.updPacketOk upd14 =
      true ∧ byteAt upd14 5 = 9 ∧ (sUpdHold 3).dev.sec.holder = some hold1 ∧ hold1.net = true ∧ hold1.ip = 167772162 ∧ hold1.udp = 4000 ∧
      hold1.sid = fieldAt upd14 16 4) := by
  decide +kernel

theorem test_UpdatesOverTheNetworkRun_witness4 :
    (sUpdNet.on ∧ wire0.port < sUpdNet.dev.variant.netPorts ∧ sUpdNet.dev.netLink wire0.port = true ∧ (wire0.lost = false ∨
      sUpdNet.dev.xingFull = false) ∧ sUpdNet.dev.netTakes wire0.port wire0 = true ∧ sUpdNet.dev.sec.challenges = [chal1]) ∧
    ((sUpdHold 4).on ∧ wire0.port < (sUpdHold 4).dev.variant.netPorts ∧ (sUpdHold 4).dev.netLink wire0.port = true ∧ (wire0.lost = false
      ∨ (sUpdHold 4).dev.xingFull = false) ∧ (sUpdHold 4).dev.netTakes wire0.port wire0 = true ∧ (sUpdHold 4).dev.sec.holder = some
      hold1) := by
  decide +kernel

theorem test_ImagesAreVerifiedAndConfirmed_witness :
    (sVerif.on ∧ sVerif.dev.stage = 2) ∧
    ((sActiv false).on ∧ (sActiv false).dev.sec.activation = some (act0 false) ∧ (sActiv false).dev.stage = 4 ∧ (act0 false).committed =
      false ∧ (sActiv false).dev.closeRest.pipeEmpty = true ∧ (act0 false).cold = false) ∧
    ((sActiv true).on ∧ (sActiv true).dev.sec.activation = some (act0 true) ∧ (sActiv true).dev.stage = 4 ∧ (act0 true).committed = false
      ∧ (sActiv true).dev.closeRest.pipeEmpty = true ∧ (act0 true).cold = true) ∧
    (sConf.on ∧ sConf.dev.stage = 5 ∧ sConf.dev.trialChecks.stage = 5 ∧ sConf.dev.trialChecks.fld ⟨R.SEC_TRIAL, 0, 5⟩ = 31) := by
  decide +kernel

/-! ### Well-formed commands: an ill-formed term for each check -/

def longArgs : List Word := List.replicate 1025 0
def longPay : List Byte := List.replicate 9217 0

theorem test_wf_refuses_words : [Instr.camRetrain 0 longArgs, .badCode 0x10000 0 [], .badCode 0 0 longArgs, .registerWrite 2 0,
    .registerWrite 0x4000000 0, .regRead 0x4000000].all (fun c => !c.wf) = true := by decide +kernel

theorem test_wf_refuses_blocks : [Instr.bar2Write 1 (List.replicate 64 0) .clean, .bar2Read 0 0 .clean .clean,
    .dramRead 14 0 1 .clean .clean, .dramRead 0 0x2000000000 1 .clean .clean, .dramWrite 13 60 (List.replicate 5 0) .clean].all
    (fun c => !c.wf) = true := by decide +kernel

theorem test_wf_refuses_indexes : [Instr.train 16 0, .lineStart 16 (sent 0 pk1), .lineStart 15 { lanes := List.replicate 5 [] }, .pixelPacket 0 { lanes := [[1024]] }, .commit 32 0, .cut 4, .posnLoad 8, .setArm 32, .driveHigh 16,
    .rnlChcCfg 128 0, .unitLabelled 4, .dmaStop 16 0, .cvEn 8 0, .reqTimeout 15 5, .lineTimeout 15 4, .stripeStart 4, .slotReload 4,
    .zEdge 4 true 0, .wireFault 3 3, .ssiTo 2, .enableGrp 16, .tcFire 16].all (fun c => !c.wf) = true := by decide +kernel

theorem test_wf_refuses_ports : [Instr.delayReq 2 0 false, .delayReq 0 2 false, .holdover 2, .grant { port := 2 } 0 0 [], .grant {} 0 0 longPay, .sync {} 256 0 0 false 0 0 0 false,
    .linkDown 2, .refresh 2 0, .refresh 0 32, .parity 0 16 0 0, .parity 0 0 14 0, .recoveryEnd 0 16, .laneTake 4,
    .tapBeat { sel := 16, bytes := [] }, .tapBeat { sel := 0, bytes := List.replicate 65 0 }, .tsenAverage 12 0, .calItemStart 19].all
    (fun c => !c.wf) = true := by decide +kernel

theorem test_wf_accepts : [Instr.camRetrain 0 [15], .registerWrite 0x3FFFFFC 0, .train 15 0, .commit 31 0, .cut 3, .dmaStop 15 0,
    .reqTimeout 15 4, .dramRead 13 0x1FFFFFFFC0 64 .clean .clean, .calItemStart 18, .idcode].all (fun c => c.wf) = true := by
  decide +kernel

/-! ### Numbers that the manual writes out -/

def ascii9 : List Byte := [0x31, 0x32, 0x33, 0x34, 0x35, 0x36, 0x37, 0x38, 0x39]

/-- Check values over "123456789" (R70, Table 19-2). -/
theorem test_crc_checks : crc16 0xFFFF ascii9 = 0x29B1 ∧ crc32c ascii9 = 0xE3069283 ∧ crc32 ascii9 = 0xCBF43926 := by decide +kernel

/-- The worked example below Table 17-2: address 0x00_0001_4300. -/
theorem test_address_example : decodeAddr true 0x14300 =
    { stack := 1, pc := 4, sid := 0, bankGroup := 1, bank := 0, row := 0, column := 0x100 } := by decide +kernel

/-- The header of the second pixel packet of chapter 4's worked example: VC0, DT 0x13, LEN 4,096, SEQ 0x2A41, OFFSET 2,048. -/
theorem test_header_example :
    let p : VlpPacket := { bytes := [0x13, 0x01, 0x00, 0x10, 0x41, 0x2A, 0x00, 0x08] }
    p.vc = 0 ∧ p.dt = 0x13 ∧ p.ver = 1 ∧ p.len = 4096 ∧ p.seq = 0x2A41 ∧ p.offset = 2048 := by decide +kernel

/-- Chapter 6's worked example of the remap: weights at FRAC 96, their sum over the four samples, the rounded output. -/
theorem test_remap_example : cubicWeights 96 = [-1200, 11920, 6384, -720] ∧
    weighted (cubicWeights 96) [30000, 30400, 31200, 31000] = 503228800 ∧ (503228800 + 8192 : Int) / 2 ^ 14 = 30715 := by decide +kernel

def trk : TrkSet := { level := 0x8000, th := 0x800, hold := 4, max_ := 0, k := 8, frozen := false, held := false, acquire := false }

/-- Chapter 6's worked example of the baseline tracker: output 33,008, and the baseline rises by 61,440. -/
theorem test_tracker_example : trackColumn trk 20340 { b := 20100 * 65536, uninit := false } =
    (33008, { b := 20100 * 65536 + 61440, hold := 0, run := 0, uninit := false }, false, false) := by decide +kernel

/-- Its dark roll mark: output 24,667, and the column freezes without moving its baseline. -/
theorem test_tracker_mark : (trackColumn trk 12000 { b := 20101 * 65536, uninit := false }).1 = 24667 ∧
    (trackColumn trk 12000 { b := 20101 * 65536, uninit := false }).2.1.b = 20101 * 65536 := by decide +kernel

/-- Chapter 8's worked example of a seam: w is 18,688 and the output 33,114. -/
theorem test_blend_example : blend 8064 128 8100 33000 33400 = 33114 := by decide +kernel

def conv1 : Layer :=
  { ty := 1, stride2 := false, padSame := false, relu := true, raw := false, pool := 0, top := 0, ci := 1, co := 1,
    hi := 3, wi := 3, zpIn := 0, zpOut := -10, wOfs := 64, bOfs := 0, rest := 0 }

/-- Chapter 10's worked example of requantising: acc 1,000,000 with M 20,000, S 28, ZP_OUT −10 and RELU gives 65. -/
theorem test_requantise_example :
    (finish (List.replicate 2048 0 ++ leBytes 4 0 ++ leBytes 2 20000 ++ [28, 0]) conv1 0 1000000 {}).1 = 65 := by decide +kernel

/-- Table 18-2: the deltas of four samples coded in planes, and the body of the stream. -/
theorem test_sluice_example : codedLine 2 [0x00, 0x80, 0x01, 0x80, 0x01, 0x80, 0x02, 0x80] = [0, 1, 0, 1, 0x80, 0, 0, 0] ∧
    sluiceBody 65536 [0, 1, 0, 1, 0x80, 0, 0, 0] = [0x00, 0x02, 0x08, 0x04, 0x04, 0xC0, 0x60, 0x40] := by decide +kernel

def alive (v : Byte) : List Byte := [0, 0, 0, 0, v]
def dAlive : Dev := ((((ready.dev.cvAlive 3 (alive 0x5C)).cvAlive 3 (alive 0x5D)).cvAlive 3 (alive 0x5D)).cvAlive 3 (alive 0x60)).cvAlive 3
  (alive 0x61)

/-- Table 19-3: one repeat, one skip of two records. -/
theorem test_alive_example : dAlive.fld ⟨R.CV_ALIVE_ERR 3, 0, 16⟩ = 1 ∧ dAlive.fld ⟨R.CV_ALIVE_ERR 3, 16, 16⟩ = 1 ∧
    dAlive.fld ⟨R.CV_SKIPPED 3, 0, 32⟩ = 2 := by decide +kernel

/-- Context 31 on virtual channel 3 of port 15, which is enabled, expects line `e`; TRIG0's history keeps 1,001 to 1,003, and the
context's ring has 64 slots at 1 MB. -/
def sExpects (e : Nat) : State := { sVc {} with dev :=
  let d := (((sVc {}).dev.setReg (R.TDL_TRIGn_COUNT 0) 1003).put ⟨R.CAM_CFG 15, 0, 1⟩ 1).setReg (R.TDL_HIST_BASE_LO) 0x1000
  let d := (((d.put ⟨R.CTX_CFG 31, 8, 6⟩ 0x3F).setReg (R.CTX_RING_BASE_LO 31) 0x100000).setReg (R.CTX_RING_LINES 31) 64).setReg (R.CTX_RING_STRIDE 31) 64
  let d := [1001, 1002, 1003].foldl (fun d c => d.rawWrite (d.histAddr 0 c) (leBytes 4 c ++ [1])) d
  { d with str := { d.str with ctxs := [(31, { e := some e })] }, tdl := { d.tdl with trigAt := [(0, [0, 0, 0])] } } }
def startPkt (n : Nat) : VlpPacket := pkt 3 1 0 0 (leBytes 4 n ++ List.replicate 12 0)
/-- The line expected and the two counters after a line start. -/
def afterStart (e n : Nat) : Option (Option Nat × Nat × Nat) :=
  match execLineStart 15 (sent 0 (startPkt n)) (sExpects e) with
  | .next t => some ((t.dev.ctxRx 31).e, t.dev.fld ⟨R.CTX_MISSED_CNT 31, 0, 32⟩, t.dev.fld ⟨R.CTX_ORPHAN_CNT 31, 0, 16⟩)
  | _ => none

/-- Table 5-4, second row: trigger 1,001 brought no line. -/
theorem test_overtrigger_example : afterStart 1001 1002 = some (some 1003, 1, 0) := by decide +kernel

/-- Table 5-4, third row: an orphan. -/
theorem test_orphan_example : afterStart 1003 1002 = some (some 1003, 0, 1) := by decide +kernel

/-- The code groups of K28.5 that every table of the code begins with, at either disparity, and of D21.5, of alternating bits (R43). -/
theorem test_code_groups : encCtl false 0xBC = 0b0011111010 ∧ encCtl true 0xBC = 0b1100000101 ∧ encData false 0xB5 = 0b1010101010 ∧
    encData true 0xB5 = 0b1010101010 := by decide +kernel

/-- Every data byte and each of the twelve K-symbols is read back at both disparities (R43). -/
theorem test_code_round : (List.range 256).all (fun b => [false, true].all (fun r => decodeGroup r (encData r b) == (some (false, b), true))) ∧
    ([0x1C, 0x3C, 0x5C, 0x7C, 0x9C, 0xBC, 0xDC, 0xFC, 0xF7, 0xFB, 0xFD, 0xFE].all (fun b =>
      [false, true].all (fun r => decodeGroup r (encCtl r b) == (some (true, b), true)))) := by decide +kernel

/-- Three balls of the tables of chapter 24, and how many of all are ground and core supply (R496). -/
theorem test_balls : (ballRow "AP").bind (fun r => ballAt r 45) = some (.sig "CAM" 13 "SP_N") ∧
    (ballRow "BF").bind (fun r => ballAt r 18) = some (.sig "TRIG" 5 "N") ∧
    (ballRow "BH").bind (fun r => ballAt r 24) = some (.sig "ENC" 2 "Z_N") := by decide +kernel
def ballCount (b : Ball) : Nat :=
  ((List.range 46).map (fun r => (List.range 46).countP (fun c => ballAt (r + 1) (c + 1) == some b))).sum
theorem test_ball_counts : ballCount .gnd = 1176 ∧ ballCount .vcore = 360 := by decide +kernel

/-- A stripe whose block cannot be read freezes a single-stack device and keeps what the block was (R4). -/
theorem test_StripesPassTheStrandAndTheSeam_freeze : (sBusy1.dev.stripeEnd 0 [] [] [] true).mem.froze =
    some (frz1.fst, frz1.snd.fst, frz1.snd.snd) := rfl

/-- The table gives bits to no row (spec/98_reader.md). -/
theorem test_no_word_spells : [0, 8, 16, 32].all (fun n => (decodeTableWord n 0xFFFFFFFF).isNone) = true := by decide +kernel

/-- An event with nothing to act on is a step all the same: the queue's front goes, the device stays (R287). -/
theorem test_step_takes_front : nextIs (step { ready with pending := [.driveHigh 3, .idcode] }) { ready with pending := [.idcode] } =
    true := by decide +kernel

end Sys2Proof.Test
end

section
/-! SUPPORT. Split registers (R7): what a host read of a _LO word latches, and what a host write of the two words of a pair does. -/

namespace Sys2Proof.Machine

/-! ### Reading a pair -/

/-- A read of a latched word answers the word latched and empties the latch, whatever the registers hold. -/
theorem hostRead_of_latched {d : Dev} {a : Nat} {w : Word} (h : tget noneAt d.latch a = some w) :
    hostRead d a = (w, { d with latch := tset noneAt d.latch a none }) := by
  simp [hostRead, h]

/-- A read of a _LO word, not itself latched, latches the _HI word as it reads once the read has cleared an RC register. -/
theorem hostRead_low_latch {d : Dev} {a : Nat} {r : RegRow} (h : tget noneAt d.latch a = none) (hr : regRow a = some r)
    (hpair : r.pair = 1) (hp : present d.variant a = true) :
    (hostRead d a).2.latch = tset noneAt d.latch (a + 4)
      (some (readReg (if r.access = .rc then d.setReg a (resetWord a) else d) (a + 4))) := by
  by_cases hrc : r.access = .rc <;> simp [hostRead, h, hr, hpair, hp, hrc]

/-! ### Which rows have a _LO word that a plain write takes -/

/-- An offset on which a row has a register is a multiple of what divides every stride of the row. -/
theorem dimsHit_mod {m : Nat} {dims : List (Nat × Nat)} (hm : ∀ p ∈ dims, m ∣ p.2) :
    ∀ off, dimsHit dims off = true → off % m = 0 := by
  induction dims with
  | nil => intro off h; simp_all [dimsHit]
  | cons p rest ih =>
    intro off h
    simp only [dimsHit, Bool.and_eq_true] at h
    have hrest := ih (fun q hq => hm q (List.mem_cons_of_mem _ hq)) _ h.2
    rwa [Nat.mod_mod_of_dvd _ (hm p List.mem_cons_self)] at hrest

/-- So each register of the row lies where its base does, up to such a divisor. -/
theorem RegRow.hit_mod {r : RegRow} {a m : Nat} (h : r.hit a = true) (hm : ∀ p ∈ r.dims, m ∣ p.2) : a % m = r.base % m := by
  simp only [RegRow.hit, Bool.and_eq_true, decide_eq_true_eq] at h
  obtain ⟨hbase, hoff⟩ := h
  calc a % m = (a - r.base + r.base) % m := by rw [Nat.sub_add_cancel hbase]
    _ = r.base % m := by rw [Nat.add_mod, dimsHit_mod hm _ hoff, Nat.zero_add, Nat.mod_mod]

/-- A listed register's row is one of its block, and its address one of the row's. -/
theorem regRow_some {a : Nat} {r : RegRow} (h : regRow a = some r) : r ∈ blockRows a ∧ r.hit a = true :=
  ⟨List.mem_of_find?_eq_some h, List.find?_some (p := fun x : RegRow => x.hit a) h⟩

/-- A row of _LO words whose plain bits the host writes at run time. -/
abbrev RegRow.lowWord (r : RegRow) : Prop := r.pair = 1 ∧ r.when_ = .run ∧ r.plain ≠ 0

theorem glbRows_no_lowWord : ∀ r ∈ glbRows, ¬ r.lowWord := by decide

theorem shfRows_no_lowWord : ∀ r ∈ shfRows, ¬ r.lowWord := by decide

theorem lowWord_rows_off_cfg :
    ∀ r ∈ tdlRows ++ hifRows ++ cvuRows, r.lowWord → (∀ p ∈ r.dims, 0x20 ∣ p.2) ∧ r.base % 0x20 ≠ 0 := by
  decide

/-- A _LO word that a plain write takes is no register of the blocks GLB and SHF, and none of the CFG registers that the blocks of
compare channels, engines and check-value units have at multiples of 0x20. -/
theorem lowWord_address {a : Nat} {r : RegRow} (hr : regRow a = some r) (hl : r.lowWord) :
    a / 0x100000 ≠ 0 ∧ a / 0x100000 ≠ 6 ∧
      (a / 0x100000 = 7 ∨ a / 0x100000 = 11 ∨ a / 0x100000 = 14 → a % 0x20 ≠ 0) := by
  obtain ⟨hmem, hhit⟩ := regRow_some hr
  unfold blockRows at hmem
  refine ⟨fun h => ?_, fun h => ?_, fun h => ?_⟩
  · rw [h] at hmem; exact glbRows_no_lowWord r hmem hl
  · rw [h] at hmem; exact shfRows_no_lowWord r hmem hl
  · have hrows : r ∈ tdlRows ++ hifRows ++ cvuRows := by
      rcases h with h | h | h <;> rw [h] at hmem <;> simp only [List.mem_append]
      · exact .inl (.inl hmem)
      · exact .inl (.inr hmem)
      · exact .inr hmem
    obtain ⟨hdims, hbase⟩ := lowWord_rows_off_cfg r hrows hl
    rwa [RegRow.hit_mod hhit hdims]

/-! ### Writing a pair -/

/-- An index and an offset come from an address within the array. -/
theorem inArray_some {a base count stride i o : Nat} (h : inArray a base count stride = some (i, o)) :
    base ≤ a ∧ a < base + count * stride ∧ (a - base) % stride = o := by
  unfold inArray at h
  split at h
  · simp only [Option.some.injEq, Prod.mk.injEq] at h
    omega
  · simp at h

/-- Nothing more follows the write of a _LO word: it is none of the registers whose write has a sequel. -/
theorem Dev.writeFollows_low (d : Dev) {a : Nat} {r : RegRow} (hr : regRow a = some r) (hl : r.lowWord) (old new : Word) :
    d.writeFollows a old new = d := by
  obtain ⟨hglb, hshf, hcfg⟩ := lowWord_address hr hl
  simp only [Dev.writeFollows, R.TDL_CMPn_CFG, R.DR_n_CFG, R.CV_CFG, R.HIF_DMAe_CFG, R.SHF_JOB_LIMIT, R.GLB_PACE_CTRL]
  split
  case h_1 hcmp => have := inArray_some hcmp; omega
  case h_2 hring _ => have := inArray_some hring; omega
  case h_3 hring _ => have := inArray_some hring; omega
  case h_4 hcv _ _ _ => have := inArray_some hcv; omega
  case h_5 hdma _ _ _ _ => have := inArray_some hdma; omega
  case h_6 => rw [if_neg (by omega), if_neg (by omega)]

/-- A write of a read-write register that nothing refuses for its access or its time. -/
theorem exec_registerWrite_rw {s : State} {a : Nat} {r : RegRow} (hon : s.on) (hp : present s.dev.variant a = true)
    (hr : regRow a = some r) (hw : r.when_ = .run) (ha : r.access = .rw) (v : Word) :
    exec (.registerWrite a v) s = .next { s with dev := s.dev.plainWrite r a v } := by
  show execRegisterWrite a v s = _
  rw [execRegisterWrite, onDev_on hon]
  simp [Dev.hostWriteTo, hp, hr, hw, ha]

/-- The device with a word held for a _HI register, until the write of its _LO register. -/
def Dev.holdHi (d : Dev) (hi : Nat) (w : Word) : Dev := { d with heldHi := tset noneAt d.heldHi hi (some w) }

/-- No register shows a held word. -/
@[simp] theorem Dev.reg_holdHi (d : Dev) (hi : Nat) (w : Word) (b : Nat) : (d.holdHi hi w).reg b = d.reg b := rfl

/-- The _HI word of a write is held (R7). -/
theorem Dev.plainWrite_high {d : Dev} {a : Nat} {q : RegRow} {v : Word} (ha : q.access = .rw) (hpair : q.pair = 2)
    (hden : d.writeDenied a (q.merge (d.reg a) v) = false) (hign : d.writeIgnored a (q.merge (d.reg a) v) = false) :
    d.plainWrite q a v = d.holdHi a (v &&& q.plain) := by
  simp [Dev.plainWrite, Dev.holdHi, ha, hpair, hden, hign]

/-- The write of the _LO word brings in the held _HI word (R7). -/
theorem Dev.plainWrite_low {d : Dev} {a : Nat} {r : RegRow} {v : Word} (hr : regRow a = some r) (ha : r.access = .rw)
    (hl : r.lowWord) (hden : d.writeDenied a (r.merge (d.reg a) v) = false)
    (hign : d.writeIgnored a (r.merge (d.reg a) v) = false) :
    d.plainWrite r a v = (d.takeHeldHi (a + 4) 0xFFFFFFFF).setReg a (r.merge (d.reg a) v) := by
  have hplain : ¬ r.plain = 0#32 := hl.2.2
  simp [Dev.plainWrite, ha, hl.1, hplain, hden, hign, Dev.writeFollows_low _ hr hl]

/-- Once the _LO word is written too, each register of the pair has its word, and no other register has changed. -/
theorem Dev.reg_low_after_holdHi (d : Dev) (a b : Nat) (w x : Word) :
    (((d.holdHi (a + 4) w).takeHeldHi (a + 4) 0xFFFFFFFF).setReg a x).reg b =
      if b = a then x else if b = a + 4 then w else d.reg b := by
  have hheld : tget noneAt (d.holdHi (a + 4) w).heldHi (a + 4) = some w := by simp [Dev.holdHi]
  have hall : w &&& BitVec.ofNat 32 0xFFFFFFFF = w := BitVec.and_allOnes
  simp only [Dev.takeHeldHi, hheld, hall, Dev.reg_setReg]
  rfl

end Sys2Proof.Machine

namespace Sys2Proof.Proofs
open Sys2Proof.Machine

/-- Settles O11: the latch holds what the _HI word read as, and the held _HI word comes into force in the _LO write, which nothing
else follows. -/
theorem splitRegistersFollowTheirOrder : Obligations.SplitRegistersFollowTheirOrder := by
  intro a lo hi s r q hon hr hq hrp hqp hp hp4
  refine ⟨fun hnone d hlatch => ?_, fun hra hqa hrw hqw hplain hden hign hden4 hign4 => ?_⟩
  · rw [hostRead_low_latch hnone hr hrp hp] at hlatch
    rw [hostRead_of_latched (hlatch ▸ tget_tset_self ..)]
    exact ⟨rfl, by simp⟩
  · have hfirst : exec (.registerWrite (a + 4) hi) s = .next { s with dev := s.dev.holdHi (a + 4) (hi &&& q.plain) } := by
      rw [exec_registerWrite_rw hon hp4 hq hqw hqa, Dev.plainWrite_high hqa hqp hden4 hign4]
    have hsecond := exec_registerWrite_rw (s := { s with dev := s.dev.holdHi (a + 4) (hi &&& q.plain) }) hon hp hr hrw hra lo
    have hlow : (s.dev.holdHi (a + 4) (hi &&& q.plain)).plainWrite r a lo = _ :=
      Dev.plainWrite_low hr hra ⟨hrp, hrw, hplain⟩ hden hign
    simp only [hlow] at hsecond
    refine ⟨_, _, hfirst, hsecond, rfl, ?_, ?_, fun b hb hb4 => ?_, rfl⟩
    · simp [Dev.reg_low_after_holdHi]
    · simp
    · simp [Dev.reg_low_after_holdHi, hb, hb4]

end Sys2Proof.Proofs
end

section
/-! SUPPORT. What each way of a memory request does at its controller (R365, R366), what a read of a good block answers (R375), and what a
sticky bit leaves behind. -/

namespace Sys2Proof.Machine

/-! ### A request at its controller -/

/-- At a full controller, or behind others that stall there, a request stalls (R366). -/
theorem Dev.request_stalls {d : Dev} {r : MemReq} (h : d.stackFull (d.stackOf r.addr) = true) :
    d.request r = { d with mem := { d.mem with stalled := d.mem.stalled ++ [{ r with at_ := d.now2 }] } } :=
  if_pos h

/-- Where it must wait, a request is held behind the others, and beside the requests held only the peak may change (R365, R379, R381). -/
theorem Dev.request_waits {d : Dev} {r : MemReq} (hfull : d.stackFull (d.stackOf r.addr) = false) (hwait : d.mustWait r.addr = true) :
    (d.request r).mem = { d.mem with wait := d.mem.wait ++ [{ r with at_ := d.now2 }] } ∧ (d.request r).glb = d.glb := by
  simp [Dev.request, hfull, hwait]

/-- Otherwise it is served at once. -/
theorem Dev.request_serves {d : Dev} {r : MemReq} (hfull : d.stackFull (d.stackOf r.addr) = false) (hwait : d.mustWait r.addr = false) :
    d.request r = d.serve { r with at_ := d.now2 } := by
  simp [Dev.request, hfull, hwait]

/-! ### A read of a good block -/

/-- A block that the code finds good is read without a change to the device (R375). -/
theorem Dev.readBlock_good {d : Dev} {block : Nat} (h : d.badAt block = none) (req : Nat) (mf : DramFault) :
    d.readBlock req block .clean mf = (.good, d) := by
  simp [Dev.readBlock, Dev.noteFault, Dev.correct, h]

/-- An access leaves every block's code state as it is. -/
@[simp] theorem Dev.badAt_access (d : Dev) (a n block : Nat) : (d.access a n).badAt block = d.badAt block := by
  simp only [Dev.badAt, (Dev.access_keeps d a n).2.1]

/-- An access changes no byte. -/
@[simp] theorem Dev.rawRead_access (d : Dev) (a n b m : Nat) : (d.access a n).rawRead b m = d.rawRead b m := by
  simp only [Dev.rawRead, Dev.access_unlisted, (Dev.access_keeps d a n).1]

/-- A read of a good block is an access that answers the cells' bytes, to the host when it is the host's (R346, R375). -/
theorem Dev.serve_goodRead {d : Dev} {addr : Nat} (hgood : d.badAt (addr / 64) = none) (req n t : Nat) (mf : DramFault) :
    d.serve { write := false, req := req, addr := addr, n := n, bytes := [], meets := .clean, mirror := mf, at_ := t } =
      (d.access addr n).emit (if req = 0x08 then .barRead (d.rawRead addr n) false else .memResponse addr false) := by
  have hgood' : (d.access addr n).badAt (addr / 64) = none := by simpa using hgood
  simp [Dev.serve, Dev.readBlock_good hgood']

/-! ### The reading commands -/

/-- A requester's read of DRAM. -/
theorem exec_dramRead {s : State} (hon : s.on) (req addr n : Nat) (f mf : DramFault) :
    exec (.dramRead req addr n f mf) s = .next { s with
      dev := s.dev.request { write := false, req := req, addr := addr, n := n, bytes := [], meets := f, mirror := mf } } := by
  show execDramRead req addr n f mf s = _
  rw [execDramRead, onDev_on hon]

/-- A BAR2 read of DRAM that is there, while nothing is frozen, is the host's request (R345, R346). -/
theorem exec_bar2Read_dram {s : State} (hon : s.on) {addr : Nat} (hm : s.dev.memFrozen = false)
    (ha : s.dev.variant.dual = true ∨ addr < 0x1000000000) (n : Nat) (f mf : DramFault) :
    exec (.bar2Read addr n f mf) s = exec (.dramRead 0x08 addr n f mf) s := by
  have hno : ¬ (s.dev.memFrozen = true ∨ (s.dev.variant.dual = false ∧ 0x1000000000 ≤ addr)) := by
    rcases ha with hd | ha
    · simp [hm, hd]
    · simp [hm, ha]
  show execBar2Read addr n f mf s = _
  rw [exec_dramRead hon, execBar2Read, onDev_on hon, if_neg hno]

/-- Any other BAR2 read answers all ones (R345, R346, R379). -/
theorem exec_bar2Read_ones {s : State} (hon : s.on) {addr : Nat}
    (h : s.dev.memFrozen = true ∨ (s.dev.variant.dual = false ∧ 0x1000000000 ≤ addr)) (n : Nat) (f mf : DramFault) :
    exec (.bar2Read addr n f mf) s = .next { s with dev := s.dev.emit (.barRead (List.replicate n 0xFF) false) } := by
  show execBar2Read addr n f mf s = _
  rw [execBar2Read, onDev_on hon, if_pos h]

/-- A BAR0 access of a wrong size (R344). -/
theorem exec_bar0Size {s : State} (hon : s.on) (read : Bool) :
    exec (.bar0Size read) s = .next { s with
      dev := if read then (s.dev.sticky ⟨R.HIF_EVENT, 0, 1⟩ 1 true).emit (.barRead [0, 0, 0, 0] false)
        else s.dev.sticky ⟨R.HIF_EVENT, 0, 1⟩ 1 true } := by
  show execBar0Size read s = _
  rw [execBar0Size, onDev_on hon]
  rfl

/-! ### Outputs and sticky bits -/

/-- An output changes no register. -/
@[simp] theorem Dev.reg_emit (d : Dev) (o : Out) (a : Nat) : (d.emit o).reg a = d.reg a :=
  Dev.reg_congr (Dev.emit_keeps d o).2.1 a

/-- Nor does an interrupt. -/
@[simp] theorem Dev.reg_irq (d : Dev) (v a : Nat) : (d.irq v).reg a = d.reg a :=
  Dev.reg_congr (Dev.irq_keeps d v).2.1 a

/-- So neither changes a field. -/
@[simp] theorem Dev.fld_emit (d : Dev) (o : Out) (f : Fld) : (d.emit o).fld f = d.fld f := by simp [Dev.fld]

@[simp] theorem Dev.fld_irq (d : Dev) (v : Nat) (f : Fld) : (d.irq v).fld f = d.fld f := by simp [Dev.fld]

@[simp] theorem Dev.bit_emit (d : Dev) (o : Out) (f : Fld) : (d.emit o).bit f = d.bit f := by simp [Dev.bit]

/-- While boundary scan leaves the pins alone, what is sent is the newest output. -/
theorem Dev.emit_out {d : Dev} (h : d.pins.boundary = 0) (o : Out) : (d.emit o).glb.out = o :: d.glb.out := by
  simp [Dev.emit, h]

/-- A sticky bit changes its own register alone. -/
theorem Dev.reg_sticky_ne (d : Dev) (f : Fld) (v : Nat) (e : Bool) {a : Nat} (h : a ≠ f.addr) :
    (d.sticky f v e).reg a = d.reg a := by
  unfold Dev.sticky
  split
  · rfl
  · cases e <;> simp [Dev.reg_put_ne _ _ _ _ h]

/-- A sticky bit is set, whether it was before or not. -/
theorem Dev.bit_sticky (d : Dev) (f : Fld) (v : Nat) (e : Bool) (hw : f.w = 1) (hlo : f.lo < 32) :
    (d.sticky f v e).bit f = true := by
  unfold Dev.sticky
  split
  next hset => exact hset
  next =>
    have hput : (d.put f 1).fld f = 1 := by simp [Dev.fld_put_self d f 1 (by omega), hw]
    cases e <;> simp [Dev.bit, hput]

end Sys2Proof.Machine

namespace Sys2Proof.Proofs
open Sys2Proof.Machine

/-- Settles O40: a request stalls, waits or is served by its controller's three cases, and a good block's read is an access with an
answer; the other clauses are those of the BAR2 read and of the sticky event bit. -/
theorem readsAnswerFromTheCells : Obligations.ReadsAnswerFromTheCells := by
  intro s req addr n f mf hon
  refine ⟨fun hfull hwait hgood => ?_, fun hfull hwait => ?_, fun hfull => ?_, fun hm ha => exec_bar2Read_dram hon hm ha n f mf,
    fun h => exec_bar2Read_ones hon h n f mf, fun read => ?_⟩
  · rw [exec_dramRead hon, Dev.request_serves, Dev.serve_goodRead hgood] <;> assumption
  · refine ⟨_, exec_dramRead hon .., ?_⟩
    apply Dev.request_waits <;> assumption
  · rw [exec_dramRead hon, Dev.request_stalls]
    assumption
  · have hset := Dev.bit_sticky s.dev ⟨R.HIF_EVENT, 0, 1⟩ 1 true rfl (by decide)
    refine ⟨_, exec_bar0Size hon read, ?_⟩
    cases read
    · exact ⟨hset, by simp, fun a ha => Dev.reg_sticky_ne _ _ _ _ ha, by simp⟩
    · refine ⟨by simpa using hset, by simp, fun a ha => ?_, fun _ hb => ?_⟩
      · simpa using Dev.reg_sticky_ne s.dev _ _ _ ha
      · simp [Dev.emit_out, hb]

end Sys2Proof.Proofs
end

section
/-! SUPPORT. The end of a host's work (R343, R354, R424, R435): the registers and units that it reaches, one lemma per operation it is
made of, and what the engines and the host interface are left as. -/

namespace Sys2Proof.Machine

/-! ### What the end of a host's work reaches -/

/-- The registers that it reaches: the HIF, the security block, and GLB_STATUS with TRIAL. -/
def hostEndReg (a : Nat) : Bool := isHif a || a / 0x100000 == 0x10 || a == R.GLB_STATUS

/-- The device but for its registers, outputs, host interface, claims and sessions. -/
def Dev.apartFromHost (d : Dev) : Dev :=
  { d with regs := [], heldHi := [], latch := [], glb := {}, hif := {}, cfg := {}, sec := {} }

/-- From one device to the next no more than that has changed, and the command that runs, if any, is still the same one. -/
structure Dev.HostEndOnly (d e : Dev) : Prop where
  reg : ∀ a, hostEndReg a = false → e.reg a = d.reg a
  apart : e.apartFromHost = d.apartFromHost
  taken : e.hif.taken = d.hif.taken
  running : e.hif.running.map Running.id = d.hif.running.map Running.id

/-- The units of inspection, Runnel, the network, time and DRAM are apart from the host. -/
theorem Dev.units_of_apart {d e : Dev} (h : e.apartFromHost = d.apartFromHost) :
    e.active = d.active ∧ e.mem = d.mem ∧ e.rnl = d.rnl ∧ e.tim = d.tim ∧ e.tdl = d.tdl ∧ e.net = d.net ∧ e.cam = d.cam ∧
      e.str = d.str ∧ e.seam = d.seam ∧ e.lode = d.lode ∧ e.asy = d.asy ∧ e.shf = d.shf :=
  ⟨congrArg (·.active) h, congrArg (·.mem) h, congrArg (·.rnl) h, congrArg (·.tim) h, congrArg (·.tdl) h, congrArg (·.net) h,
    congrArg (·.cam) h, congrArg (·.str) h, congrArg (·.seam) h, congrArg (·.lode) h, congrArg (·.asy) h, congrArg (·.shf) h⟩

namespace Dev.HostEndOnly

theorem refl (d : Dev) : d.HostEndOnly d := ⟨fun _ _ => rfl, rfl, rfl, rfl⟩

theorem trans {d e f : Dev} (h : d.HostEndOnly e) (g : e.HostEndOnly f) : d.HostEndOnly f :=
  ⟨fun a ha => (g.reg a ha).trans (h.reg a ha), g.apart.trans h.apart, g.taken.trans h.taken, g.running.trans h.running⟩

theorem ite {d e f : Dev} (c : Prop) [Decidable c] (h : d.HostEndOnly e) (g : d.HostEndOnly f) :
    d.HostEndOnly (if c then e else f) := by
  split
  · exact h
  · exact g

theorem foldl {α : Type} {f : Dev → α → Dev} {l : List α} (h : ∀ d : Dev, ∀ x ∈ l, d.HostEndOnly (f d x)) (d : Dev) :
    d.HostEndOnly (l.foldl f d) :=
  List.foldlRecOn (motive := Dev.HostEndOnly d) l f (refl d) fun e he x hx => he.trans (h e x hx)

end Dev.HostEndOnly

/-! ### The operations it is made of -/

theorem Dev.put_hostEnd (d : Dev) (f : Fld) (v : Nat) (h : hostEndReg f.addr = true := by decide) : d.HostEndOnly (d.put f v) where
  reg a ha := Dev.reg_put_ne _ _ _ _ fun e => by simp [e, h] at ha
  apart := rfl
  taken := rfl
  running := rfl

theorem Dev.irq_hostEnd (d : Dev) (v : Nat) : d.HostEndOnly (d.irq v) where
  reg a _ := Dev.reg_irq d v a
  apart := by simp [Dev.apartFromHost]
  taken := by unfold Dev.irq; dsimp only; split <;> simp
  running := by unfold Dev.irq; dsimp only; split <;> simp

theorem Dev.sticky_hostEnd (d : Dev) (f : Fld) (v : Nat) (e : Bool) (h : hostEndReg f.addr = true := by decide) :
    d.HostEndOnly (d.sticky f v e) :=
  .ite _ (.refl d) ((Dev.put_hostEnd d f 1 h).trans (.ite _ (Dev.irq_hostEnd _ v) (.refl _)))

theorem Dev.secEvent_hostEnd (d : Dev) (bit : Nat) : d.HostEndOnly (d.secEvent bit) :=
  Dev.sticky_hostEnd d _ _ _ (show hostEndReg R.SEC_EVENT = true by decide)

theorem Dev.setOwn_hostEnd (d : Dev) (on : Bool) : d.HostEndOnly (d.setOwn on) :=
  (Dev.put_hostEnd d _ _).trans (Dev.put_hostEnd _ _ _)

theorem Dev.setStage_hostEnd (d : Dev) (n : Nat) : d.HostEndOnly (d.setStage n) :=
  (Dev.put_hostEnd d _ _).trans (Dev.put_hostEnd _ _ _)

/-- The session's state in the security block is among what the end of a host's work reaches. -/
theorem Dev.sec_hostEnd (d : Dev) (u : SecUnit) : d.HostEndOnly { d with sec := u } := ⟨fun _ _ => rfl, rfl, rfl, rfl⟩

theorem Dev.setHolder_hostEnd (d : Dev) (h : Option Holder) : d.HostEndOnly (d.setHolder h) :=
  (Dev.sec_hostEnd d _).trans (Dev.put_hostEnd _ _ _)

/-- A command answered keeps its number. -/
@[simp] theorem Running.answered_id (r : Running) (id status : Nat) (resp : List Byte) : (r.answered id status resp).id = r.id := by
  unfold Running.answered
  split <;> rfl

theorem Dev.mbAnswer_hostEnd (d : Dev) (id status : Nat) (resp : List Byte) : d.HostEndOnly (d.mbAnswer id status resp) where
  reg _ _ := rfl
  apart := rfl
  taken := rfl
  running := by cases h : d.hif.running <;> simp [Dev.mbAnswer, h]

theorem Dev.mbAnswerAll_hostEnd (d : Dev) (code status : Nat) (resp : List Byte) : d.HostEndOnly (d.mbAnswerAll code status resp) :=
  .foldl (fun e id _ => Dev.mbAnswer_hostEnd e id status resp) d

/-- The end of an update session (R443). -/
theorem Dev.updEnd_hostEnd (d : Dev) : d.HostEndOnly d.updEnd := by
  refine .ite _ ?_ (.refl d)
  have hclosed := (Dev.setHolder_hostEnd d none).trans (Dev.secEvent_hostEnd _ 1)
  have hanswered := hclosed.trans (.ite (((d.setHolder none).secEvent 1).stage = 2)
    (Dev.mbAnswerAll_hostEnd _ 0x100D stBadState []) (.refl _))
  exact hanswered.trans (.ite _ (Dev.setStage_hostEnd _ 0) (.refl _))

/-- The end of the owner session, and with it of a host's update session (R435, R443). -/
theorem Dev.ownEnd_hostEnd (d : Dev) : d.HostEndOnly d.ownEnd := by
  refine .ite _ ?_ (.refl d)
  have hclosed := ((Dev.sec_hostEnd d { d.sec with session := none }).trans (Dev.setOwn_hostEnd _ false)).trans
    (Dev.secEvent_hostEnd _ 1)
  dsimp only
  split
  · exact .ite _ hclosed (hclosed.trans (Dev.updEnd_hostEnd _))
  · exact hclosed

/-! ### The engines stop -/

theorem Dev.dmaHalt_hostEnd (d : Dev) {e : Nat} (he : e < 16) : d.HostEndOnly (d.dmaHalt e) := by
  have hreg : hostEndReg (R.HIF_DMAe_STATUS e) = true := by revert e; decide
  obtain ⟨hregs, -, -, -⟩ := Dev.put_hostEnd d ⟨R.HIF_DMAe_STATUS e, 0, 1⟩ 0 hreg
  exact ⟨hregs, rfl, rfl, rfl⟩

/-- An engine that stops does not run, and no other engine starts. -/
theorem Dev.engineRunning_dmaHalt (d : Dev) (e x : Nat) : (d.dmaHalt e).engineRunning x = (decide (x ≠ e) && d.engineRunning x) := by
  show (d.put ⟨R.HIF_DMAe_STATUS e, 0, 1⟩ 0).bit ⟨R.HIF_DMAe_STATUS x, 0, 1⟩ = _
  by_cases h : x = e
  · subst h
    simp [Dev.bit, Dev.fld_put_self]
  · have haddr : R.HIF_DMAe_STATUS x ≠ R.HIF_DMAe_STATUS e := by simp only [R.HIF_DMAe_STATUS]; omega
    have hother := Dev.fld_put_ne d ⟨R.HIF_DMAe_STATUS e, 0, 1⟩ ⟨R.HIF_DMAe_STATUS x, 0, 1⟩ 0 (by simp) (.inl haddr)
    simp [Dev.engineRunning, Dev.bit, hother, h]

/-- Every engine stops (R343, R354). -/
def Dev.haltEngines (d : Dev) : Dev := (List.range 16).foldl (fun d e => d.dmaHalt e) d

theorem Dev.haltEngines_hostEnd (d : Dev) : d.HostEndOnly d.haltEngines :=
  .foldl (fun e _ hx => Dev.dmaHalt_hostEnd e (List.mem_range.mp hx)) d

/-- The commands of the mailbox do not notice. -/
theorem Dev.haltEngines_commands (d : Dev) : d.haltEngines.hif.running = d.hif.running ∧ d.haltEngines.hif.old = d.hif.old :=
  List.foldlRecOn (motive := fun e : Dev => e.hif.running = d.hif.running ∧ e.hif.old = d.hif.old) _ _ ⟨rfl, rfl⟩ fun _ h _ _ => h

theorem Dev.engineRunning_haltEngines (d : Dev) {x : Nat} (hx : x < 16) : d.haltEngines.engineRunning x = false := by
  have key : ∀ (l : List Nat) (d : Dev), x ∈ l ∨ d.engineRunning x = false →
      (l.foldl (fun d e => d.dmaHalt e) d).engineRunning x = false := by
    intro l
    induction l with
    | nil => intro d h; simpa using h
    | cons e l ih =>
      intro d h
      refine ih _ ?_
      rw [Dev.engineRunning_dmaHalt]
      by_cases hxe : x = e <;> simp_all
  exact key _ _ (.inl (List.mem_range.mpr hx))

/-! ### Detachment -/

/-- What detachment makes of a device whose sessions and engines have stopped: the HIF as at reset, the running command old, and no claim
of a host's. -/
def Dev.hostGone (d : Dev) : Dev :=
  { d with
    regs := d.regs.filter (fun e => !isHif e.1), heldHi := d.heldHi.filter (fun e => !isHif e.1)
    latch := d.latch.filter (fun e => !isHif e.1)
    hif := { old := d.hif.old ++ (d.hif.running.map (fun r => { r with discard := true })).toList, taken := d.hif.taken }
    cfg := { d.cfg with claims := d.cfg.claims.filter (fun c => !c.host) } }

theorem Dev.hostGone_apart (d : Dev) : d.hostGone.apartFromHost = d.apartFromHost := rfl

theorem Dev.detach_eq (d : Dev) : d.detach = d.ownEnd.haltEngines.hostGone := rfl

/-- A store without the keys that a test drops holds the defaults there. -/
theorem tget_filter_dropped {α : Type} (d : Nat → α) (p : Nat → Bool) (j : Nat) (hp : p j = false) (t : Tbl α) :
    tget d (t.filter (fun e => p e.1)) j = d j := by
  induction t with
  | nil => rfl
  | cons e t ih =>
    obtain ⟨a, v⟩ := e
    by_cases ha : p a
    · have hja : j ≠ a := fun h => by simp [h, ha] at hp
      rw [List.filter_cons_of_pos (by simpa using ha), tget, if_neg hja, ih]
    · rw [List.filter_cons_of_neg (by simpa using ha), ih]

/-- Every HIF register is back at its reset value (R354). -/
theorem Dev.reg_hostGone_hif (d : Dev) {a : Nat} (h : isHif a = true) : d.hostGone.reg a = resetWord a :=
  tget_filter_dropped resetWord (fun x => !isHif x) a (by simp [h]) d.regs

/-- Every other register is as it was. -/
theorem Dev.reg_hostGone (d : Dev) {a : Nat} (h : isHif a = false) : d.hostGone.reg a = d.reg a :=
  tget_filter_of resetWord (fun x => !isHif x) a (by simp [h]) d.regs

/-- At their reset values HIF_STATUS shows no owner session and no engine runs. -/
theorem Dev.hostGone_idle (d : Dev) : d.hostGone.ownSession = false ∧ ∀ e, e < 16 → d.hostGone.engineRunning e = false := by
  have hbit : ∀ f : Fld, isHif f.addr = true → d.hostGone.bit f = (getBits (resetWord f.addr) f.lo f.w != 0) := fun f hf => by
    simp only [Dev.bit, Dev.fld, Dev.reg_hostGone_hif d hf]
  refine ⟨(hbit _ (by decide)).trans (by decide), fun e he => (hbit _ ?_).trans ?_⟩ <;> revert e <;> decide

/-- The three detachments are one (R354). -/
theorem exec_detachment {c : Instr} {s : State} (hon : s.on) (hc : c = .usb4LinkLoss ∨ c = .functionLevelReset ∨ c = .hotReset) :
    exec c s = .next { s with dev := s.dev.detach } := by
  rcases hc with rfl | rfl | rfl
  · show execUsb4LinkLoss s = _
    rw [execUsb4LinkLoss, onDev_on hon]
  · show execFunctionLevelReset s = _
    rw [execFunctionLevelReset, onDev_on hon]
  · show execHotReset s = _
    rw [execHotReset, onDev_on hon]

/-- What the host interface keeps beside its registers shows in none of them, and in no engine's RUN. -/
theorem Dev.reg_withHif (d : Dev) (u : HifUnit) (a : Nat) : ({ d with hif := u }).reg a = d.reg a := rfl

theorem Dev.fld_withHif (d : Dev) (u : HifUnit) (f : Fld) : ({ d with hif := u }).fld f = d.fld f := rfl

theorem Dev.engineRunning_withHif (d : Dev) (u : HifUnit) (e : Nat) : ({ d with hif := u }).engineRunning e = d.engineRunning e := rfl

/-- An attachment shows the generation and wakes the function (R342, R343). -/
theorem exec_attach {s : State} (hon : s.on) (gen2 : Bool) :
    exec (.attach gen2) s = .next { s with dev := { s.dev.putBit ⟨R.HIF_STATUS, 0, 2⟩ gen2 with
      hif := { s.dev.hif with attached := true, d3hot := false } } } := by
  show execAttach gen2 s = _
  rw [execAttach, onDev_on hon]
  rfl

/-- D3hot stops every engine (R343). -/
theorem exec_d3hot {s : State} (hon : s.on) :
    exec .d3hot s = .next { s with dev := { s.dev.haltEngines with hif := { s.dev.haltEngines.hif with d3hot := true } } } := by
  show execD3hot s = _
  rw [execD3hot, onDev_on hon]
  rfl

end Sys2Proof.Machine

namespace Sys2Proof.Proofs
open Sys2Proof.Machine

/-- Settles O43: a detachment is the end of the owner session, the stop of every engine and the return of the HIF to its reset values, and
each keeps to the registers and units of `Dev.HostEndOnly`. -/
theorem detachmentEndsTheHostsWork : Obligations.DetachmentEndsTheHostsWork := by
  intro c s gen2 hon
  refine ⟨fun hc => ?_, ?_, ?_⟩
  · have hend := s.dev.ownEnd_hostEnd
    have hhalt := hend.trans s.dev.ownEnd.haltEngines_hostEnd
    obtain ⟨hrunning, hold⟩ := s.dev.ownEnd.haltEngines_commands
    obtain ⟨hown, hengines⟩ := s.dev.ownEnd.haltEngines.hostGone_idle
    refine ⟨_, exec_detachment hon hc, ?_⟩
    rw [Dev.detach_eq]
    refine ⟨fun a ha => Dev.reg_hostGone_hif _ ha, hown, rfl, hengines, fun x hx => ?_, ⟨?_, hend.running⟩,
      fun a hhif hsec hglb => ?_, Dev.units_of_apart ((Dev.hostGone_apart _).trans hhalt.apart)⟩
    · simpa using (List.mem_filter.mp hx).2
    · rw [Dev.hostGone, hrunning, hold, hhalt.taken]
    · exact (Dev.reg_hostGone _ hhif).trans (hhalt.reg a (by simp [hostEndReg, hhif, hsec, hglb]))
  · refine ⟨_, exec_attach hon gen2, rfl, rfl, ?_, fun a ha => (Dev.reg_withHif ..).trans (Dev.reg_put_ne _ _ _ _ ha), rfl⟩
    rw [Dev.fld_withHif, Dev.putBit, Dev.fld_put_self _ _ _ (by decide)]
    cases gen2 <;> rfl
  · obtain ⟨-, hmem, -⟩ := Dev.units_of_apart s.dev.haltEngines_hostEnd.apart
    exact ⟨_, exec_d3hot hon, rfl, fun e he => (Dev.engineRunning_withHif ..).trans (s.dev.engineRunning_haltEngines he), hmem⟩

end Sys2Proof.Proofs
end

section
/-! SUPPORT. Physical addresses and DRAM locations (R364, Table 17-2). Both sides of the table are read through three parts of an address:
the stack, the five selection bits and the local address. An address below the end of memory is put together from its three parts, and
the local address from the column, bank group, bank, SID and row; the pseudo-channel is the selection XOR L[12:8], five bits of
the local address, which is undone by the same XOR. -/

namespace Sys2Proof.Machine

/-! ### The three parts of an address -/

/-- A bit of the w lowest bits. -/
theorem testBit_low (n : Nat) {w i : Nat} (hi : i < w) : (n % 2 ^ w).testBit i = n.testBit i := by
  rw [Nat.testBit_mod_two_pow, decide_eq_true hi, Bool.true_and]

/-- A bit of a field of w bits that begins at bit lo. -/
theorem testBit_field (n lo : Nat) {w i : Nat} (hi : i < w) : (n / 2 ^ lo % 2 ^ w).testBit i = n.testBit (lo + i) := by
  rw [testBit_low _ hi, Nat.testBit_div_two_pow, Nat.add_comm]

/-- A bit of the XOR of two such fields. -/
theorem testBit_xor_fields (n lo lo' : Nat) {w i : Nat} (hi : i < w) :
    ((n / 2 ^ lo % 2 ^ w) ^^^ (n / 2 ^ lo' % 2 ^ w)).testBit i = (n.testBit (lo + i) ^^ n.testBit (lo' + i)) := by
  rw [Nat.testBit_xor, testBit_field n lo hi, testBit_field n lo' hi]

/-- The end of memory: 128 GiB in two stacks, 64 GiB in one (`Variant.dramBytes`, by the stacks alone). -/
def memEnd (dual : Bool) : Nat := if dual then 0x2000000000 else 0x1000000000

/-- A[8], or the one stack there is. -/
def stackPart (dual : Bool) (a : Nat) : Nat := if dual then a / 2 ^ 8 % 2 else 0

/-- The selection bits that choose the pseudo-channel with L[12:8]: A[13:9], or A[12:8] with one stack. -/
def selPart (dual : Bool) (a : Nat) : Nat := if dual then a / 2 ^ 9 % 2 ^ 5 else a / 2 ^ 8 % 2 ^ 5

/-- The local address L[30:0]. -/
def localPart (dual : Bool) (a : Nat) : Nat := 2 ^ 8 * ((if dual then a / 2 ^ 14 else a / 2 ^ 13) % 2 ^ 23) + a % 2 ^ 8

/-- The address of a stack, a selection and a local address. -/
def joinParts (dual : Bool) (stack sel l : Nat) : Nat :=
  if dual then l % 256 + stack * 256 + sel * 2 ^ 9 + l / 256 * 2 ^ 14 else l % 256 + sel * 2 ^ 8 + l / 256 * 2 ^ 13

theorem stackPart_lt (dual : Bool) (a : Nat) : stackPart dual a < if dual then 2 else 1 := by
  cases dual
  · exact Nat.one_pos
  · exact Nat.mod_lt _ Nat.two_pos

theorem selPart_lt (dual : Bool) (a : Nat) : selPart dual a < 2 ^ 5 := by
  cases dual <;> exact Nat.mod_lt _ (Nat.two_pow_pos 5)

theorem localPart_lt (dual : Bool) (a : Nat) : localPart dual a < 2 ^ 31 := by
  simp only [localPart]
  omega

/-- An address below the end of memory is put together from its parts. -/
theorem joinParts_parts {dual : Bool} {a : Nat} (ha : a < memEnd dual) :
    joinParts dual (stackPart dual a) (selPart dual a) (localPart dual a) = a := by
  cases dual <;> simp [memEnd, joinParts, stackPart, selPart, localPart] at ha ⊢ <;> omega

/-- What stands above the selection bits of an address put together is L[30:8]. -/
theorem joinParts_above {dual : Bool} {stack sel l : Nat} (hstack : stack < if dual then 2 else 1) (hsel : sel < 2 ^ 5) :
    (if dual then joinParts dual stack sel l / 2 ^ 14 else joinParts dual stack sel l / 2 ^ 13) = l / 2 ^ 8 := by
  cases dual <;> simp [joinParts] at hstack ⊢ <;> omega

theorem joinParts_lt {dual : Bool} {stack sel l : Nat} (hstack : stack < if dual then 2 else 1) (hsel : sel < 2 ^ 5)
    (hl : l < 2 ^ 31) : joinParts dual stack sel l < memEnd dual := by
  cases dual <;> simp [memEnd, joinParts] at hstack ⊢ <;> omega

theorem stackPart_joinParts {dual : Bool} {stack : Nat} (hstack : stack < if dual then 2 else 1) (sel l : Nat) :
    stackPart dual (joinParts dual stack sel l) = stack := by
  cases dual <;> simp [joinParts, stackPart] at hstack ⊢ <;> omega

theorem selPart_joinParts {dual : Bool} {stack sel : Nat} (hstack : stack < if dual then 2 else 1) (hsel : sel < 2 ^ 5)
    (l : Nat) : selPart dual (joinParts dual stack sel l) = sel := by
  cases dual <;> simp [joinParts, selPart] at hstack ⊢ <;> omega

theorem localPart_joinParts {dual : Bool} {stack sel l : Nat} (hstack : stack < if dual then 2 else 1) (hsel : sel < 2 ^ 5)
    (hl : l < 2 ^ 31) : localPart dual (joinParts dual stack sel l) = l := by
  have hlow : joinParts dual stack sel l % 2 ^ 8 = l % 2 ^ 8 := by
    cases dual <;> simp only [joinParts, if_true, Bool.false_eq_true, if_false] <;> omega
  rw [localPart, joinParts_above hstack hsel, hlow]
  omega

/-- L[7:0] is A[7:0], and L[30:8] the bits of the address above the selection bits. -/
theorem testBit_localPart (dual : Bool) (a : Nat) {i : Nat} (hi : i < 31) :
    (localPart dual a).testBit i =
      if i < 8 then a.testBit i else if dual then a.testBit (i + 6) else a.testBit (i + 5) := by
  rw [localPart, Nat.testBit_two_pow_mul_add _ (Nat.mod_lt _ (Nat.two_pow_pos 8))]
  by_cases hlow : i < 8
  · rw [if_pos hlow, if_pos hlow, testBit_low a hlow]
  · have h23 : i - 8 < 23 := by omega
    rw [if_neg hlow, if_neg hlow]
    cases dual
    · exact (testBit_field a 13 h23).trans (congrArg _ (by omega))
    · exact (testBit_field a 14 h23).trans (congrArg _ (by omega))

/-! ### The parts of a location -/

/-- The local address of a location. -/
def Loc.localAddr (x : Loc) : Nat := x.column + x.bankGroup * 2 ^ 10 + x.bank * 2 ^ 12 + x.sid * 2 ^ 14 + x.row * 2 ^ 15

/-- The location of a stack, a pseudo-channel and a local address. -/
def Loc.ofLocal (stack pc l : Nat) : Loc :=
  { stack := stack, pc := pc, sid := l / 2 ^ 14 % 2, bankGroup := l / 2 ^ 10 % 4, bank := l / 2 ^ 12 % 4, row := l / 2 ^ 15,
    column := l % 1024 }

theorem Loc.localAddr_lt {dual : Bool} {x : Loc} (hx : Loc.fits dual x) : x.localAddr < 2 ^ 31 := by
  obtain ⟨-, -, hsid, hgroup, hbank, hrow, hcolumn⟩ := hx
  simp only [Loc.localAddr]
  omega

theorem Loc.localAddr_ofLocal (stack pc l : Nat) : (Loc.ofLocal stack pc l).localAddr = l := by
  simp only [Loc.localAddr, Loc.ofLocal]
  omega

theorem Loc.ofLocal_localAddr {dual : Bool} {x : Loc} (hx : Loc.fits dual x) : Loc.ofLocal x.stack x.pc x.localAddr = x := by
  obtain ⟨-, -, hsid, hgroup, hbank, hrow, hcolumn⟩ := hx
  cases x
  simp only [Loc.ofLocal, Loc.localAddr, Loc.mk.injEq, true_and] at *
  omega

theorem Loc.ofLocal_fits {dual : Bool} {stack pc l : Nat} (hstack : stack < if dual then 2 else 1) (hpc : pc < 32)
    (hl : l < 2 ^ 31) : Loc.fits dual (Loc.ofLocal stack pc l) := by
  refine ⟨hstack, hpc, ?_, ?_, ?_, ?_, ?_⟩ <;> simp only [Loc.ofLocal] <;> omega

/-! ### The decode and its inverse -/

/-- What the selection is folded with: L[12:8], which are A[18:14], or A[17:13] with one stack. -/
def foldBits (l : Nat) : Nat := l / 256 % 32

theorem xor_foldBits_lt {n : Nat} (hn : n < 2 ^ 5) (l : Nat) : n ^^^ foldBits l < 2 ^ 5 :=
  Nat.xor_lt_two_pow hn (Nat.mod_lt _ (Nat.two_pow_pos 5))

theorem xor_foldBits_twice (n l : Nat) : n ^^^ foldBits l ^^^ foldBits l = n := by
  rw [Nat.xor_assoc, Nat.xor_self, Nat.xor_zero]

/-- The decode gives the location of the address's parts, with the selection folded. -/
theorem decodeAddr_eq_ofLocal (dual : Bool) (a : Nat) :
    decodeAddr dual a = Loc.ofLocal (stackPart dual a) (selPart dual a ^^^ foldBits (localPart dual a)) (localPart dual a) := by
  have hfold : foldBits (localPart dual a) = (if dual then a / 2 ^ 14 else a / 2 ^ 13) % 32 := by
    simp only [foldBits, localPart]
    omega
  rw [hfold]
  cases dual <;> simp [decodeAddr, Loc.ofLocal, stackPart, selPart, localPart, Nat.mul_comm, Nat.add_comm]

/-- The address of a location is made up of its stack, its pseudo-channel unfolded, and its local address. -/
theorem encodeAddr_eq_joinParts (dual : Bool) (x : Loc) :
    encodeAddr dual x = joinParts dual x.stack (x.pc ^^^ foldBits x.localAddr) x.localAddr := rfl

theorem decodeAddr_fits (dual : Bool) (a : Nat) : Loc.fits dual (decodeAddr dual a) := by
  rw [decodeAddr_eq_ofLocal]
  exact Loc.ofLocal_fits (stackPart_lt dual a) (xor_foldBits_lt (selPart_lt dual a) _) (localPart_lt dual a)

/-- The same XOR that folds the selection into the pseudo-channel unfolds it. -/
theorem encodeAddr_decodeAddr {dual : Bool} {a : Nat} (ha : a < memEnd dual) : encodeAddr dual (decodeAddr dual a) = a := by
  rw [encodeAddr_eq_joinParts, decodeAddr_eq_ofLocal, Loc.localAddr_ofLocal]
  show joinParts dual (stackPart dual a) (selPart dual a ^^^ foldBits (localPart dual a) ^^^ foldBits (localPart dual a))
    (localPart dual a) = a
  rw [xor_foldBits_twice, joinParts_parts ha]

theorem encodeAddr_lt {dual : Bool} {x : Loc} (hx : Loc.fits dual x) : encodeAddr dual x < memEnd dual := by
  have hlocal := Loc.localAddr_lt hx
  obtain ⟨hstack, hpc, -⟩ := hx
  exact joinParts_lt hstack (xor_foldBits_lt hpc _) hlocal

theorem decodeAddr_encodeAddr {dual : Bool} {x : Loc} (hx : Loc.fits dual x) : decodeAddr dual (encodeAddr dual x) = x := by
  have hlocal := Loc.localAddr_lt hx
  have hfields := Loc.ofLocal_localAddr hx
  obtain ⟨hstack, hpc, -⟩ := hx
  have hsel : x.pc ^^^ foldBits x.localAddr < 2 ^ 5 := xor_foldBits_lt hpc _
  rw [decodeAddr_eq_ofLocal, encodeAddr_eq_joinParts, stackPart_joinParts hstack, selPart_joinParts hstack hsel,
    localPart_joinParts hstack hsel hlocal, xor_foldBits_twice, hfields]

/-! ### The decode bit by bit -/

theorem stack_decodeAddr (dual : Bool) (a : Nat) :
    (decodeAddr dual a).stack = if dual then (a.testBit 8).toNat else 0 := by
  rw [decodeAddr_eq_ofLocal, Nat.toNat_testBit]
  rfl

theorem testBit_pc_decodeAddr (dual : Bool) (a : Nat) {i : Nat} (hi : i < 5) :
    (decodeAddr dual a).pc.testBit i =
      if dual then (a.testBit (9 + i)) ^^ (a.testBit (14 + i)) else (a.testBit (8 + i)) ^^ (a.testBit (13 + i)) := by
  cases dual
  · exact testBit_xor_fields a 8 13 hi
  · exact testBit_xor_fields a 9 14 hi

end Sys2Proof.Machine

namespace Sys2Proof.Proofs
open Sys2Proof.Machine

/-- Settles O38: an address and a location have the same stack, selection and local address, so each is got back from the other; the
local address's bits are those of the address, and the fields of the location are runs of them. -/
theorem addressesAndLocationsAgree : Obligations.AddressesAndLocationsAgree := by
  intro dual
  refine ⟨fun a ha => ?_, fun x hx => ⟨encodeAddr_lt hx, decodeAddr_encodeAddr hx⟩⟩
  intro x l
  have hl : ∀ i, i < 31 → (localPart dual a).testBit i = l i := fun i hi => testBit_localPart dual a hi
  have hloc : x = Loc.ofLocal _ _ (localPart dual a) := decodeAddr_eq_ofLocal dual a
  refine ⟨decodeAddr_fits dual a, encodeAddr_decodeAddr ha, stack_decodeAddr dual a,
    fun i hi => testBit_pc_decodeAddr dual a hi, ?_⟩
  rw [hloc]
  refine ⟨fun i hi => ?column, fun i hi => ?bankGroup, fun i hi => ?bank, ?sid, fun i hi => ?row⟩
  case column =>
    rw [← hl i (by omega)]
    exact testBit_low _ hi
  case bankGroup =>
    rw [← hl _ (by omega)]
    exact testBit_field _ 10 hi
  case bank =>
    rw [← hl _ (by omega)]
    exact testBit_field _ 12 hi
  case sid =>
    rw [← hl _ (by omega), Nat.toNat_testBit]
    rfl
  case row =>
    rw [← hl _ (by omega), Nat.add_comm]
    exact Nat.testBit_div_two_pow ..

end Sys2Proof.Proofs
end
